-- ==== Sys2Proof/Word.lean ====
section
/-! DEFINITION. The words of the machine and their plainest arithmetic: bytes, 64-bit registers, and the
reading of a bit field of a number (R5: bit 0 is the least significant). -/

namespace Sys2Proof

/-- A byte of memory. -/
abbrev Byte := BitVec 8

/-- A 64-bit register, instruction word or address (R9). -/
abbrev Word := BitVec 64

/-- A vector register of 2048 bits (R44). -/
abbrev VReg := BitVec 2048

/-- A predicate register, one bit a lane, lane 0 in bit 0 (R44). -/
abbrev PReg := BitVec 256

/-- The address of one byte of the package's physical address space (R237), as a number. -/
abbrev Addr := Nat

/-- The five flags, NV 16, DZ 8, OF 4, UF 2, NX 1 (ENG_FPFLAGS, R66). -/
abbrev Flags := BitVec 5

end Sys2Proof
end

