-- ==== Sys2Proof/Syntax.lean ====
section
/-! DEFINITION. The commands: one constructor for every row of the spec's table of operations and events, with the
row's operands. What comes from outside the package, or is fixed by physics and not by the spec (the outcome of a
lane check, a temperature, the next completion), is an operand. -/

namespace Sys2Proof

/-- A 20-bit address-space number (R10, R66). -/
abbrev Asn := BitVec 20

/-- Who executes a Melza instruction: a logical engine, or the invocation running on a Cupola unit (R44, R193). -/
inductive Agent where
  | engine (e : Fin 256)
  | unit (u : Fin 384)
deriving DecidableEq, Repr

/-- The fields of a Melza instruction word besides OPC and CLASS (R67), and who executes it. -/
structure MOp where
  who  : Agent
  dst  : BitVec 5 := 0
  src1 : BitVec 5 := 0
  src2 : BitVec 5 := 0
  pred : BitVec 3 := 0
  imm  : BitVec 35 := 0
deriving DecidableEq, Repr

/-- The end of a Viaduct bundle at which a flit or a replay request arrives: bundle `b` of Concourse `cc` as that
Concourse numbers it, or the Terminus end of one of its bundles 40–45 (R22). -/
structure FlitEnd where
  cc : Fin 4
  b  : Fin 46
  terminus : Bool := false
deriving DecidableEq, Repr

/-- A flit as it is sent: its bits, and the transaction that it carries a part of, by the Concourses it goes between and
its ID (how a flit spells these is not documented); and the bits that are inverted on the way. -/
structure Flit where
  src  : Fin 4
  dst  : Fin 4
  id   : Nat
  bits : BitVec 1024
  err  : BitVec 1024 := 0
deriving DecidableEq, Repr

/-- A link that retrains and exchanges parameters (R25–R28, R324). -/
inductive Link where
  | bundle (cc : Fin 4) (b : Fin 46)
  | host (cc : Fin 4)
deriving DecidableEq, Repr

/-- What a lane check found: failing data lanes each way, in the order in which spares replace them; for a host link
the modules in service and those at half width (R25, R321). -/
structure LaneCheck where
  tx : List (Fin 16) := []
  rx : List (Fin 16) := []
  modules : BitVec 8 := 0xFF
  half : BitVec 8 := 0
  both : Bool := true             -- clear where a retrain was interrupted with only the named Concourse's end done (R28)
deriving DecidableEq, Repr

/-- What a root of trust finds when it checks a manifest and its components (R409, R411). -/
structure FwCheck where
  readable : Bool := true
  manifestOk : Bool := true       -- MAGIC, VERSION, zero fields, key digest and signature
  svn      : Nat := 0
  badComps : Nat := 0             -- bit c − 1: component c's digest fails
  digest   : Nat := 0
deriving DecidableEq, Repr

/-- What a root of trust finds of a manifest's signature (R409). -/
structure SigCheck where
  keyOk : Bool := true            -- the signer's key has a fused digest
  sigOk : Bool := true
deriving DecidableEq, Repr

/-- A root port as it trained (R325): its first lane, its width, and its rate, 1 for 2.5 GT/s up to 6 for 64 GT/s. -/
structure PortReport where
  lane  : Fin 64
  width : Nat
  rate  : Nat
deriving DecidableEq, Repr

/-- What a start meets (R388, R390): sites, challenges, straps, firmware, channels, links and clocks. -/
structure StartReport where
  silent     : List (Fin 64) := []     -- sites that do not answer
  badChallenge : List (Fin 64) := []   -- sites whose signature or chain fails (R407)
  badStrap   : List (Fin 64) := []     -- sites concerned in a strap error (R36)
  unknownStepping : List (Fin 64) := []
  fw0A       : FwCheck := {}
  fw0B       : FwCheck := {}
  fw1A       : FwCheck := {}
  fw1B       : FwCheck := {}
  temps      : List (Fin 12 × Nat) := []     -- hottest readings of the stacks (R277 step 1)
  chanLanes  : List (Fin 384 × Fin 256) := []  -- channels with redundant lanes switched in (R277 step 2)
  badChans   : List (Fin 384) := []    -- channels that cannot be brought up (R277)
  lanes      : List (Fin 4 × Fin 46 × LaneCheck) := []   -- checks with failing lanes
  hostLinks  : List (Fin 4 × LaneCheck) := []            -- host links not at full width
  clocks     : BitVec 4 := 0xF         -- REFCLK_MEM, ETH, PCIE0, PCIE1 present
  rootPorts  : List (Fin 2 × Fin 8 × PortReport) := []   -- root ports that trained (R325)
  hostClock  : Bool := true
  nonce      : Word := 0               -- DBG_NONCE drawn (R418)
deriving DecidableEq, Repr

/-- Reference inputs (R433). -/
inductive RefClk where
  | mem | eth | pcie0 | pcie1 | timeref
deriving DecidableEq, Repr

/-- A slow-tier device found by boot firmware: Campanile die, root port, capacity in bytes (R241). -/
structure SlowDev where
  die : Fin 2
  port : Fin 8
  bytes : Nat
deriving DecidableEq, Repr

/-- A page walk: the address and access walked, and the request it serves, as a Siding entry names it (R257, R262). -/
structure WalkReq where
  asn    : Asn
  va     : Word
  write  : Bool := false
  exec   : Bool := false
  kind   : Nat := 3
  unit   : Nat := 0
  engine : Nat := 0xFFFF
  seq    : Nat := 0
deriving DecidableEq, Repr

/-- What a hart access does (R213, R214). -/
inductive HartOp where
  | load | store | fetch | lr | sc
deriving DecidableEq, Repr

/-- What a core does between its accesses, as far as they and the CSRs depend on it (R311–R315, R427): it enters a mode,
writes or reads a CSR, executes SFENCE.VMA or FENCE.I, has occurrences of an event, counts steps and instructions, or, in M-mode,
writes its die's mtime. -/
inductive HartStep where
  | mode (priv : Fin 4) (virt : Bool)
  | csrWrite (n : BitVec 12) (v : Word)
  | csrRead (n : BitVec 12)
  | sfence (asid : Option (BitVec 16)) (va : Option Word)
  | fenceI
  | count (ev : BitVec 8) (n : Nat)
  | run (steps retired : Nat)
  | mtime (v : Word)
deriving DecidableEq, Repr

/-- A hart's access, after what its core has done since the last one; with size 0 there is none. The address is virtual
where the hart translates (R312). `pre` and `post` are fences that drain its store buffer before and after it (R227). -/
structure HartAcc where
  op   : HartOp
  addr : Nat
  size : Nat
  data : Nat := 0
  pre  : Bool := false
  post : Bool := false
  core : List HartStep := []
deriving DecidableEq, Repr

/-- Hart AMO operations (RISC-V A and Zacas, R222). -/
inductive AmoOp where
  | add | swap | xor | and | or | min | max | minu | maxu | cas
deriving DecidableEq, Repr

/-- A hart AMO, with its ordering bits (R223). -/
structure HartAmo where
  op   : AmoOp
  addr : Nat
  size : Nat
  data : Nat := 0
  cmp  : Nat := 0
  aq   : Bool := false
  rl   : Bool := false
deriving DecidableEq, Repr

/-- What happens at a Campanile die's ports between device requests (R316, R325, R326): software writes a register of the
IOMMU, of the APLIC or of a root port, or a port receives a legacy interrupt message. -/
inductive PortStep where
  | iommu (off : BitVec 12) (v : Word)
  | aplic (off : BitVec 16) (v : BitVec 32)
  | config (port : Fin 8) (off : BitVec 12) (v : Word)
  | intx (port : Fin 8) (pin : Fin 4) (level : Bool)
deriving DecidableEq, Repr

/-- A device's request: the function that makes it, the address it names, and what happened at the ports before. A request
of no bytes is none. -/
structure DevAcc where
  dev  : BitVec 24
  addr : Nat
  port : List PortStep := []
deriving DecidableEq, Repr

/-- A cache that can be disabled (R307). -/
inductive CacheSel where
  | platform (cc : Fin 4)
  | engine (e : Fin 256)
deriving DecidableEq, Repr

/-- A car of a stream: the place of its descriptor among the accepted ones, and its number (R153). -/
structure CarName where
  slot : Nat
  no   : Nat
deriving DecidableEq, Repr

/-- Which other copies of a line are good: the duplicate's, and the tandem partner's (R253). -/
structure GoodCopies where
  dup    : Bool
  mirror : Bool
deriving DecidableEq, Repr

/-- A Mainline frame: the header of R337 and its payload. -/
structure Frame337 where
  type    : Nat
  flags   : Nat := 0
  prio    : Nat := 0
  src     : Nat
  dst     : Nat
  psn     : Nat := 0
  ackPsn  : Nat := 0
  stream  : Nat := 0
  opTag   : Nat := 0
  addr    : Nat := 0
  payload : List Byte := []
deriving DecidableEq, Repr

/-- What a Mainline frame ends with on the wire: its CRC-32C, and whether the Ethernet FCS holds (R337). -/
structure FrameCheck where
  crc   : BitVec 32
  fcsOk : Bool := true
deriving DecidableEq, Repr

/-- What the tandem authentication exchange finds (R353, R415). -/
structure TdAuth where
  ok       : Bool := true              -- chains, signatures and measurement 0x09
  partner  : Nat := 0                  -- partner's PKG_ID
  feature  : Nat := 0                  -- partner's PKG_FEATURE
  space    : Bool := true              -- the partner's mirror area is large enough
deriving DecidableEq, Repr

/-- What a Tandem frame carries (R355, R356): a logged write with its epoch tag, a checkpoint's arrival, an
acknowledgement, an epoch closure, or nothing but a sign of life. -/
inductive TdFrame where
  | write (tag off : Nat) (bytes : List Byte) (poison : Bool)
  | checkpoint (engine epoch : Nat) (words : List Word)
  | ackWrites (upTo : Nat)
  | ackCheckpoint (engine : Nat)
  | closed (epoch : Nat)
  | hold (payload : List Byte)
  | alive
deriving DecidableEq, Repr

/-- A unit under Inspection (R365). -/
inductive InspUnit where
  | slot (n : Fin 288)
  | cupola (u : Fin 384)
  | junction (tm : Fin 2)
  | bundle (cc : Fin 4) (b : Fin 46)
  | hostLink (cc : Fin 4)
  | channel (ch : Fin 384)
  | way (cc : Fin 4) (w : Fin 16)
  | stair (sp : Fin 8)
  | core (d : Fin 2) (c : Fin 72)
  /-- A reserve-row check: a run of the channel's traffic generator on a free reserve slot (R290). -/
  | reserve (ch : Fin 384) (slot pattern : Nat) (seed : Word)
deriving DecidableEq, Repr

/-- What a traffic-generator run found beside mismatches: the first mismatching byte in checks after the first, and the
corrections of a run with RAW = 0, by sector and symbol (R290). -/
structure TgFound where
  symbol    : Nat := 0
  corrected : List (Nat × Nat) := []
deriving DecidableEq, Repr

/-- The commands, one for each row of the table. -/
inductive Instr where
  /-- COLD_POWER_ON (R388): Once VIN, VAUX and VIO have been in range together for 10 ms, the package runs the cold start: firmware verification, identity, training, fill, placement and core release. -/
  | coldPowerOn (r : StartReport)
  /-- STANDBY_EXIT (R388): VIN returns while the package is in standby, and the package runs a cold start with START_CAUSE 0x02. -/
  | standbyExit (r : StartReport)
  /-- SUPPLY_LOSS (R387): A supply leaves its range while the package runs, and every VIN-derived rail is removed within 1 ms, losing all volatile contents. -/
  | supplyLoss (vin vaux vio : Bool)
  /-- SLOW_DONE (R389): Boot firmware writes PKG_START.SLOW_DONE, and the Turntables add the slow-tier frames, take the duplicate pool and migration reserve, fix U and set SLOW_READY. -/
  | slowDone (devs : List SlowDev)
  /-- REFCLK_RETRY (R434): While a reference clock is absent at step 4 of a start, the Signal Box retries every 100 ms of its oscillator. -/
  | refclkRetry (r : StartReport)
  /-- REFCLK_LOSS (R434): A reference clock is lost or leaves its tolerance in service, and the outcome for that input follows within 10 µs. -/
  | refclkLoss (c : RefClk)
  /-- RESET_N (R390): RESET_N held low for at least 1 µs requests a package warm reset. -/
  | resetN (low : Bool)
  /-- WARM_RESET_RESTART (R390): After the drain, the restart runs steps 2–8 of the cold start without fill or placement, with the stacks leaving self-refresh. -/
  | warmResetRestart (r : StartReport)
  /-- STANDBY_REQUEST (R397): A write of PKG_PWR.STANDBY runs steps 1–7 of the warm reset and then drives STBY_N low. -/
  | standbyRequest
  /-- PACKAGE_IDLE_REQUEST (R395): A write of PKG_PWR.IDLE enters package idle when nothing is pending, or leaves idle when STATE is 0x2, or reports idle refused. -/
  | packageIdleRequest
  /-- PACKAGE_IDLE_EXIT (R396): An HBM access, submission, arriving operation or due Inspection wakes the stacks from self-refresh. -/
  | packageIdleExit
  /-- DROWSE (R394): A write of SP_PWR.DROWSE permits drowse, or with 0 wakes the Spire. -/
  | drowse (sp : Fin 8) (v : Bool)
  /-- SPIRE_DROWSE_ENTRY (R393): When every engine of a Spire is idle or parked with nothing in flight, the Signal Box lowers its supply to 0.45 V retention. -/
  | spireDrowseEntry (sp : Fin 8)
  /-- SPIRE_DROWSE_EXIT (R394): An access, counter update, Ticket or Signal Box need wakes the Spire, and held events are performed in arrival order. -/
  | spireDrowseExit (sp : Fin 8)
  /-- VOLTAGE_RESPONSE (R401): The active Signal Box reads temperatures and package power and moves logic supplies in steps to meet LIMIT_W and temperature limits. -/
  | voltageResponse (temps : List (Nat × Nat)) (watts : Nat)
  /-- THERMAL_TRIP (R404): A die reaching 125 °C makes the keepers drive THERMTRIP_N low and hold safe. -/
  | thermalTrip (site : Fin 64)
  /-- FLIT_RECEIVE (R23): A Viaduct receiver takes a 128-byte flit, checks its CRC-32C and on error discards it and later flits and requests a replay. -/
  | flitReceive (l : FlitEnd) (seq : Nat) (f : Flit)
  /-- REPLAY_REQUEST (R23): A sender receives a replay request and resends from the named flit. -/
  | replayRequest (l : FlitEnd) (seq : Nat)
  /-- BUNDLE_HELD (R24): After eight consecutive failed replays of one flit, the owner holds the bundle, moves its flits to the other bundles and a planned retrain is scheduled. -/
  | bundleHeld (cc : Fin 4) (b : Fin 46)
  /-- PLANNED_RETRAIN (R27): The Signal Box starts a planned retrain of one bundle per edge or connection, holding it for at most 10 µs. -/
  | plannedRetrain (l : Link)
  /-- RETRAIN_COMPLETE (R25): A retrain ends with a fresh lane check, spare choice and width, and the bundle returns to service. -/
  | retrainComplete (l : Link) (chk : LaneCheck)
  /-- PARAMETER_EXCHANGE (R28): The two ends exchange working-lane records, and the owner sets the widest common width or counts a failed exchange. -/
  | parameterExchange (l : Link) (own far : Option Nat) (ended : Bool)
  /-- LINK_SAFE_MODE (R28): After the third failed exchange, the owner puts the bundle or host link into safe mode. -/
  | linkSafeMode (l : Link)
  /-- FULL_RETRAIN (R28): The active Signal Box holds both ends and runs a lane check, fresh spare choice and width, merging any pending planned retrain. -/
  | fullRetrain (l : Link)
  /-- DISPATCH (R37): The dispatcher dispatches the next instruction in program order into its queue in one slot, giving it a DSN, or holds and counts the slot. -/
  | dispatch (e : Fin 256) (ready refill : Bool)
  /-- ENG_CTRL_START (R66): A write of START from IDLE zeroes the DSN, invalidates the instruction cache and dispatches from ENG_ENTRY. -/
  | engCtrlStart (e : Fin 256)
  /-- ENG_CTRL_PARK (R58): A write of PARK to a RUNNING engine starts parking with CAUSE software. -/
  | engCtrlPark (e : Fin 256)
  /-- ENG_CTRL_RESUME (R60): A write of RESUME leaves PARKED, retrying or skipping the reported instruction by RESUME_MODE. -/
  | engCtrlResume (e : Fin 256) (mode : BitVec 2)
  /-- ENG_CTRL_RESET (R61): A write of RESET starts an engine reset: park, clean caches, end submitted work and clear state to IDLE. -/
  | engCtrlReset (e : Fin 256)
  /-- ENG_CTRL_ICINV (R52): A write of ICINV invalidates the instruction cache of an IDLE or PARKED engine. -/
  | engCtrlIcinv (e : Fin 256)
  /-- ENG_TC_WRITE (R66): A write of ENG_TC_k acts as a TCSET applied at the moment of the write. -/
  | engTcWrite (e : Fin 256) (k : Fin 64) (v : BitVec 32)
  /-- ENGINE_PARKED (R58): After the queues complete their current instructions and the store buffer drains, the engine enters PARKED with its CAUSE. -/
  | engineParked (e : Fin 256)
  /-- ENGINE_MIGRATION (R62): The Signal Box stops a logical engine at a boundary, pauses its descriptors, cleans its cache and copies its context to a spare. -/
  | engineMigration (e : Fin 256) (slot : Fin 288)
  /-- ENGINE_MIGRATION_SWITCH (R62): When the copy ends, the Signal Box switches the window, counter target and endpoint to the spare, which resumes in the saved state. -/
  | engineMigrationSwitch (e : Fin 256)
  /-- TCWAIT_RELEASE (R51): A waiting TCWAIT is released at the first moment its counter reaches at least its value. -/
  | tcwaitRelease (e : Fin 256)
  /-- SCALAR_MISS_FILL (R53): An outstanding scalar data cache miss is filled, releasing a scalar queue held by a second miss. -/
  | scalarMissFill (e : Fin 256)
  /-- ADD (R72): Scalar wrapping addition. -/
  | add (o : MOp)
  /-- SUB (R72): Scalar wrapping subtraction. -/
  | sub (o : MOp)
  /-- ADD_SAT (R73): Scalar signed saturating addition. -/
  | addSat (o : MOp)
  /-- SUB_SAT (R73): Scalar signed saturating subtraction. -/
  | subSat (o : MOp)
  /-- MUL (R72): Scalar multiplication keeping the low 64 bits. -/
  | mul (o : MOp)
  /-- MULH (R72): Scalar signed multiplication keeping the high 64 bits. -/
  | mulh (o : MOp)
  /-- MULHU (R72): Scalar unsigned multiplication keeping the high 64 bits. -/
  | mulhu (o : MOp)
  /-- DIV (R73): Scalar signed division with defined results for zero and overflow. -/
  | div (o : MOp)
  /-- DIVU (R73): Scalar unsigned division with a defined result for zero. -/
  | divu (o : MOp)
  /-- REM (R73): Scalar signed remainder. -/
  | rem (o : MOp)
  /-- REMU (R73): Scalar unsigned remainder. -/
  | remu (o : MOp)
  /-- AND (R72): Scalar bitwise AND. -/
  | and (o : MOp)
  /-- OR (R72): Scalar bitwise OR. -/
  | or (o : MOp)
  /-- XOR (R72): Scalar bitwise XOR. -/
  | xor (o : MOp)
  /-- SHL (R72): Scalar shift left by a register amount. -/
  | shl (o : MOp)
  /-- SHR (R72): Scalar logical shift right by a register amount. -/
  | shr (o : MOp)
  /-- SRA (R72): Scalar arithmetic shift right by a register amount. -/
  | sra (o : MOp)
  /-- MIN (R72): Scalar signed minimum. -/
  | min (o : MOp)
  /-- MAX (R72): Scalar signed maximum. -/
  | max (o : MOp)
  /-- MINU (R72): Scalar unsigned minimum. -/
  | minu (o : MOp)
  /-- MAXU (R72): Scalar unsigned maximum. -/
  | maxu (o : MOp)
  /-- SLT (R72): Scalar signed set-less-than. -/
  | slt (o : MOp)
  /-- SLTU (R72): Scalar unsigned set-less-than. -/
  | sltu (o : MOp)
  /-- SEQ (R72): Scalar set-if-equal. -/
  | seq (o : MOp)
  /-- ADDI (R72): Scalar addition of a sign-extended immediate. -/
  | addi (o : MOp)
  /-- ANDI (R72): Scalar AND with an immediate. -/
  | andi (o : MOp)
  /-- ORI (R72): Scalar OR with an immediate. -/
  | ori (o : MOp)
  /-- XORI (R72): Scalar XOR with an immediate. -/
  | xori (o : MOp)
  /-- SHLI (R72): Scalar shift left by an immediate. -/
  | shli (o : MOp)
  /-- SHRI (R72): Scalar logical shift right by an immediate. -/
  | shri (o : MOp)
  /-- SRAI (R72): Scalar arithmetic shift right by an immediate. -/
  | srai (o : MOp)
  /-- SLTI (R72): Scalar signed set-less-than an immediate. -/
  | slti (o : MOp)
  /-- LDI (R72): Loads a sign-extended 35-bit immediate into a scalar register. -/
  | ldi (o : MOp)
  /-- LDIH (R72): Places a 32-bit immediate in the upper half of a scalar register. -/
  | ldih (o : MOp)
  /-- SREAD (R74): Reads an engine value selected by IMM into a scalar register. -/
  | sread (o : MOp)
  /-- LD_B (R76): Sign-extending byte load from memory through the scalar data cache. -/
  | ldB (o : MOp)
  /-- LD_H (R76): Sign-extending 2-byte load from memory. -/
  | ldH (o : MOp)
  /-- LD_W (R76): Sign-extending 4-byte load from memory. -/
  | ldW (o : MOp)
  /-- LD_D (R76): 8-byte load from memory, the only load permitted to the MMIO range. -/
  | ldD (o : MOp)
  /-- LD_BU (R76): Zero-extending byte load from memory. -/
  | ldBu (o : MOp)
  /-- LD_HU (R76): Zero-extending 2-byte load from memory. -/
  | ldHu (o : MOp)
  /-- LD_WU (R76): Zero-extending 4-byte load from memory. -/
  | ldWu (o : MOp)
  /-- ST_B (R76): Byte store to memory, translated before it retires to the store buffer. -/
  | stB (o : MOp)
  /-- ST_H (R76): 2-byte store to memory. -/
  | stH (o : MOp)
  /-- ST_W (R76): 4-byte store to memory. -/
  | stW (o : MOp)
  /-- ST_D (R76): 8-byte store to memory, the only store permitted to the MMIO range. -/
  | stD (o : MOp)
  /-- LDL_B (R77): Sign-extending byte load from the tile store. -/
  | ldlB (o : MOp)
  /-- LDL_H (R77): Sign-extending 2-byte load from the tile store. -/
  | ldlH (o : MOp)
  /-- LDL_W (R77): Sign-extending 4-byte load from the tile store. -/
  | ldlW (o : MOp)
  /-- LDL_D (R77): 8-byte load from the tile store. -/
  | ldlD (o : MOp)
  /-- LDL_BU (R77): Zero-extending byte load from the tile store. -/
  | ldlBu (o : MOp)
  /-- LDL_HU (R77): Zero-extending 2-byte load from the tile store. -/
  | ldlHu (o : MOp)
  /-- LDL_WU (R77): Zero-extending 4-byte load from the tile store. -/
  | ldlWu (o : MOp)
  /-- STL_B (R77): Byte store to the tile store. -/
  | stlB (o : MOp)
  /-- STL_H (R77): 2-byte store to the tile store. -/
  | stlH (o : MOp)
  /-- STL_W (R77): 4-byte store to the tile store. -/
  | stlW (o : MOp)
  /-- STL_D (R77): 8-byte store to the tile store. -/
  | stlD (o : MOp)
  /-- B (R78): Unconditional relative branch executed by the dispatcher. -/
  | b (o : MOp)
  /-- BEQ (R78): Branch if two scalar registers are equal. -/
  | beq (o : MOp)
  /-- BNE (R78): Branch if two scalar registers differ. -/
  | bne (o : MOp)
  /-- BLT (R78): Branch if signed less than. -/
  | blt (o : MOp)
  /-- BGE (R78): Branch if signed greater or equal. -/
  | bge (o : MOp)
  /-- BLTU (R78): Branch if unsigned less than. -/
  | bltu (o : MOp)
  /-- BGEU (R78): Branch if unsigned greater or equal. -/
  | bgeu (o : MOp)
  /-- BPANY (R78): Branch if any lane of a predicate is true. -/
  | bpany (o : MOp)
  /-- BPALL (R78): Branch if all lanes of a predicate are true. -/
  | bpall (o : MOp)
  /-- BPNONE (R78): Branch if no lane of a predicate is true. -/
  | bpnone (o : MOp)
  /-- CALL (R78): Writes the return address and branches relatively. -/
  | call (o : MOp)
  /-- CALLR (R79): Reads the target register, writes the return address and jumps. -/
  | callr (o : MOp)
  /-- JR (R79): Jumps to a register plus immediate, raising instruction-address alignment on a misaligned target. -/
  | jr (o : MOp)
  /-- LOOP (R78): Decrements a scalar register and branches while it is not zero. -/
  | loop (o : MOp)
  /-- HALT (R80): Holds dispatch until every queue is empty and then parks the engine with CAUSE HALT. -/
  | halt (o : MOp)
  /-- NOP (R78): No operation, counted as a retired slot. -/
  | nop (o : MOp)
  /-- TCWAIT (R83): Standing at the head of its named queues, waits until a tile counter reaches at least a value. -/
  | tcwait (o : MOp)
  /-- TCADD (R83): Standing at the head of its named queues, adds a value to a tile counter. -/
  | tcadd (o : MOp)
  /-- TCSET (R83): Standing at the head of its named queues, sets a tile counter. -/
  | tcset (o : MOp)
  /-- WAITT (R84): Takes the oldest held Ticket, writes payload and receipt to the tile store, frees the slot and optionally advances a counter. -/
  | waitt (o : MOp)
  /-- FENCE_LOC (R85): Holds dispatch until earlier direct accesses are visible to the engine's queues and shunters. -/
  | fenceLoc (o : MOp)
  /-- FENCE_PKG (R85): Holds dispatch until earlier direct accesses are visible to every coherent observer of the package. -/
  | fencePkg (o : MOp)
  /-- FENCE_SYS (R85): Holds dispatch until earlier accesses are visible package-wide and complete at device registers and ports. -/
  | fenceSys (o : MOp)
  /-- STATION (R86): Waits for all queues and submitted work to end and records a checkpoint, ending the engine's epoch. -/
  | station (o : MOp)
  /-- SEED (R87): Loads the stochastic-rounding generator from two scalar registers. -/
  | seed (o : MOp)
  /-- EXPECT (R88): Asks the Turntables to bring a virtual range into HBM and advances a counter per settled chunk. -/
  | expect (o : MOp)
  /-- SHUNT_R (R90): Submits a descriptor taken from sixteen scalar registers to an engine shunter. -/
  | shuntR (o : MOp)
  /-- SHUNT_T (R90): Submits a 128-byte descriptor read from the tile store to an engine shunter. -/
  | shuntT (o : MOp)
  /-- SHUNTQ (R91): Writes a shunter's credit word to the tile store and optionally advances a counter. -/
  | shuntq (o : MOp)
  /-- CUPX (R180): Submits a Cupola launch descriptor from the tile store to the engine's Concourse. -/
  | cupx (o : MOp)
  /-- CUPA (R92): Sends one atomic read-modify-write to the home Cupola unit of an address. -/
  | cupa (o : MOp)
  /-- TSEND (R94): Sends 64 bytes from the tile store as a Ticket to an endpoint, waiting for a credit. -/
  | tsend (o : MOp)
  /-- CCLEAN (R299): Writes a dirty line to its frame and leaves every copy valid and clean. -/
  | cclean (o : MOp)
  /-- CFLUSH (R299): Cleans a line and invalidates every copy in the package. -/
  | cflush (o : MOp)
  /-- CINVAL (R299): Writes back and invalidates only this engine's scalar-cache copy of a line. -/
  | cinval (o : MOp)
  /-- FLAGCLR (R95): Clears the selected floating-point flags. -/
  | flagclr (o : MOp)
  /-- MMA (R107): Multiplies X by W in the chosen format and accumulates into an accumulator tile. -/
  | mma (o : MOp)
  /-- MMAS (R108): Multiplies X by a block-sparse MBST tile and accumulates. -/
  | mmas (o : MOp)
  /-- AZERO (R104): Zeroes the guarded rows of an accumulator and clears their poison. -/
  | azero (o : MOp)
  /-- ALOAD (R111): Loads accumulator rows from the tile store. -/
  | aload (o : MOp)
  /-- ASTORE (R111): Converts accumulator rows and writes them to the tile store. -/
  | astore (o : MOp)
  /-- AGET (R104): Copies half a row of an accumulator into a vector register. -/
  | aget (o : MOp)
  /-- APUT (R104): Copies a vector register into half a row of an accumulator. -/
  | aput (o : MOp)
  /-- VADD (R115): Vector lanewise addition. -/
  | vadd (o : MOp)
  /-- VSUB (R115): Vector lanewise subtraction. -/
  | vsub (o : MOp)
  /-- VMUL (R115): Vector lanewise multiplication. -/
  | vmul (o : MOp)
  /-- VDIV (R115): Vector lanewise FP division. -/
  | vdiv (o : MOp)
  /-- VSQRT (R115): Vector lanewise FP square root. -/
  | vsqrt (o : MOp)
  /-- VMIN (R115): Vector lanewise minimum. -/
  | vmin (o : MOp)
  /-- VMAX (R115): Vector lanewise maximum. -/
  | vmax (o : MOp)
  /-- VABS (R115): Vector lanewise absolute value. -/
  | vabs (o : MOp)
  /-- VNEG (R115): Vector lanewise negation. -/
  | vneg (o : MOp)
  /-- VFMA (R115): Vector fused multiply-add. -/
  | vfma (o : MOp)
  /-- VFMS (R115): Vector fused multiply-subtract. -/
  | vfms (o : MOp)
  /-- VFNMA (R115): Vector negated fused multiply-add. -/
  | vfnma (o : MOp)
  /-- VAND (R115): Vector bitwise AND. -/
  | vand (o : MOp)
  /-- VOR (R115): Vector bitwise OR. -/
  | vor (o : MOp)
  /-- VXOR (R115): Vector bitwise XOR. -/
  | vxor (o : MOp)
  /-- VSHL (R115): Vector shift left. -/
  | vshl (o : MOp)
  /-- VSHR (R115): Vector logical shift right. -/
  | vshr (o : MOp)
  /-- VSRA (R115): Vector arithmetic shift right. -/
  | vsra (o : MOp)
  /-- VCMP (R115): Vector comparison writing a predicate register. -/
  | vcmp (o : MOp)
  /-- VSEL (R115): Vector lanewise selection by a predicate. -/
  | vsel (o : MOp)
  /-- VBCAST (R115): Broadcasts a scalar register to every lane. -/
  | vbcast (o : MOp)
  /-- VIOTA (R115): Writes each lane's index. -/
  | viota (o : MOp)
  /-- VPERM (R115): Permutes lanes by an index vector. -/
  | vperm (o : MOp)
  /-- VCVT (R116): Converts lanes between element types. -/
  | vcvt (o : MOp)
  /-- VLDL (R117): Contiguous vector load from the tile store. -/
  | vldl (o : MOp)
  /-- VSTL (R117): Contiguous vector store to the tile store. -/
  | vstl (o : MOp)
  /-- VLDLS (R117): Strided vector load from the tile store. -/
  | vldls (o : MOp)
  /-- VSTLS (R117): Strided vector store to the tile store. -/
  | vstls (o : MOp)
  /-- VGATHL (R117): Indexed vector gather from the tile store. -/
  | vgathl (o : MOp)
  /-- VSCATL (R117): Indexed vector scatter to the tile store. -/
  | vscatl (o : MOp)
  /-- PAND (R118): Predicate AND. -/
  | pand (o : MOp)
  /-- POR (R118): Predicate OR. -/
  | por (o : MOp)
  /-- PXOR (R118): Predicate XOR. -/
  | pxor (o : MOp)
  /-- PANDN (R118): Predicate AND-NOT. -/
  | pandn (o : MOp)
  /-- PFIRSTN (R118): Sets the first S lanes of a predicate. -/
  | pfirstn (o : MOp)
  /-- PCOUNT (R118): Counts the true lanes of a predicate into a vector register. -/
  | pcount (o : MOp)
  /-- VRED (R121): Segmented reduction in a fixed pairwise order. -/
  | vred (o : MOp)
  /-- VSCAN (R121): Segmented inclusive scan. -/
  | vscan (o : MOp)
  /-- VSORT (R122): Segmented stable sort of keys with indices. -/
  | vsort (o : MOp)
  /-- VTOPK (R122): Segmented selection of the K most preferred keys with indices. -/
  | vtopk (o : MOp)
  /-- VARG (R122): Segmented arg-max or arg-min. -/
  | varg (o : MOp)
  /-- VCOMPRESS (R119): Packs the active lanes to the low lanes and zeroes the rest. -/
  | vcompress (o : MOp)
  /-- SEGMENT_TRANSLATE (R158): The Booking unit translates the next segment of a descriptor once the previous segment's cars have completed. -/
  | segmentTranslate (st : Fin 576)
  /-- BOOKING_PAGE_WALK (R257): A Booking unit page walk completes, loading a translation or recording a fault. -/
  | bookingPageWalk (cc : Fin 4) (q : WalkReq)
  /-- CAR_ISSUE (R154): A shunter issues the next car of a descriptor when translations and credits allow. -/
  | carIssue (st : Fin 576)
  /-- CAR_COMPLETE (R155): A car completes, and the shunter applies increments over the contiguous completed prefix. -/
  | carComplete (st : Fin 576) (car : CarName)
  /-- PAUSED_RECORD_WRITE (R161): Once cars in flight have completed or been cancelled, the shunter applies prefix increments and writes a PAUSED record. -/
  | pausedRecordWrite (st : Fin 576)
  /-- INVALIDATION_ACK (R164): The Booking unit acknowledges an invalidation after every car using the translation has completed or been cancelled. -/
  | invalidationAck (cc : Fin 4)
  /-- BS_DOORBELL (R172): An MMIO write of a producer index to a bulk shunter's doorbell. -/
  | bsDoorbell (cc : Fin 4) (s : Fin 16) (p : BitVec 32)
  /-- DOORBELL_TICKET (R172): A Ticket to a Concourse doorbell endpoint is checked and names a new producer index for a bulk-shunter or launch ring. -/
  | doorbellTicket (cc : Fin 4)
  /-- BULK_RING_ENTRY_ACCEPT (R171): A bulk shunter reads the next ring entry, accepts it into a free slot or refuses it, and advances CONSUMER. -/
  | bulkRingEntryAccept (cc : Fin 4) (s : Fin 16)
  /-- BS_CTRL_RESET (R173): Writing BS_CTRL.RESET aborts every accepted descriptor, discards unaccepted entries and clears ENABLE. -/
  | bsCtrlReset (cc : Fin 4) (s : Fin 16)
  /-- BS_CTRL_ENABLE (R173): Writing BS_CTRL.ENABLE starts or stops acceptance from the ring. -/
  | bsCtrlEnable (cc : Fin 4) (s : Fin 16) (v : Word)
  /-- CL_DOORBELL (R201): An MMIO write of a producer index to a launch ring's doorbell. -/
  | clDoorbell (cc : Fin 4) (r : Fin 4) (p : BitVec 32)
  /-- CL_CTRL_RESET (R201): Writing CL_CTRL.RESET aborts the ring's held launches with CAUSE 0x09 and discards unaccepted entries. -/
  | clCtrlReset (cc : Fin 4) (r : Fin 4)
  /-- CL_CTRL_ENABLE (R201): Writing CL_CTRL.ENABLE starts or stops acceptance from the launch ring. -/
  | clCtrlEnable (cc : Fin 4) (r : Fin 4) (v : Word)
  /-- LAUNCH_RING_ENTRY_ACCEPT (R201): A launch ring reads its next entry and accepts or refuses the launch. -/
  | launchRingEntryAccept (cc : Fin 4) (r : Fin 4)
  /-- CL_CANCEL (R192): Writing a launch ring's CL_CANCEL cancels the named launch with CAUSE 0x0C. -/
  | clCancel (cc : Fin 4) (r : Fin 4) (v : Word)
  /-- ENG_CUP_CANCEL (R192): Writing ENG_CUP_CANCEL cancels the engine's named launch with CAUSE 0x0C. -/
  | engCupCancel (e : Fin 256) (seq : Word)
  /-- PAGE_DEAL (R182): The coordinator deals a translated page, requesting non-resident tiles and sending each unit its granules. -/
  | pageDeal (k : Nat)
  /-- INVOCATION_START (R183): A Cupola unit starts the next invocation for a granule once its tile is resident. -/
  | invocationStart (k off : Nat)
  /-- CUPOLA_HALT (R193): HALT ends a Cupola invocation. -/
  | cupolaHalt (o : MOp)
  /-- GLD (R194): Copies bytes from memory to Cupola scratch. -/
  | gld (o : MOp)
  /-- GST (R194): Copies bytes from Cupola scratch to memory. -/
  | gst (o : MOp)
  /-- VGATHM (R194): Gathers vector lanes from memory. -/
  | vgathm (o : MOp)
  /-- VSCATM (R194): Scatters vector lanes to memory. -/
  | vscatm (o : MOp)
  /-- AMO (R194): One atomic at a memory address from a Cupola invocation. -/
  | amo (o : MOp)
  /-- VAMO (R194): One atomic per active lane from a Cupola invocation. -/
  | vamo (o : MOp)
  /-- MXDOT (R195): Computes MX block dot products into FP32 lanes. -/
  | mxdot (o : MOp)
  /-- FILL (R202): Provided kernel invocation writing a pattern over its granule. -/
  | fill (u : Fin 384)
  /-- COPY (R202): Provided kernel invocation copying source bytes into its granule. -/
  | copy (u : Fin 384)
  /-- CHECKSUM (R202): Provided kernel invocation adding its granule's word sum to a result by atomics. -/
  | checksum (u : Fin 384)
  /-- GATHER (R202): Provided kernel invocation gathering table rows by index. -/
  | gather (u : Fin 384)
  /-- SCATTER (R202): Provided kernel invocation scattering rows to a table by store or atomic. -/
  | scatter (u : Fin 384)
  /-- SEG_REDUCE (R202): Provided kernel invocation reducing values into segments by atomics. -/
  | segReduce (u : Fin 384)
  /-- SPMV_CSRT (R203): Provided kernel invocation adding one CSR tile's row products into y. -/
  | spmvCsrt (u : Fin 384)
  /-- EMBED_BAG (R202): Provided kernel invocation adding table rows into bags by FADD. -/
  | embedBag (u : Fin 384)
  /-- HISTOGRAM (R202): Provided kernel invocation counting keys into bins. -/
  | histogram (u : Fin 384)
  /-- SEG_TOPK (R202): Provided kernel invocation keeping the K best keys per segment. -/
  | segTopk (u : Fin 384)
  /-- MX_PACK (R202): Provided kernel invocation encoding dense values into MX blocks. -/
  | mxPack (u : Fin 384)
  /-- MX_UNPACK (R202): Provided kernel invocation decoding MX blocks. -/
  | mxUnpack (u : Fin 384)
  /-- MBST_COMPRESS (R202): Provided kernel invocation compressing dense tiles into MBST tiles. -/
  | mbstCompress (u : Fin 384)
  /-- MBST_DECOMPRESS (R202): Provided kernel invocation decompressing MBST tiles. -/
  | mbstDecompress (u : Fin 384)
  /-- MX_GEMV (R202): Provided kernel invocation computing MX weight rows against x by MXDOT. -/
  | mxGemv (u : Fin 384)
  /-- CUP_KCMD_INSTALL (R200): A CUP_KCMD write with OP 0b01 checks and installs a user kernel image in a slot. -/
  | cupKcmdInstall (cc : Fin 4) (asn : Asn) (kernel : BitVec 12) (owner : Asn)
  /-- CUP_KCMD_REMOVE (R200): A CUP_KCMD write with OP 0b10 removes a user kernel not held by any launch. -/
  | cupKcmdRemove (cc : Fin 4) (asn : Asn) (kernel : BitVec 12)
  /-- ATOMIC_PERFORM (R204): A Cupola atomic unit obtains the line, recalls copies and performs one atomic indivisibly, returning or poisoning as required. -/
  | atomicPerform (k : Nat)
  /-- CUPOLA_SPARE_SWITCH (R364): The Signal Box holds a channel's work and moves its Cupola unit's role to the die's spare unit. -/
  | cupolaSpareSwitch (ch : Fin 384)
  /-- HART_ACCESS (R213): A Campanile hart load or store reaches the unified range or an MMIO block under RVWMO. -/
  | hartAccess (h : Fin 128) (a : HartAcc)
  /-- HART_AMO (R222): A hart AMO joins the total order of atomics to its address. -/
  | hartAmo (h : Fin 128) (a : HartAmo)
  /-- CBO_CLEAN (R299): A hart cleans a line to its frame. -/
  | cboClean (h : Fin 128) (addr : Nat)
  /-- CBO_FLUSH (R299): A hart cleans and invalidates a line in the package. -/
  | cboFlush (h : Fin 128) (addr : Nat)
  /-- CBO_INVAL (R300): A hart CBO.INVAL executes as a flush. -/
  | cboInval (h : Fin 128) (addr : Nat)
  /-- CBO_ZERO (R299): A hart zeroes a whole 64-byte line. -/
  | cboZero (h : Fin 128) (addr : Nat)
  /-- PREFETCH (R299): A hart prefetch hint, which may be ignored. -/
  | prefetch (h : Fin 128) (addr : Nat)
  /-- DEVICE_DMA_WRITE (R233): A device posted write arrives through the IOMMU and becomes visible under PCIe ordering. -/
  | deviceDmaWrite (d : Fin 2) (a : DevAcc) (bytes : List Byte)
  /-- DEVICE_DMA_READ (R254): A device read is served through the IOMMU, marked poisoned where the line is poisoned. -/
  | deviceDmaRead (d : Fin 2) (a : DevAcc) (n : Nat)
  /-- TILE_MIGRATION_START (R247): A Turntable chooses a destination frame and locks a tile to migrate it, on policy, count, EXPECT or launch. -/
  | tileMigrationStart (tile : Nat) (toHbm : Bool) (frame : Nat) (victim : Option Nat) (vframe : Nat)
  /-- TILE_MIGRATION_COMPLETE (R247): The copy ends, the tile map switches, the tile unlocks and EXPECT counters advance over settled prefixes. -/
  | tileMigrationComplete (tile : Nat)
  /-- SLOW_DEVICE_LOST (R241): A slow-tier device stops answering and every line in its frames becomes uncorrectable. -/
  | slowDeviceLost (i : Nat)
  /-- LINE_RECOVERY_COMPLETE (R253): A good copy from the duplicate or mirror serves the held accesses and rewrites the bad line, or the line is poisoned. -/
  | lineRecoveryComplete (line : Nat) (good : GoodCopies) (rewritten : Bool)
  /-- BATCH_PUBLISH (R263): When the ring has room, the Booking unit writes a closed batch, advances PRODUCER and sends a notice. -/
  | batchPublish (cc d : Fin 4)
  /-- HELD_FAULT_ADMIT (R264): A held fault enters the parked list when a place its domain may use is free, ending back-pressure when none remain. -/
  | heldFaultAdmit (cc : Fin 4)
  /-- SD_ANSWER_RETRY (R265): An answer with ACTION 0b01 retries the faulting request. -/
  | sdAnswerRetry (cc d : Fin 4) (id : BitVec 32)
  /-- SD_ANSWER_ERROR (R265): An answer with ACTION 0b10 ends the faulting request with an error under its kind. -/
  | sdAnswerError (cc d : Fin 4) (id : BitVec 32)
  /-- SD_CONS_WRITE (R263): Software advances a Siding's CONSUMER, which may close a batch on catch-up. -/
  | sdConsWrite (cc d : Fin 4) (v : BitVec 32)
  /-- SD_CTRL_ENABLE (R265): Setting SD_CTRL.ENABLE sets PRODUCER to CONSUMER and restarts BATCH at 1. -/
  | sdCtrlEnable (cc d : Fin 4) (v : Word)
  /-- BK_INV_EVERY_ASN (R266): A BK_INV_CMD write with SCOPE 0b00 invalidates every translation and cached AST entry package-wide. -/
  | bkInvEveryAsn (cc : Fin 4)
  /-- BK_INV_ONE_ASN (R266): SCOPE 0b01 invalidates the non-global translations and AST entry of one ASN. -/
  | bkInvOneAsn (cc : Fin 4) (asn : Asn)
  /-- BK_INV_ONE_PAGE (R266): SCOPE 0b10 invalidates one page of one ASN. -/
  | bkInvOnePage (cc : Fin 4) (asn : Asn)
  /-- BK_INV_PAGE_EVERY_ASN (R266): SCOPE 0b11 invalidates one page in every ASN, including global entries. -/
  | bkInvPageEveryAsn (cc : Fin 4)
  /-- BK_INV_DONE (R266): BUSY clears once every Booking unit has acknowledged, and the next held command starts. -/
  | bkInvDone (cc : Fin 4)
  /-- HBM_READ (R284): A channel performs a read, correcting, logging or treating uncorrectable sectors under R253. -/
  | hbmRead (ch : Fin 384) (line err : Nat)
  /-- HBM_WRITE (R276): A channel performs a write, merging partial writes into the write-combining buffer. -/
  | hbmWrite (ch : Fin 384) (line first : Nat) (bytes : List Byte)
  /-- REFRESH (R270): Per-bank refresh paced by the Concourse's oscillator. -/
  | refresh (ch : Fin 384)
  /-- STACK_TEMP_READ (R288): The controller reads stack temperature at least every 100 µs and applies or releases the thermal responses. -/
  | stackTempRead (stk : Fin 12) (temp : Nat)
  /-- CHANNEL_RETRAIN (R278): The Signal Box starts a planned channel retrain, holding requests and entering self-refresh. -/
  | channelRetrain (ch : Fin 384)
  /-- CHANNEL_RETRAIN_COMPLETE (R278): The channel retrains with a fresh lane check, leaves self-refresh and performs waiting requests in order. -/
  | channelRetrainComplete (ch : Fin 384) (ok : Bool) (lanes : Nat)
  /-- CHANNEL_RETIRE (R280): The Signal Box starts retiring a channel, or marks it failing when the stack's reserve is in use. -/
  | channelRetire (ch : Fin 384)
  /-- GRANULE_MOVE (R280): The controller locks, reads and moves one granule of a retiring channel to its reserve slot and advances MOVE_NEXT. -/
  | granuleMove (stk : Fin 12) (bad : List (Fin 64 × Fin 38))
  /-- PATROL_SCRUB (R287): Patrol scrub reads sectors in idle request slots within each SCRUB_HOURS period. -/
  | patrolScrub (ch : Fin 384) (sector err : Nat)
  /-- TG_CTRL_START (R290): Writing TG_CTRL.START starts a traffic generator run, or refuses it. -/
  | tgCtrlStart (ch : Fin 384) (v : Word)
  /-- TG_CTRL_ABORT (R290): Writing TG_CTRL.ABORT ends the run at the next line with RESULT 0x03. -/
  | tgCtrlAbort (ch : Fin 384)
  /-- TG_RUN_COMPLETE (R290): A traffic generator run ends and sets RESULT and DONE. -/
  | tgRunComplete (ch : Fin 384) (mismatch sector : Nat) (found : TgFound)
  /-- HBM_CH_ERR_LOG_CLEAR (R289): Writing LOG_CLEAR clears VALID and COUNT of all 16 log entries. -/
  | hbmChErrLogClear (ch : Fin 384)
  /-- PC_WAY_MASK_WRITE (R303): A PC_WAY_MASK write starts powering ways down or up, or is held while BUSY. -/
  | pcWayMaskWrite (cc : Fin 4) (v : Word)
  /-- WAY_CHANGE_COMPLETE (R303): When every way matches MASK, the cache records PC_LAST_CLEAN and clears BUSY. -/
  | wayChangeComplete (cc : Fin 4)
  /-- PC_CTRL_DISABLE (R307): Writing 1 to PC_CTRL.DISABLE starts cleaning and disabling a Platform cache. -/
  | pcCtrlDisable (cc : Fin 4)
  /-- PC_CTRL_ENABLE (R307): Writing 0 to PC_CTRL.DISABLE re-enables an empty Platform cache. -/
  | pcCtrlEnable (cc : Fin 4)
  /-- ENG_SC_CTRL_DISABLE (R307): Writing 1 to ENG_SC_CTRL.DISABLE starts cleaning and disabling a scalar cache. -/
  | engScCtrlDisable (e : Fin 256)
  /-- ENG_SC_CTRL_ENABLE (R307): Writing 0 to ENG_SC_CTRL.DISABLE re-enables the scalar cache. -/
  | engScCtrlEnable (e : Fin 256)
  /-- CACHE_DISABLE_COMPLETE (R307): After every dirty line is written and clean lines dropped, the cache sets DISABLED. -/
  | cacheDisableComplete (c : CacheSel)
  /-- CP_RESET_N (R317): CPd_RESET_N held low for at least 1 µs requests a host reset of that die. -/
  | cpResetN (d : Fin 2)
  /-- HOST_RESET (R317): Signal Box command 0x02 requests a host reset of one Campanile die. -/
  | hostReset
  /-- HOST_RESET_COMPLETE (R317): After the sweep, the core complex resets, the boot image is re-verified and the cores are released. -/
  | hostResetComplete (d : Fin 2) (bootOk : Bool) (cores : List Nat)
  /-- CAMPANILE_DIE_FAILED (R320): With no sweep progress or both host links lost for 1 ms, the die is declared failed and its dirty lines are poisoned. -/
  | campanileDieFailed (d : Fin 2)
  /-- HOST_LINK_DOWN (R322): A host link goes down, both ends retrain, and traffic is held in egress credits. -/
  | hostLinkDown (cc : Fin 4)
  /-- HOST_LINK_LOST (R322): After three failed retrains or 100 µs down, the Concourse declares the link lost and reroutes traffic over the other link. -/
  | hostLinkLost (cc : Fin 4)
  /-- HOST_LINK_RETRAIN_COMPLETE (R322): A host link trains and traffic returns to it under the transaction-ID rule. -/
  | hostLinkRetrainComplete (cc : Fin 4) (ok : Bool) (modules half : BitVec 8)
  /-- TK_TX_DATA_WRITE (R331): A write of payload to TK_TX_DATA, ignored with OVERRUN while a send is pending. -/
  | tkTxDataWrite (h : Fin 128) (i : Fin 8) (v : Word)
  /-- TK_TX_SEND (R331): A write of a destination sends the page's payload, checking the endpoint and waiting or returning NACK. -/
  | tkTxSend (h : Fin 128) (dest : BitVec 32)
  /-- TICKET_PLACE (R328): A Ticket is placed in a free receive slot of its endpoint with its pair sequence number. -/
  | ticketPlace (ep : BitVec 32)
  /-- TK_RX_POP (R332): Writing TK_RX_POP frees the oldest held slot and grants its credit. -/
  | tkRxPop (h : Fin 128)
  /-- TK_MSI_WRITE (R332): Writing TK_MSI sets the MSI target, sending one MSI when MSI_EN goes 0 to 1 with Tickets held. -/
  | tkMsiWrite (h : Fin 128) (v : Word)
  /-- ML_LINK_UP (R334): A Mainline port completes training and comes up. -/
  | mlLinkUp (p : Fin 8) (speed : BitVec 4)
  /-- ML_LINK_DOWN (R338): A Mainline port goes down, and its paths spread over the remaining ports. -/
  | mlLinkDown (p : Fin 8)
  /-- ML_PORT_DISABLE (R336): Writing ML_PORT.DISABLE holds a port down or releases it. -/
  | mlPortDisable (p : Fin 8) (v : Bool)
  /-- ML_WRITE (R342): A remote write frame arrives, is checked against its window and lands, and is acknowledged. -/
  | mlWrite (p : Fin 8) (f : Frame337) (chk : FrameCheck)
  /-- ML_GUARD_WRITE (R339): A GUARD write frame arrives and lands after the earlier writes of its stream. -/
  | mlGuardWrite (p : Fin 8) (f : Frame337) (chk : FrameCheck)
  /-- ML_READ_REQUEST (R226): A remote read request arrives and is answered from the destination's home. -/
  | mlReadRequest (p : Fin 8) (f : Frame337) (chk : FrameCheck)
  /-- ML_READ_RESPONSE (R344): A remote read response arrives, its data lands locally and the entry ends. -/
  | mlReadResponse (p : Fin 8) (f : Frame337) (chk : FrameCheck)
  /-- ML_ATOMIC_REQUEST (R342): A remote atomic request arrives and is performed at the home Cupola unit. -/
  | mlAtomicRequest (p : Fin 8) (f : Frame337) (chk : FrameCheck)
  /-- ML_ATOMIC_RESPONSE (R344): A remote atomic response arrives, and the return value, record and increment are written. -/
  | mlAtomicResponse (p : Fin 8) (f : Frame337) (chk : FrameCheck)
  /-- ML_ACKNOWLEDGEMENT (R338): An acknowledgement frame arrives, completing remote cars and releasing held GUARD frames. -/
  | mlAcknowledgement (p : Fin 8) (f : Frame337) (chk : FrameCheck)
  /-- ML_REFUSAL (R342): A refusal frame arrives, and the sender ends the operation with CAUSE 0x0A. -/
  | mlRefusal (p : Fin 8) (f : Frame337) (chk : FrameCheck)
  /-- ML_COLLECTIVE (R349): A collective frame arrives and is combined, recording CAUTION and completing or aborting the collective. -/
  | mlCollective (p : Fin 8) (f : Frame337) (chk : FrameCheck)
  /-- ML_PROBE (R340): A probe frame arrives and is answered with a probe response. -/
  | mlProbe (p : Fin 8) (f : Frame337) (chk : FrameCheck)
  /-- ML_PROBE_RESPONSE (R340): A probe response makes a destination reachable again, or keeps a tandem pair active over Mainline. -/
  | mlProbeResponse (p : Fin 8) (f : Frame337) (chk : FrameCheck)
  /-- ML_CLAIM (R359): A witness Junction receives a claim and grants the first claim for a pair, refusing the other package. -/
  | mlClaim (p : Fin 8) (f : Frame337) (chk : FrameCheck)
  /-- ML_CLAIM_RESPONSE (R359): A claim response arrives, and a majority of grants starts failover or a refusal isolates the package. -/
  | mlClaimResponse (p : Fin 8) (f : Frame337) (chk : FrameCheck)
  /-- ML_RELEASE (R359): A release frame frees a witness's grant for a pair after re-pairing. -/
  | mlRelease (p : Fin 8) (f : Frame337) (chk : FrameCheck)
  /-- ML_RETRANSMIT_TIMEOUT (R338): An unacknowledged frame's timeout expires and it is retransmitted with a doubled timeout. -/
  | mlRetransmitTimeout (pkg psn : Nat)
  /-- DESTINATION_UNREACHABLE (R340): After 12 retransmissions a destination becomes unreachable and its outstanding operations end. -/
  | destinationUnreachable (pkg : Nat)
  /-- UNREACHABLE_PROBE_TIMER (R340): Every 10 ms the owning Terminus probes an unreachable destination. -/
  | unreachableProbeTimer (pkg : Nat)
  /-- ML_WIN_INV (R341): Writing ML_WIN.INV discards cached window entries until every Terminus has re-read them. -/
  | mlWinInv (tm : Fin 2)
  /-- JUNCTION_DOORBELL_TICKET (R343): A Ticket to a Junction endpoint is checked and names a new producer index for a remote-operation or collective ring. -/
  | junctionDoorbellTicket (tm : Fin 2)
  /-- RO_DOORBELL (R343): An MMIO write of a producer index to a remote-operation ring's doorbell. -/
  | roDoorbell (tm : Fin 2) (r : Fin 8) (p : BitVec 32)
  /-- RO_CTRL_RESET (R343): Writing RO_CTRL.RESET aborts accepted remote operations and discards unaccepted entries. -/
  | roCtrlReset (tm : Fin 2) (r : Fin 8)
  /-- RO_CTRL_ENABLE (R343): Writing RO_CTRL.ENABLE starts or stops acceptance from the remote-operation ring. -/
  | roCtrlEnable (tm : Fin 2) (r : Fin 8) (v : Word)
  /-- REMOTE_OP_ENTRY_ACCEPT (R344): A remote-operation ring accepts or refuses its next entry and sends the read or atomic request. -/
  | remoteOpEntryAccept (tm : Fin 2) (r : Fin 8)
  /-- CR_DOORBELL (R348): An MMIO write of a producer index to a collective ring's doorbell. -/
  | crDoorbell (tm : Fin 2) (r : Fin 4) (p : BitVec 32)
  /-- CR_CTRL_RESET (R348): Writing CR_CTRL.RESET aborts accepted collectives and discards unaccepted entries. -/
  | crCtrlReset (tm : Fin 2) (r : Fin 4)
  /-- CR_CTRL_ENABLE (R348): Writing CR_CTRL.ENABLE starts or stops acceptance from the collective ring. -/
  | crCtrlEnable (tm : Fin 2) (r : Fin 4) (v : Word)
  /-- COLLECTIVE_ENTRY_ACCEPT (R349): A collective ring accepts or refuses its next descriptor and starts the collective. -/
  | collectiveEntryAccept (tm : Fin 2) (r : Fin 4)
  /-- JN_CANCEL (R350): Writing JN_CANCEL ends a collective with CAUSE 0x0C and sends ABORT to every member. -/
  | jnCancel (tm : Fin 2) (r : Fin 4) (v : Word)
  /-- TD_CTRL_ENABLE (R353): Writing TD_CTRL.ENABLE = 1 starts pairing with the tandem partner. -/
  | tdCtrlEnable (v : Word)
  /-- TANDEM_AUTHENTICATE (R415): The tandem authentication exchange completes, checking chains, signatures and measurement 0x09 and deriving keys. -/
  | tandemAuthenticate (a : TdAuth)
  /-- MIRROR_COPY_COMPLETE (R353): The copy of mirrored regions to the partner ends, and the pair enters ACTIVE. -/
  | mirrorCopyComplete
  /-- TD_CTRL_DISABLE (R358): Writing TD_CTRL.ENABLE = 0 closes the open epoch with the partner and leaves the pair. -/
  | tdCtrlDisable
  /-- TD_CTRL_HOST_STATION (R356): Writing HOST_STATION records host participation in the open epoch. -/
  | tdCtrlHostStation
  /-- TD_CTRL_FORCE (R359): Writing FORCE starts a claim from SUSPENDED. -/
  | tdCtrlForce
  /-- TD_CTRL_RESUME (R360): Writing RESUME resumes the takeover engines together, no earlier than DEAD after the grant, and the package enters ALONE. -/
  | tdCtrlResume
  /-- TANDEM_FRAME (R355): A Tandem frame of logged writes, checkpoints or acknowledgements arrives and is authenticated. -/
  | tandemFrame (f : TdFrame) (tagOk : Bool)
  /-- EPOCH_CLOSE (R356): When every participant has moved on and the partner has acknowledged, epoch N closes and STATION counters advance. -/
  | epochClose
  /-- TANDEM_LEAVE_NOTICE (R358): A leave notice arrives, and the partner enters ALONE without failing over. -/
  | tandemLeaveNotice
  /-- TANDEM_DEAD_TIMEOUT (R359): No Tandem frame arrives for DEAD, and the package starts probing the partner over Mainline. -/
  | tandemDeadTimeout
  /-- TANDEM_PROBE_TIMER (R359): Every 10 ms the package probes a silent partner, three times, then suspends or claims. -/
  | tandemProbeTimer
  /-- TANDEM_CLAIM_TIMEOUT (R359): With no majority 20 ms after its claims, the package enters ISOLATED. -/
  | tandemClaimTimeout
  /-- TANDEM_REKEY (R416): After 16 consecutive tag failures or 2^32 frames in one direction, the packages repeat authentication. -/
  | tandemRekey (a : TdAuth)
  /-- INSPECTION_TEST (R365): Inspection tests a unit within each INSP_HOURS period by known-answer tests, marches and margin checks. -/
  | inspectionTest (u : InspUnit) (pass : Bool)
  /-- INSPECTION_SWAP (R367): A never-idle engine is migrated to a tested spare, its slot tested, and the engine migrated back if it passes. -/
  | inspectionSwap (e : Fin 256) (spare : Fin 288) (pass : Bool)
  /-- SPIRE_QUARANTINE (R362): The Signal Box empties a quarantined Spire, migrating its engines or saving them unplaced. -/
  | spireQuarantine (sp : Fin 8)
  /-- UNPLACED_ENGINE_PLACE (R362): When a slot becomes free, the oldest unplaced engine is placed on it, PARKED. -/
  | unplacedEnginePlace (slot : Fin 288)
  /-- SPIRE_FAILURE (R363): A Spire fails electrically, and its engines are placed or left unplaced PARKED with zeroed state and a fault. -/
  | spireFailure (sp : Fin 8)
  /-- TERMINUS_FAILURE (R363): A Terminus fails electrically, its paths move to the other Terminus and its ring work aborts. -/
  | terminusFailure (tm : Fin 2)
  /-- SB_PAIR_MISMATCH (R370): The two cores of a Signal Box pair disagree, discarding the uncommitted decision and restarting the pair from the logbook. -/
  | sbPairMismatch (sb : Fin 2) (pair : Fin 4)
  /-- SB_PROGRESS_TICK (R372): A healthy Signal Box advances its progress counter at least once per millisecond. -/
  | sbProgressTick (sb : Fin 2)
  /-- SB_WATCH_TIMEOUT (R372): A progress counter that does not advance for WATCH_MS declares its Signal Box failed. -/
  | sbWatchTimeout (sb : Fin 2)
  /-- HOLD_RELEASE (R376): A restarted Signal Box or relief controller takes over and releases the hold, resuming engines and paused work. -/
  | holdRelease (sb : Fin 2) (clean : Bool)
  /-- KP_RELIEF (R377): A hart writes KP_RELIEF to designate itself relief controller with a firmware image. -/
  | kpRelief (cc : Fin 4) (hart : Fin 128) (image : Nat)
  /-- RELIEF_CORE_START (R377): After the root of trust verifies the image, the Campanile restarts that core alone at the image's entry. -/
  | reliefCoreStart (chk : SigCheck)
  /-- CONSIST (R379): Signal Box command 0x01 composes the consist record in a buffer and sends a summary. -/
  | consist
  /-- WARM_RESET (R390): Signal Box command 0x03 requests a package warm reset. -/
  | warmReset
  /-- SWITCH (R378): Signal Box command 0x04 makes the standby take over with no Signal Box failed. -/
  | switch
  /-- KP_CMD_CONSIST (R379): A KP_CMD write with OP 0x01 forwards CONSIST to the active controller or composes it in keeper mode. -/
  | kpCmdConsist (cc : Fin 4) (v : Word)
  /-- FW_CTRL_PROGRAM (R411): Writing PROGRAM checks a slot image and starts writing it to the slot not selected. -/
  | fwCtrlProgram (tm : Fin 2) (asn : Asn) (chk : SigCheck)
  /-- FW_PROGRAM_COMPLETE (R411): The manifest is written last, BUSY clears and RESULT is set. -/
  | fwProgramComplete (tm : Fin 2) (flashOk : Bool)
  /-- FW_CTRL_COMMIT_SVN (R411): Writing COMMIT_SVN burns the fused SVN up to SVN_ACTIVE. -/
  | fwCtrlCommitSvn (tm : Fin 2) (asn : Asn)
  /-- GET_VERSION (R413): SPDM request answered with version 1.3. -/
  | getVersion
  /-- GET_CAPABILITIES (R413): SPDM request answered with the supported capabilities. -/
  | getCapabilities
  /-- NEGOTIATE_ALGORITHMS (R413): SPDM request negotiating ML-DSA-44 and SHA3-256. -/
  | negotiateAlgorithms
  /-- GET_DIGESTS (R413): SPDM request answered with certificate chain digests. -/
  | getDigests
  /-- GET_CERTIFICATE (R413): SPDM request answered with the chain of a slot. -/
  | getCertificate (slot : BitVec 8)
  /-- CHALLENGE (R413): SPDM challenge answered with a signature by the slot's Terminus. -/
  | challenge (slot : BitVec 8)
  /-- GET_MEASUREMENTS (R413): SPDM request answered with signed measurement blocks. -/
  | getMeasurements (slot index : BitVec 8)
  /-- DBG_CMD_SUBMIT (R418): Writing SUBMIT checks an unlock token and unlocks its scope on a match. -/
  | dbgCmdSubmit (sigOk digestOk : Bool)
  /-- DBG_CMD_RELOCK (R418): Writing RELOCK locks every die at once. -/
  | dbgCmdRelock
  /-- BYPASS (R436): JTAG BYPASS instruction. -/
  | bypass
  /-- IDCODE (R436): JTAG IDCODE instruction returning 0xB000_4A71 with the stepping. -/
  | idcode
  /-- SAMPLE_PRELOAD (R436): JTAG SAMPLE/PRELOAD instruction. -/
  | samplePreload
  /-- EXTEST (R436): JTAG EXTEST, acting only while PWRGD is low. -/
  | extest
  /-- CLAMP (R436): JTAG CLAMP, acting only while PWRGD is low. -/
  | clamp
  /-- HIGHZ (R436): JTAG HIGHZ, acting only while PWRGD is low. -/
  | highz
  /-- REGISTER_WRITE (R7): A write to a register field with no behaviour of its own takes effect under its access code. -/
  | registerWrite (asn : Asn) (addr : Nat) (v : Word)
  /-- REFCLK_RETURN (R434): A reference clock that was lost in service returns, and the Mainline and Tandem ports or the PCIe and CXL ports of that die retrain, or TIMEREF counting resumes. -/
  | refclkReturn (c : RefClk)
  /-- TIMEREF_EDGE (R315): A rising edge of TIMEREF advances the time CSR and mtime of both Campanile dies. -/
  | timerefEdge
  /-- UCIE_RETRY (R322): A CRC error on a host link is answered by UCIe retry, which replays the flits in flight and advances RETRY_COUNT. -/
  | ucieRetry (cc : Fin 4) (n : Nat)
  /-- TANDEM_LANES_DOWN (R352): One half of the Tandem lanes goes down, and the link runs on the other half at half rate with TD_STATUS.HALF set to 1. -/
  | tandemLanesDown (half : Fin 2)
  /-- TANDEM_LANES_UP (R352): The lost half of the Tandem lanes returns, and the link runs at full rate again with TD_STATUS.HALF cleared. -/
  | tandemLanesUp (half : Fin 2)
  /-- CUP_KCMD_COMPLETE (R200): The Signal Box finishes an install or remove command, sets CUP_KSTATUS.RESULT, clears BUSY and starts the next queued kernel command. -/
  | cupKcmdComplete
deriving DecidableEq, Repr

end Sys2Proof
end

