-- ==== Sys2Proof/Decode.lean ====
section
/-! DEFINITION. The commands that words of the table's bits spell. The spec's table gives no row any bits: commands
come as register writes, frames, pins and events, so no word spells one. -/

namespace Sys2Proof

/-- The command a word spells by the table's bits: the table gives none. -/
def decodeTableWord (_nbits _w : Nat) : Option Instr := none

end Sys2Proof
end

