-- ==== Sys2Proof/Config.lean ====
section
/-! DEFINITION. The values the spec leaves open, each a constant with no body, so that no proof can rest on one.
Where a value must be fresh at each use its first argument is the counter `State.nonce`, which every use advances. -/

namespace Sys2Proof.Config

/-- The 24-bit draws of stochastic rounding, from the instruction's key and an index (R135: the expansion is
undocumented). -/
opaque srDraw : Nat → Nat → BitVec 24

/-- Which of the groups not yet added an MMA adds next (R107: in some order chosen by the array). Arguments: fresh
number, element index, groups left. -/
opaque groupPick : Nat → Nat → Nat → Nat

/-- The order in which arrivals that the spec does not order are combined (R144). Arguments: fresh number, choices. -/
opaque orderPick : Nat → Nat → Nat

/-- An unspecified 64-bit value: fresh number, index. -/
opaque freeWord : Nat → Nat → Word

/-- An unspecified byte: fresh number, index. -/
opaque freeByte : Nat → Nat → Byte

/-- What the diagnostic direct windows hold at an aligned 8-byte element, by its number (R231: their layout is
undocumented): 0 and the element of a frame of the unified range, k + 1 and the element of engine k's tile store. -/
opaque diagPlace : Nat → Nat × Nat

/-- The interrupt file that a physical page of the IOMMU's MSI tables names, as 16 × hart + file (R314, R326: the pages'
addresses are not given). -/
opaque msiPage : Nat → Nat

/-- The slow-tier devices that boot firmware has set up when it writes PKG_START.SLOW_DONE as a register: die, root port and
units of 64 KiB for each (R389; log entry 104). -/
opaque slowFound : Nat → List (Fin 2 × Fin 8 × Nat)

/-- A choice that the spec leaves open: fresh number, index. -/
opaque freeBool : Nat → Nat → Bool

end Sys2Proof.Config
end

