-- ==== Sys2Proof/Machine/Tab.lean ====
section
/-! DEFINITION. Sparse tables in one canonical form: a list of (key, value) pairs, keys strictly rising, no pair
whose value is the one an unlisted key reads as. Registers files, units, memory and poison marks are held so, and
equal contents are equal lists. -/

namespace Sys2Proof.Machine

/-- A sparse table from numbers to values. -/
abbrev Tab (α : Type) := List (Nat × α)

/-- The value at key `k`; `d` where nothing is listed. -/
def look (d : α) : Tab α → Nat → α
  | [], _ => d
  | (a, v) :: t, k => if k = a then v else look d t k

/-- Puts a pair at its place, replacing the key's old pair. -/
def tabIns (k : Nat) (v : α) : Tab α → Tab α
  | [] => [(k, v)]
  | (a, w) :: t =>
    if k < a then (k, v) :: (a, w) :: t
    else if k = a then (k, v) :: t
    else (a, w) :: tabIns k v t

/-- Takes a key's pair out. -/
def tabDel (k : Nat) (t : Tab α) : Tab α := t.filter (fun p => p.1 != k)

/-- Writes `v` at key `k`. Writing the value an unlisted key reads as removes the pair. -/
def put [DecidableEq α] (d : α) (t : Tab α) (k : Nat) (v : α) : Tab α :=
  if v = d then tabDel k t else tabIns k v t

/-- The keys rise strictly from `lo` on, and no value is the unlisted one. -/
def tabWfFrom [DecidableEq α] (d : α) : Nat → Tab α → Bool
  | _, [] => true
  | lo, (a, v) :: t => decide (lo ≤ a) && !decide (v = d) && tabWfFrom d (a + 1) t

/-- The canonical form of a table. -/
def tabWf [DecidableEq α] (d : α) (t : Tab α) : Bool := tabWfFrom d 0 t

/-- The pairs whose key is outside `lo … lo + n - 1`. -/
def tabDrop (lo n : Nat) (t : Tab α) : Tab α :=
  t.filter (fun p => decide (p.1 < lo) || decide (lo + n ≤ p.1))

/-- The pairs whose key is in `lo … lo + n - 1`. -/
def tabRange (lo n : Nat) (t : Tab α) : Tab α :=
  t.filter (fun p => decide (lo ≤ p.1) && decide (p.1 < lo + n))

/-- The pairs of `lo … lo + n - 1` of one table, moved to `dst`. -/
def tabShift (lo n dst : Nat) (t : Tab α) : Tab α :=
  (tabRange lo n t).map (fun p => (p.1 - lo + dst, p.2))

/-- Inserts every pair of `new` over `t`. -/
def tabMerge (t : Tab α) (new : Tab α) : Tab α :=
  new.foldl (fun acc p => tabIns p.1 p.2 acc) t

/-- A range of one table copied over a range of another. -/
def tabCopy (dst t : Tab α) (from_ n to_ : Nat) : Tab α :=
  tabMerge (tabDrop to_ n dst) (tabShift from_ n to_ t)

/-- A set of numbers, held sorted without repeats. -/
abbrev NSet := List Nat

/-- Puts a number into a set. -/
def nIns (k : Nat) : NSet → NSet
  | [] => [k]
  | a :: t => if k < a then k :: a :: t else if k = a then a :: t else a :: nIns k t

/-- Takes a number out of a set. -/
def nDel (k : Nat) (t : NSet) : NSet := t.filter (fun a => a != k)

/-- Membership. -/
def nHas (k : Nat) (t : NSet) : Bool := t.any (fun a => decide (a = k))

/-- Puts a number in or takes it out. -/
def nPut (k : Nat) (b : Bool) (t : NSet) : NSet := if b then nIns k t else nDel k t

/-- The elements rise strictly from `lo` on. -/
def nWfFrom : Nat → NSet → Bool
  | _, [] => true
  | lo, a :: t => decide (lo ≤ a) && nWfFrom (a + 1) t

/-- The canonical form of a set. -/
def nWf (t : NSet) : Bool := nWfFrom 0 t

/-- Applies `f` to the numbers `n - 1, …, 0` in rising order: `f 0` first. -/
def iter (n : Nat) (f : Nat → σ → σ) (s : σ) : σ :=
  (List.range n).foldl (fun acc k => f k acc) s

/-- Folds a state over a list. -/
def forAll (l : List α) (f : α → σ → σ) (s : σ) : σ := l.foldl (fun acc a => f a acc) s

/-- The bits `hi … lo` of a number. -/
def bitsN (w hi lo : Nat) : Nat := (w >>> lo) % 2 ^ (hi + 1 - lo)

/-- The bits `hi … lo` of a 64-bit word, as a number (R5). -/
def fld (w : Word) (hi lo : Nat) : Nat := bitsN w.toNat hi lo

/-- Bit `i` of a 64-bit word. -/
def bit (w : Word) (i : Nat) : Bool := w.getLsbD i

/-- A word from (low bit, width, value) fields. -/
def pack (l : List (Nat × Nat × Nat)) : Word :=
  BitVec.ofNat 64 (l.foldl (fun acc f => acc ||| ((f.2.2 % 2 ^ f.2.1) <<< f.1)) 0)

/-- 1 for true and 0 for false. -/
def b2n (b : Bool) : Nat := if b then 1 else 0

/-- A number saturated at `m`. -/
def satN (m v : Nat) : Nat := if m < v then m else v

/-- The low `w` bits of a number read as two's complement. -/
def sextN (w v : Nat) : Int :=
  let u := v % 2 ^ w
  if u < 2 ^ (w - 1) then (u : Int) else (u : Int) - (2 ^ w : Nat)

/-- An integer reduced modulo `2 ^ w`. -/
def wrapN (w : Nat) (v : Int) : Nat := (v % ((2 ^ w : Nat) : Int)).toNat

/-- The number spelled by little-endian bytes (R5). -/
def leNat : List Byte → Nat
  | [] => 0
  | b :: t => b.toNat + 256 * leNat t

/-- The `n` little-endian bytes of a number (R5). -/
def leBytes : Nat → Nat → List Byte
  | 0, _ => []
  | n + 1, v => BitVec.ofNat 8 v :: leBytes n (v / 256)

/-- The 64-bit word at byte offset `off` of a structure's bytes (R5). -/
def w64At (bs : List Byte) (off : Nat) : Word := BitVec.ofNat 64 (leNat ((bs.drop off).take 8))

/-- The 32-bit number at byte offset `off` of a structure's bytes (R5). -/
def u32At (bs : List Byte) (off : Nat) : Nat := leNat ((bs.drop off).take 4)

/-- The 16-bit number at byte offset `off` of a structure's bytes (R5). -/
def u16At (bs : List Byte) (off : Nat) : Nat := leNat ((bs.drop off).take 2)

/-- Element `i` of a list of numbers, 0 past its end. -/
def natAt (l : List Nat) (i : Nat) : Nat := l.getD i 0

/-- Element `i` of a list replaced; past the end the list stays. -/
def setAt (l : List α) (i : Nat) (v : α) : List α := l.set i v

/-- The first of the numbers `0 … n - 1` that meets `p`. -/
def firstBelow (n : Nat) (p : Nat → Bool) : Option Nat := (List.range n).find? p

/-- The number of the elements of `l` that meet `p`. -/
def countIf (p : α → Bool) (l : List α) : Nat := (l.filter p).length

/-- Sorted order of numbers by insertion. -/
def sortIns (k : Nat) : List Nat → List Nat
  | [] => [k]
  | a :: t => if k ≤ a then k :: a :: t else a :: sortIns k t

/-- A list of numbers in rising order. -/
def sortN (l : List Nat) : List Nat := l.foldr sortIns []

end Sys2Proof.Machine
end

