-- ==== Sys2Proof/Machine/Float.lean ====
section
/-! DEFINITION. Number formats and arithmetic (chapter 05, R125–R143): decoding and rounding every floating-point
format, IEEE operations, conversions, microscaling blocks and the matrix unit's group sums. Values are exact:
a sign, a natural significand and a power of two. -/

namespace Sys2Proof.Machine

def flNV : Flags := 16
def flDZ : Flags := 8
def flOF : Flags := 4
def flUF : Flags := 2
def flNX : Flags := 1

/-- The floating-point formats of R125. -/
inductive FpFmt where
  | fp64 | fp32 | fp16 | bf16 | e4m3 | e5m2 | e2m3 | e3m2 | e2m1
deriving DecidableEq, Repr

/-- Total bits (R125). -/
def FpFmt.bits : FpFmt → Nat
  | .fp64 => 64 | .fp32 => 32 | .fp16 => 16 | .bf16 => 16 | .e4m3 => 8 | .e5m2 => 8 | .e2m3 => 6 | .e3m2 => 6
  | .e2m1 => 4

/-- Mantissa bits (R125). -/
def FpFmt.mant : FpFmt → Nat
  | .fp64 => 52 | .fp32 => 23 | .fp16 => 10 | .bf16 => 7 | .e4m3 => 3 | .e5m2 => 2 | .e2m3 => 3 | .e3m2 => 2
  | .e2m1 => 1

/-- Exponent bias (R125). -/
def FpFmt.bias : FpFmt → Nat
  | .fp64 => 1023 | .fp32 => 127 | .fp16 => 15 | .bf16 => 127 | .e4m3 => 7 | .e5m2 => 15 | .e2m3 => 1 | .e3m2 => 3
  | .e2m1 => 1

/-- Exponent bits: what the sign and the mantissa leave. -/
def FpFmt.expo (f : FpFmt) : Nat := f.bits - 1 - f.mant

/-- Whether the format has infinities in the IEEE place (R125). -/
def FpFmt.hasInf : FpFmt → Bool
  | .fp64 | .fp32 | .fp16 | .bf16 | .e5m2 => true
  | _ => false

/-- The encoding of the largest finite magnitude (R125). -/
def FpFmt.maxCode (f : FpFmt) : Nat :=
  match f with
  | .e4m3 => 0x7E
  | .e2m3 | .e3m2 => 0x1F
  | .e2m1 => 0x7
  | _ => (2 ^ f.expo - 1) * 2 ^ f.mant - 1

/-- The encoding of +infinity, for the formats that have one. -/
def FpFmt.infCode (f : FpFmt) : Nat := (2 ^ f.expo - 1) * 2 ^ f.mant

/-- The canonical NaN (R126). A format without NaN has none and this is not used. -/
def FpFmt.canonNan (f : FpFmt) : Nat :=
  match f with
  | .e4m3 => 0x7F
  | _ => f.infCode + 2 ^ (f.mant - 1)

/-- The sign bit's weight. -/
def FpFmt.signBit (f : FpFmt) : Nat := 2 ^ (f.bits - 1)

/-- A decoded value: a NaN (signalling or quiet), an infinity, or (−1)^neg × m × 2^e. -/
inductive FVal where
  | nan (signalling : Bool)
  | inf (neg : Bool)
  | fin (neg : Bool) (m : Nat) (e : Int)
deriving DecidableEq, Repr

/-- The value of an encoding (R125, R126). -/
def fpDecode (f : FpFmt) (w : Nat) : FVal :=
  let neg := w / f.signBit % 2 == 1
  let m := w % 2 ^ f.mant
  let e := w / 2 ^ f.mant % 2 ^ f.expo
  let top := 2 ^ f.expo - 1
  if f.hasInf && e == top then
    if m == 0 then .inf neg
    else .nan (m / 2 ^ (f.mant - 1) % 2 == 0 && !(f == .e5m2))
  else if f == .e4m3 && e == top && m == 7 then .nan false
  else if e == 0 then .fin neg m (1 - (f.bias : Int) - f.mant)
  else .fin neg (m + 2 ^ f.mant) ((e : Int) - f.bias - f.mant)

/-- Rounding modes (R133); a stochastic mode carries its draw (R134). -/
inductive RMode where
  | rne | rz | rd | ru | rna
  | sr (draw : Nat)
deriving DecidableEq, Repr

/-- Overflow rules (R136): the IEEE rule of vector arithmetic, or a conversion with SAT. -/
inductive OvRule where
  | ieee
  | conv (sat : Bool)
deriving DecidableEq, Repr

/-- Whether the magnitude is rounded up from `t`, given the remainder `rem` of `2 ^ sh` and `t`'s low bit. -/
def roundsUp (rm : RMode) (neg odd : Bool) (rem sh : Nat) : Bool :=
  match rm with
  | .rne => decide (2 ^ sh < 2 * rem) || (decide (2 * rem = 2 ^ sh) && odd)
  | .rz => false
  | .rd => neg && decide (0 < rem)
  | .ru => !neg && decide (0 < rem)
  | .rna => decide (0 < rem) && decide (2 ^ sh ≤ 2 * rem)
  | .sr d => decide (2 ^ 24 ≤ rem * 2 ^ 24 / 2 ^ sh + d % 2 ^ 24) && decide (0 < rem)

/-- `m × 2 ^ e` on the grid of multiples of `2 ^ q`: the multiple and whether it is inexact. -/
def roundAt (rm : RMode) (neg : Bool) (m : Nat) (e q : Int) : Nat × Bool :=
  if q ≤ e then (m * 2 ^ (e - q).toNat, false)
  else
    let sh := (q - e).toNat
    let t := m / 2 ^ sh
    let rem := m % 2 ^ sh
    (if roundsUp rm neg (t % 2 == 1) rem sh then t + 1 else t, rem != 0)

/-- Whether an overflow under mode `rm` gives infinity by the IEEE rule. -/
def ovToInf (rm : RMode) (neg : Bool) : Bool :=
  match rm with
  | .rz => false
  | .rd => neg
  | .ru => !neg
  | _ => true

/-- The magnitude encoding an overflow gives (R136, R142). -/
def ovCode (f : FpFmt) (ov : OvRule) (rm : RMode) (neg : Bool) : Nat :=
  match ov with
  | .conv true => f.maxCode
  | .conv false =>
    match f with
    | .e4m3 => 0x7F
    | .e5m2 => f.infCode
    | .e2m3 | .e3m2 | .e2m1 => f.maxCode
    | _ => if ovToInf rm neg then f.infCode else f.maxCode
  | .ieee => if f.hasInf then (if ovToInf rm neg then f.infCode else f.maxCode) else f.maxCode

/-- The encoding with its sign. -/
def withSign (f : FpFmt) (neg : Bool) (c : Nat) : Nat := if neg then c + f.signBit else c

/-- A finite exact value rounded to a format: R133, R134, R136; tininess is detected after rounding (R142). -/
def fpRound (f : FpFmt) (rm : RMode) (ov : OvRule) (neg : Bool) (m : Nat) (e : Int) : Nat × Flags :=
  if m = 0 then (withSign f neg 0, 0)
  else
    let emin : Int := 1 - (f.bias : Int)
    let q0 : Int := (Nat.log2 m : Int) + e - f.mant
    let q : Int := max q0 (emin - f.mant)
    let r := roundAt rm neg m e q
    let code := ((q - (emin - f.mant)).toNat) * 2 ^ f.mant + r.1
    if f.maxCode < code then (withSign f neg (ovCode f ov rm neg), flOF ||| flNX)
    else
      let u := roundAt rm neg m e q0
      -- below 2 ^ emin after rounding with an unbounded exponent
      let tiny := decide (q0 < emin - f.mant) &&
        decide (u.1 * 2 ^ (q0 - min q0 (emin - (f.mant : Int) - 1)).toNat
                < 2 ^ (emin - min q0 (emin - (f.mant : Int) - 1)).toNat)
      let fl : Flags := if r.2 then (if tiny then flUF ||| flNX else flNX) else 0
      (withSign f neg code, fl)

/-- An arithmetic result written to a format: NaN results are canonical (R126). -/
def fpEncode (f : FpFmt) (rm : RMode) (ov : OvRule) (v : FVal) : Nat × Flags :=
  match v with
  | .nan _ => (f.canonNan, 0)
  | .inf neg => (withSign f neg f.infCode, 0)
  | .fin neg m e => fpRound f rm ov neg m e

/-- The sign of a value. -/
def FVal.neg? : FVal → Bool
  | .nan _ => false
  | .inf n => n
  | .fin n _ _ => n

def FVal.isNan : FVal → Bool
  | .nan _ => true
  | _ => false

def FVal.isSig : FVal → Bool
  | .nan s => s
  | _ => false

def FVal.isZero : FVal → Bool
  | .fin _ m _ => m == 0
  | _ => false

/-- The value with its sign inverted. -/
def FVal.negate : FVal → FVal
  | .nan s => .nan s
  | .inf n => .inf (!n)
  | .fin n m e => .fin (!n) m e

/-- NV when an operand is a signalling NaN. -/
def sigFlags (l : List FVal) : Flags := if l.any FVal.isSig then flNV else 0

/-- A signed exact sum `a × 2^e`: significand as an integer. -/
def signedM (neg : Bool) (m : Nat) : Int := if neg then -(m : Int) else m

/-- The exact sum of two finite values, with the sign of a zero sum by IEEE 754 (6.3). -/
def addFin (rm : RMode) (n1 : Bool) (m1 : Nat) (e1 : Int) (n2 : Bool) (m2 : Nat) (e2 : Int) : FVal :=
  let e := min e1 e2
  let s := signedM n1 (m1 * 2 ^ (e1 - e).toNat) + signedM n2 (m2 * 2 ^ (e2 - e).toNat)
  if s = 0 then .fin (if n1 == n2 then n1 else decide (rm = .rd)) 0 0
  else .fin (decide (s < 0)) s.natAbs e

/-- Exact addition (R142); NV for signalling operands and opposite infinities. -/
def fvAdd (rm : RMode) (a b : FVal) : FVal × Flags :=
  match a, b with
  | .nan _, _ => (.nan false, sigFlags [a, b])
  | _, .nan _ => (.nan false, sigFlags [a, b])
  | .inf n, .inf k => if n == k then (.inf n, 0) else (.nan false, flNV)
  | .inf n, _ => (.inf n, 0)
  | _, .inf n => (.inf n, 0)
  | .fin n1 m1 e1, .fin n2 m2 e2 => (addFin rm n1 m1 e1 n2 m2 e2, 0)

/-- Exact multiplication; NV for signalling operands and infinity times zero. -/
def fvMul (a b : FVal) : FVal × Flags :=
  match a, b with
  | .nan _, _ => (.nan false, sigFlags [a, b])
  | _, .nan _ => (.nan false, sigFlags [a, b])
  | .inf n, .inf k => (.inf (n != k), 0)
  | .inf n, .fin k m _ => if m = 0 then (.nan false, flNV) else (.inf (n != k), 0)
  | .fin k m _, .inf n => if m = 0 then (.nan false, flNV) else (.inf (n != k), 0)
  | .fin n1 m1 e1, .fin n2 m2 e2 => (.fin (n1 != n2) (m1 * m2) (e1 + e2), 0)

/-- a × b + c with the product exact (R115, R142). NV also for infinity times zero with a quiet NaN addend is not
raised: 754-2019 leaves it open, and the product's invalid case is reported only where no operand is NaN. -/
def fvFma (rm : RMode) (a b c : FVal) : FVal × Flags :=
  if a.isNan || b.isNan || c.isNan then (.nan false, sigFlags [a, b, c])
  else
    let p := fvMul a b
    let s := fvAdd rm p.1 c
    (s.1, p.2 ||| (if p.1.isNan then 0 else s.2))

/-- Division to enough bits, with the remainder folded into a sticky low bit. -/
def fvDiv (f : FpFmt) (a b : FVal) : FVal × Flags :=
  match a, b with
  | .nan _, _ => (.nan false, sigFlags [a, b])
  | _, .nan _ => (.nan false, sigFlags [a, b])
  | .inf n, .inf _ => (.nan false, flNV)
  | .inf n, .fin k _ _ => (.inf (n != k), 0)
  | .fin n _ _, .inf k => (.fin (n != k) 0 0, 0)
  | .fin n1 m1 e1, .fin n2 m2 e2 =>
    if m2 = 0 then (if m1 = 0 then (.nan false, flNV) else (.inf (n1 != n2), flDZ))
    else if m1 = 0 then (.fin (n1 != n2) 0 0, 0)
    else
      let k := f.mant + 4 + Nat.log2 m2
      let q := m1 * 2 ^ k / m2
      let r := m1 * 2 ^ k % m2
      (.fin (n1 != n2) (2 * q + (if r = 0 then 0 else 1)) (e1 - e2 - k - 1), 0)

/-- The integer square root, one result bit a round from bit `k - 1` down. -/
def isqrtFrom : Nat → Nat → Nat → Nat
  | 0, _, r => r
  | k + 1, n, r =>
    let c := r + 2 ^ k
    isqrtFrom k n (if c * c ≤ n then c else r)

/-- ⌊√n⌋. -/
def isqrt (n : Nat) : Nat := isqrtFrom (Nat.log2 n / 2 + 1) n 0

/-- Square root to enough bits, with a sticky low bit. -/
def fvSqrt (f : FpFmt) (a : FVal) : FVal × Flags :=
  match a with
  | .nan _ => (.nan false, sigFlags [a])
  | .inf n => if n then (.nan false, flNV) else (.inf false, 0)
  | .fin n m e =>
    if m = 0 then (.fin n 0 0, 0)
    else if n then (.nan false, flNV)
    else
      let k0 : Int := 2 * f.mant + 8
      -- an even power of two in front, so that the root's exponent is whole
      let k : Int := if (e - k0) % 2 = 0 then k0 else k0 + 1
      let x := m * 2 ^ k.toNat
      let r := isqrt x
      (.fin false (2 * r + (if r * r = x then 0 else 1)) ((e - k) / 2 - 1), 0)

/-- Orders two values: none where one is NaN. −0 equals +0. -/
def fvCmp (a b : FVal) : Option Ordering :=
  match a, b with
  | .nan _, _ => none
  | _, .nan _ => none
  | .inf n, .inf k => some (if n == k then .eq else if n then .lt else .gt)
  | .inf n, .fin _ _ _ => some (if n then .lt else .gt)
  | .fin _ _ _, .inf k => some (if k then .gt else .lt)
  | .fin n1 m1 e1, .fin n2 m2 e2 =>
    let e := min e1 e2
    let x := signedM n1 (m1 * 2 ^ (e1 - e).toNat)
    let y := signedM n2 (m2 * 2 ^ (e2 - e).toNat)
    some (if x < y then .lt else if x = y then .eq else .gt)

/-- minimumNumber (`lo`) or maximumNumber of two values, choosing an operand: `none` for two NaNs. −0 is below +0
(R115, IEEE 754-2019 9.6). -/
def fvPick (lo : Bool) (a b : FVal) : Option Bool × Flags :=
  match a.isNan, b.isNan with
  | true, true => (none, sigFlags [a, b])
  | true, false => (some false, sigFlags [a, b])
  | false, true => (some true, sigFlags [a, b])
  | false, false =>
    let first :=
      match fvCmp a b with
      | some .lt => lo
      | some .gt => !lo
      | _ => if lo then a.neg? || !b.neg? else !a.neg? || b.neg?
    (some first, 0)

/-- A vector FP operation's result on two encodings. -/
inductive FpOp where
  | add | sub | mul | div | min | max
deriving DecidableEq, Repr

/-- One FP operation on encodings (R115, R142). -/
def fpOp2 (f : FpFmt) (rm : RMode) (op : FpOp) (a b : Nat) : Nat × Flags :=
  let x := fpDecode f a
  let y := fpDecode f b
  let fin2 (r : FVal × Flags) : Nat × Flags :=
    let w := fpEncode f rm .ieee r.1
    (w.1, r.2 ||| w.2)
  match op with
  | .add => fin2 (fvAdd rm x y)
  | .sub => fin2 (if y.isNan then (.nan false, sigFlags [x, y]) else fvAdd rm x y.negate)
  | .mul => fin2 (fvMul x y)
  | .div => fin2 (fvDiv f x y)
  | .min | .max =>
    let p := fvPick (decide (op = .min)) x y
    match p.1 with
    | none => (f.canonNan, p.2)
    | some true => (a, p.2)
    | some false => (b, p.2)

/-- Fused multiply-add on encodings; `np` negates the product and `nc` the addend (R115). -/
def fpFma (f : FpFmt) (rm : RMode) (np nc : Bool) (a b c : Nat) : Nat × Flags :=
  let x := fpDecode f a
  let y := fpDecode f b
  let z := fpDecode f c
  let r := fvFma rm (if np then x.negate else x) y (if nc then z.negate else z)
  let w := fpEncode f rm .ieee r.1
  (w.1, r.2 ||| w.2)

/-- Square root on an encoding. -/
def fpSqrt (f : FpFmt) (rm : RMode) (a : Nat) : Nat × Flags :=
  let r := fvSqrt f (fpDecode f a)
  let w := fpEncode f rm .ieee r.1
  (w.1, r.2 ||| w.2)

/-- Conversion between floating-point formats (R136): NaN sources give the canonical NaN, NV only when signalling;
an infinite source raises OF and NX when its result is not infinite. -/
def fpConvVal (t : FpFmt) (rm : RMode) (sat : Bool) (v : FVal) : Nat × Flags :=
  match v with
  | .nan s => (t.canonNan, if s then flNV else 0)
  | .inf neg =>
    if t.hasInf && !sat then (withSign t neg t.infCode, 0)
    else (withSign t neg (if sat then t.maxCode else ovCode t (.conv false) .rne neg), flOF ||| flNX)
  | .fin neg m e => fpRound t rm (.conv sat) neg m e

/-- FP to FP conversion of an encoding. -/
def fpConv (f t : FpFmt) (rm : RMode) (sat : Bool) (a : Nat) : Nat × Flags := fpConvVal t rm sat (fpDecode f a)

/-- The integer limits of a type of `w` bits. -/
def intMin (signed : Bool) (w : Nat) : Int := if signed then -(2 ^ (w - 1) : Nat) else 0
def intMax (signed : Bool) (w : Nat) : Int := if signed then (2 ^ (w - 1) : Nat) - 1 else (2 ^ w : Nat) - 1

/-- An integer held to a type's limits. -/
def intClamp (signed : Bool) (w : Nat) (v : Int) : Int :=
  if v < intMin signed w then intMin signed w else if intMax signed w < v then intMax signed w else v

/-- FP to integer (R137): NaN gives zero and NV, out of range the nearest limit and NV, else NX when inexact. -/
def fpToInt (f : FpFmt) (rm : RMode) (signed : Bool) (w : Nat) (a : Nat) : Nat × Flags :=
  match fpDecode f a with
  | .nan _ => (0, flNV)
  | .inf neg => (wrapN w (if neg then intMin signed w else intMax signed w), flNV)
  | .fin neg m e =>
    let r := roundAt rm neg m e 0
    let v := signedM neg r.1
    if v < intMin signed w || intMax signed w < v then (wrapN w (intClamp signed w v), flNV)
    else (wrapN w v, if r.2 then flNX else 0)

/-- Integer to FP (R137). -/
def intToFp (t : FpFmt) (rm : RMode) (sat : Bool) (v : Int) : Nat × Flags :=
  fpRound t rm (.conv sat) (decide (v < 0)) v.natAbs 0

/-- Integer to integer (R116): the value when it fits, else saturated or wrapped. -/
def intToInt (signed : Bool) (w : Nat) (sat : Bool) (v : Int) : Nat :=
  if sat then wrapN w (intClamp signed w v) else wrapN w v

/-! ### Microscaling blocks (R128–R130) -/

/-- Element formats of matrix operands, MX blocks and MBST tiles. -/
inductive ElFmt where
  | fp (f : FpFmt)
  | i8 | u8
  | mx (f : FpFmt)      -- elements of an MX block with an E8M0 scale
  | mxi8
deriving DecidableEq, Repr

/-- Bits of one element. -/
def ElFmt.bits : ElFmt → Nat
  | .fp f | .mx f => f.bits
  | .i8 | .u8 | .mxi8 => 8

/-- Whether blocks of 32 carry a scale byte. -/
def ElFmt.isMx : ElFmt → Bool
  | .mx _ | .mxi8 => true
  | _ => false

/-- The value of an element encoding under a scale of one (R125, R129). -/
def elValue (f : ElFmt) (w : Nat) : FVal :=
  match f with
  | .fp g | .mx g => fpDecode g w
  | .i8 => let v := sextN 8 w; .fin (decide (v < 0)) v.natAbs 0
  | .u8 => .fin false (w % 256) 0
  | .mxi8 => let v := sextN 8 w; .fin (decide (v < 0)) v.natAbs (-6)

/-- A value times 2^k. -/
def FVal.scale (v : FVal) (k : Int) : FVal :=
  match v with
  | .fin n m e => .fin n m (e + k)
  | x => x

/-- An element's value under its block's scale byte; 0xFF makes it NaN (R129). -/
def mxValue (f : ElFmt) (scale w : Nat) : FVal :=
  if scale = 0xFF then .nan false else (elValue f w).scale ((scale : Int) - 127)

/-- emax of R130. -/
def mxEmax : ElFmt → Int
  | .mx .e2m1 | .mx .e2m3 => 2
  | .mx .e3m2 => 4
  | .mx .e4m3 => 8
  | .mx .e5m2 => 15
  | _ => 0

/-- ⌊log2⌋ of a non-zero finite magnitude. -/
def fvLog2 (m : Nat) (e : Int) : Int := (Nat.log2 m : Int) + e

/-- The larger of two magnitudes `m × 2^e`. -/
def magMax (a b : Nat × Int) : Nat × Int :=
  let e := min a.2 b.2
  if a.1 * 2 ^ (a.2 - e).toNat < b.1 * 2 ^ (b.2 - e).toNat then b else a

/-- One element of an MX block: the quotient rounded to the element format, clamped with NX (R130 step 4), UF where a
non-zero quotient rounds to a subnormal or zero with loss (R141). -/
def mxElement (f : ElFmt) (rm : RMode) (v : FVal) (x : Int) : Nat × Flags :=
  match v with
  | .fin neg m e =>
    match f with
    | .mxi8 =>
      let r := roundAt rm neg m (e - x) (-6)
      let k := if 127 < r.1 then 127 else r.1
      let clampFl : Flags := if 127 < r.1 then flNX else 0
      let inex : Flags := if r.2 then flNX else 0
      let uf : Flags := if r.2 && decide (k = 0) then flUF else 0
      (wrapN 8 (signedM neg k), clampFl ||| inex ||| uf)
    | .mx g =>
      let r := fpRound g rm (.conv true) neg m (e - x)
      let mag := r.1 % g.signBit
      let past := (r.2 &&& flOF) != 0
      let lost := (r.2 &&& flNX) != 0 && !past
      let uf : Flags := if lost && decide (mag < 2 ^ g.mant) then flUF else 0
      (r.1, (if (r.2 &&& flNX) != 0 then flNX else 0) ||| uf)
    | _ => (0, 0)
  | _ => (0, 0)

/-- R130: 32 values to a scale byte and element encodings. `mode i` is the rounding mode of element `i`. -/
def mxEncode (f : ElFmt) (mode : Nat → RMode) (sat : Bool) (vs : List FVal) : Nat × List Nat × Flags :=
  if vs.any FVal.isNan then (0xFF, vs.map (fun _ => 0), flNV)
  else if vs.any (fun v => match v with | .inf _ => true | _ => false) && !sat then (0xFF, vs.map (fun _ => 0), flOF)
  else
    let vs := vs.map (fun v => match v with
      | .inf n => FVal.fin n (2 ^ 24 - 1) 104
      | x => x)
    let amax := vs.foldl (fun a v => match v with | .fin _ m e => magMax a (m, e) | _ => a) (0, 0)
    if amax.1 = 0 then (0, vs.map (fun _ => 0), 0)
    else
      let x := max (fvLog2 amax.1 amax.2 - mxEmax f) (-127)
      let rs := (List.range vs.length).map (fun i => mxElement f (mode i) (vs.getD i (.fin false 0 0)) x)
      ((x + 127).toNat, rs.map Prod.fst, rs.foldl (fun a r => a ||| r.2) 0)

/-- Packs `w`-bit elements without gaps, least significant first (R128), as a number. -/
def packEls (w : Nat) : List Nat → Nat
  | [] => 0
  | a :: t => a % 2 ^ w + 2 ^ w * packEls w t

/-- Bytes of a packed array (R128). -/
def packBytes (w : Nat) (l : List Nat) : List Byte := leBytes ((w * l.length + 7) / 8) (packEls w l)

/-- Element `j` of a packed array read as one little-endian bit string (R128). -/
def packedEl (w : Nat) (bits : Nat) (j : Nat) : Nat := bits >>> (w * j) % 2 ^ w

/-! ### The matrix unit (R138–R141) -/

/-- An exact sum of finite values: integer significand at a common exponent, all-negative-zero remembered. -/
structure ExactSum where
  m : Int := 0
  e : Int := 0
  allNegZero : Bool := true
deriving DecidableEq, Repr

/-- Adds one exact term. -/
def ExactSum.add (s : ExactSum) (neg : Bool) (m : Nat) (e : Int) : ExactSum :=
  let q := min s.e e
  { m := s.m * (2 ^ (s.e - q).toNat : Nat) + signedM neg m * (2 ^ (e - q).toNat : Nat), e := q,
    allNegZero := s.allNegZero && neg && decide (m = 0) }

/-- The value of an exact sum: an exact zero is −0 only when every term was −0. -/
def ExactSum.val (s : ExactSum) : FVal :=
  if s.m = 0 then .fin s.allNegZero 0 0 else .fin (decide (s.m < 0)) s.m.natAbs s.e

/-- A product in the matrix unit (R140): NV only for infinity times zero. -/
def mmProduct (a b : FVal) : FVal × Flags :=
  if a.isNan || b.isNan then (.nan false, 0) else fvMul a b

/-- The place of the leading bit of the largest product (R138). -/
def leadPlace (ps : List FVal) : Option Int :=
  ps.foldl (fun acc p => match p with
    | .fin _ m e => if m = 0 then acc else
        some (match acc with | none => fvLog2 m e | some x => max x (fvLog2 m e))
    | _ => acc) none

/-- A product truncated toward zero to a multiple of 2^q (R138, BF16 and FP16). -/
def truncAt (q : Int) (p : FVal) : FVal :=
  match p with
  | .fin n m e => if q ≤ e then p else .fin n (m / 2 ^ (q - e).toNat) q
  | x => x

/-- The group sum of up to 32 products (R138, R140): exact, or with products truncated for BF16 and FP16. -/
def groupSum (trunc : Bool) (xs ws : List FVal) : FVal × Flags :=
  let prods := (xs.zip ws).map (fun p => mmProduct p.1 p.2)
  let nv : Flags := prods.foldl (fun a p => a ||| p.2) 0
  let ps := prods.map Prod.fst
  let pinf := ps.any (fun v => decide (v = .inf false))
  let ninf := ps.any (fun v => decide (v = .inf true))
  if ps.any FVal.isNan then (.nan false, if pinf && ninf then flNV else nv)
  else
    if pinf && ninf then (.nan false, flNV)
    else if pinf then (.inf false, 0)
    else if ninf then (.inf true, 0)
    else
      let ps := if trunc then (match leadPlace ps with
        | none => ps
        | some p => ps.map (truncAt (p - 63))) else ps
      ((ps.foldl (fun (s : ExactSum) v => match v with
        | .fin n m e => s.add n m e
        | _ => s) {}).val, nv)

/-- An FP32 encoding whose subnormals read as zero of the same sign (R139). -/
def fp32Flushed (w : Nat) : FVal :=
  match fpDecode .fp32 w with
  | .fin n m e => if m < 2 ^ 23 then .fin n 0 0 else .fin n m e
  | x => x

/-- One addition of a group sum to an FP32 accumulator value: single rounding, then flush (R139–R141). -/
def mmAccumulate (rm : RMode) (acc : FVal) (s : FVal) : Nat × Flags :=
  if acc.isNan || s.isNan then (FpFmt.fp32.canonNan, 0)
  else
    let r := fvAdd .rne acc s
    match r.1 with
    | .fin n m e =>
      let w := fpRound .fp32 rm .ieee n m e
      let mag := w.1 % 2 ^ 31
      if mag < 2 ^ 23 && m != 0 then (withSign .fp32 n 0, flUF ||| flNX) else (w.1, w.2 &&& (flOF ||| flNX))
    | v => ((fpEncode .fp32 .rne .ieee v).1, r.2)

/-! ### The stochastic-rounding generator (R135) -/

/-- One advance of the 128-bit generator: the new state and the instruction key. -/
def srNext (st : BitVec 128) : BitVec 128 × Word :=
  let hi0 : Word := st.extractLsb' 64 64
  let lo0 : Word := st.extractLsb' 0 64
  let z := hi0 == 0 && lo0 == 0
  let hi : Word := if z then 0x9E3779B97F4A7C15 else hi0
  let lo : Word := if z then 0xD1B54A32D192ED03 else lo0
  let x0 := lo
  let y := hi
  let x := x0 ^^^ (x0 <<< 23)
  let nhi := x ^^^ y ^^^ (x >>> 17) ^^^ (y >>> 26)
  (nhi ++ y, nhi + y)

/-- Draw number `i` of an instruction with key `k` (R135). -/
def srDrawOf (k : Word) (i : Nat) : RMode := .sr (Config.srDraw k.toNat i).toNat

end Sys2Proof.Machine
end

