-- ==== Sys2Proof/Machine/State.lean ====
section
/-! DEFINITION. The state of the NX4 package as plain data: every register, queue, buffer, table and mode the
spec names, and the state right after reset. Default field values are the reset values; INVENTORY.md lists each
with the rule of spec/ that names it. -/

namespace Sys2Proof.Machine

/-- Why a step could stop with a fault. No command of this model stops so: errors are recorded in registers,
records and Sidings, as the spec says. -/
inductive Fault where
  /-- Reserved for a stuck block. Raised by nobody. Safe: stopping proves nothing false. -/
  | stuck
deriving DecidableEq, Repr

/-- Why a step could refuse a command. -/
inductive Refusal where
  /-- The command has no meaning in this model yet. Raised by a refused arm of the dispatcher. Safe. -/
  | notModelled (mnemonic : String)
deriving DecidableEq, Repr

/-! ### Links (chapter 01, R22–R29, and host links, R321–R324) -/

/-- VD_STATUS.STATE (chapter 01). -/
inductive LinkState where
  | down | training | active | held | safeMode | retired
deriving DecidableEq, Repr

/-- One direction's two spares: the data lane each replaces, 0x1F for unused (VD_STATUS). -/
structure Spares where
  s0 : Nat := 0x1F
  s1 : Nat := 0x1F
deriving DecidableEq, Repr

/-- A flit in a replay buffer: its sequence number and the traffic that it carries (R23). -/
structure FlitSent where
  seq : Nat
  key : Nat
deriving DecidableEq, Repr

/-- A flit on its way over the package network, in sending order (R19, R23). Nodes are the Concourses 0–3 and, from 4 on,
the Terminus ends of their connections; edge 0 is RING_CW, 1 RING_CCW and 2 TERMINUS. -/
structure FlitTxn where
  key  : Nat
  src  : Nat                        -- sending Concourse or end
  dst  : Nat
  id   : Nat                        -- transaction ID
  bits : BitVec 1024
  node : Nat                        -- where it is sent from
  edge : Nat                        -- the edge that it takes there
  sent : Bool := true               -- in a bundle's replay buffer
  arrived : Bool := false           -- received, and held for earlier flits of its transaction ID
deriving DecidableEq, Repr

/-- What a Concourse's outward edges E2 and E3 serve, as mapped at a start (R17). -/
structure OuterEdges where
  host     : Nat                    -- the edge, 2 or 3, of HOST
  terminus : Nat                    -- the edge of TERMINUS
  uciOff   : Nat                    -- the edge whose UCIe PHY is powered off
  viaOff   : Nat                    -- the edge whose Viaduct block is powered off
deriving DecidableEq, Repr

/-- One end of a Viaduct bundle or host link: its flit sequencing (R23, R24) and its VD_STATUS fields. -/
structure LinkEnd where
  state       : LinkState := .down
  width       : Nat := 0            -- WIDTH code 0 x16, 1 x12, 2 x8, 3 x4
  halfRate    : Bool := false
  xchgFails   : Nat := 0
  tx          : Spares := {}
  rx          : Spares := {}
  fusedTx     : Spares := {}        -- the choice fused at assembly test (R25)
  fusedRx     : Spares := {}
  crcErrs     : Nat := 0
  replays     : Nat := 0
  txSeq       : Nat := 0            -- sequence number of the next flit to send
  rxNext      : Nat := 0            -- sequence number of the next flit to accept
  discarding  : Bool := false       -- a bad flit was seen: later flits are discarded (R23)
  failSeq     : Nat := 0            -- flit whose replay is failing (R24)
  fails       : Nat := 0            -- consecutive replay requests for that flit
  record      : Nat := 0xFFFF       -- working data lanes known at this end (R28)
  lanes       : Nat := 0            -- data lanes in use, by bit
  disagree    : Bool := false       -- the ends' records differ after an interrupted retrain (R28)
  replay      : List FlitSent := [] -- the replay buffer: the last 96 flits sent, oldest first (R23)
  replayReq   : Option Nat := none  -- a replay request sent and not yet taken: the bad flit's number (R23)
  planPending : Bool := false       -- a planned retrain is scheduled (R24, R28)
  retraining  : Bool := false       -- a retrain is in progress
  planned     : Bool := false       -- it is a planned one (R27)
deriving DecidableEq, Repr

/-! ### The engine (chapters 02–04) -/

/-- ENG_STATUS.STATE (R66). -/
inductive EngState where
  | idle | running | parking | parked | resetting
deriving DecidableEq, Repr

/-- ENG_STATUS.CAUSE (R66). -/
inductive ParkCause where
  | none | software | fault | halt | keeper
deriving DecidableEq, Repr

/-- A queued instruction with its captured scalar operands (R38, R41, R44). `line` tells entries of one
instruction in several queues apart from others by their DSN. -/
structure Entry where
  dsn  : Nat
  addr : Nat                 -- virtual address of the instruction
  word : Word
  s1   : Word := 0           -- S[SRC1] at dispatch
  s2   : Word := 0           -- S[SRC2] at dispatch
  sd   : Word := 0           -- S[DST] at dispatch
  regs : List Word := []     -- the sixteen registers of SHUNT.R (R90)
  waits : Bool := false      -- a TCWAIT or WAITT that waits at its heads, its guard read as true (R71, R83, R84)
  released : Bool := false   -- its counter has reached the value (R51)
  counted : Bool := false    -- its slot has been classified (R419)
deriving DecidableEq, Repr

/-- A recorded exception (R56, R59). `precise` is set for precise and issue exceptions whose instruction is still
at its queue's head; `fromDispatch` for those of R69. -/
structure Exc where
  queue   : Nat
  code    : Nat
  dsn     : Nat
  addr    : Nat
  data    : Nat
  partial_ : Bool := false
deriving DecidableEq, Repr

/-- A store that has retired and is not yet visible to other observers (R38, R213). -/
structure Store where
  pa    : Nat
  bytes : List Byte
  poison : Bool := false
  nc     : Bool := false     -- its leaf entry has PBMT NC: it is performed at the home and leaves no cached copy (R296)
deriving DecidableEq, Repr

/-- Who performs an access, as coherence and mirroring tell observers apart. -/
inductive Obs where
  | hart (h : Nat)
  | engine (e : Nat)
  | submit (e : Nat)     -- work that an engine submitted
  | other
deriving DecidableEq, Repr

/-- Memory as it was at an earlier moment at which an observer may have performed part of its loads, and the aligned 8-byte
words that it has accessed since, which it reads no older (R211, R212, R215, R232). -/
structure Earlier where
  mem   : Tab Byte
  since : NSet := []
deriving DecidableEq, Repr

/-- A write of an engine window that waits for a migration's switch or for the Spire to wake, and its requester (R63, R227,
R394). -/
structure HeldWrite where
  off   : Nat
  value : Word
  by_   : Obs := .other
deriving DecidableEq, Repr

/-- A group sum that a matrix instruction has added to an accumulator element, with the rounding of its addition. -/
structure MmaTerm where
  sum : FVal
  rm  : RMode
deriving DecidableEq, Repr

/-- What consecutive MMAs have added to an element since `start`: the order of all their steps stays open until another
instruction reads or writes the element (R107, R144). -/
structure MmaChain where
  start : FVal
  terms : List MmaTerm
deriving DecidableEq, Repr

/-- The context and registers of one logical engine (R44, R66). Field values are those after engine reset and cold
power-on. S0 and P0 are never stored: reads give 0 and all-true. -/
structure Engine where
  -- register files (R44)
  s       : Tab Word := []
  p       : Tab PReg := []
  v       : Tab VReg := []
  vp      : Tab (BitVec 256) := []      -- poison marks of V, one a byte (R100)
  a       : Tab (BitVec 32) := []       -- accumulators: key tile × 16384 + row × 128 + column
  ap      : NSet := []                  -- poisoned accumulator elements (R100)
  chain   : Tab (Option MmaChain) := [] -- accumulator elements whose latest additions may still change places (R107)
  tc      : Tab (BitVec 32) := []       -- tile counters (R50)
  ts      : Tab Byte := []              -- tile store (R45)
  tsPoison : NSet := []                 -- poisoned 64-byte rows (R47)
  tsLatent : Tab Nat := []              -- rows with an error not yet read: 1 correctable, 2 uncorrectable (R47)
  accLatent : Tab Nat := []             -- the same for accumulator check rows (R103)
  sr      : BitVec 128 := 0             -- stochastic-rounding generator (R135)
  fp      : Flags := 0                  -- ENG_FPFLAGS
  -- dispatch and queues (R37–R41)
  pc      : Nat := 0
  dsn     : Nat := 0
  hold    : Option Nat := none          -- DSN of the instruction that holds dispatch (R81, R85, R86)
  q0      : List Entry := []            -- scalar
  q1      : List Entry := []            -- sync instructions the dispatcher itself stands at (R81)
  q2      : List Entry := []            -- vector
  q3      : List Entry := []            -- matrix
  q4      : List Entry := []            -- transfer
  q5      : List Entry := []            -- near-memory
  -- caches and store buffer (R52, R53)
  icache  : Tab (List Byte) := []       -- lines held by the instruction cache, by virtual line
  sc      : Tab Nat := []               -- scalar cache lines: 1 clean, 2 dirty
  scMiss  : Option Nat := none          -- line whose miss is outstanding (R53)
  scHeld  : Bool := false               -- a second miss holds the scalar queue (R53)
  scDisable : Bool := false             -- ENG_SC_CTRL.DISABLE (R307)
  scDisabled : Bool := false            -- ENG_SC_CTRL.DISABLED
  scClean : Bool := false               -- the clean of a disable has started (R308)
  stores  : List Store := []
  near    : List Store := []            -- earlier stores that FENCE.LOC has performed at local scope alone (R85, R210)
  earlier : Option Earlier := none      -- what its loads may still return (R215)
  -- registers (R66)
  state   : EngState := .idle
  cause   : ParkCause := .none
  resumeMode : Nat := 0
  entry   : Nat := 0
  asn     : Nat := 0
  ownerEp : Nat := 0
  notifyEn : Bool := false
  excs    : List Exc := []              -- recorded exceptions, at most one a queue (R59)
  exc     : Option Exc := none          -- the one ENG_EXC reports while VALID
  lastExc : Exc := ⟨0, 0, 0, 0, 0, false⟩ -- ENG_EXC fields after VALID clears
  multi   : Bool := false
  ceCount : Nat := 0                    -- ENG_TS_ERR
  ueCount : Nat := 0
  lastErr : Nat := 0
  cupPoison : Bool := false             -- ENG_CUP_POISON.FLAG
  cupPoisonCount : Nat := 0
  cupPoisonVa : Word := 0
  launchSeq : Nat := 0                  -- last Cupola launch sequence number given (R181)
  -- slot accounting and counters (chapter 17)
  slots   : Tab Word := []              -- ENG_SLOT_k
  pmc     : Tab Word := []              -- ENG_PMC_k
  pmSel   : Tab Word := []              -- ENG_PMSEL_k
  pmOvf   : Word := 0
  pmNotify : Word := 0
  pmSampleAddr : Word := 0
  pmSampleInfo : Word := 0
  pmNotice : Bool := false               -- a counter notice is outstanding (R423)
  samplePend : Option Nat := none       -- counter whose sample waits for the next dispatch (R424)
  -- placement and migration (R62, R362)
  slot    : Option Nat := none          -- physical slot spire × 36 + i; none: the slot fused for it
  unplaced : Bool := false
  migrating : Option Nat := none        -- target slot of a migration in progress
  heldTc  : List (Nat × Nat × Nat) := []  -- counter updates held during a migration: kind, counter, value
  heldCtrl : List HeldWrite := []       -- window writes held during a migration (R63, R64)
  resetting : Bool := false             -- a reset waits for cars in flight (R61 step 3)
  quiet   : Bool := false               -- the parking sends no notice (R61 step 1)
  finishing : NSet := []                -- DSNs of the instructions under way when parking began (R58 step 2)
deriving DecidableEq, Repr

/-! ### Translations (chapter 09) and rings (R171) -/

/-- A translation held in a cache or slot: the page it covers and what a leaf entry gave (R242, R256, R258). -/
structure Xlat where
  asn    : Nat
  vbase  : Nat                 -- first virtual address covered
  size   : Nat                 -- bytes covered
  pbase  : Nat                 -- physical address of the first byte
  r : Bool := false
  w : Bool := false
  x : Bool := false
  u : Bool := false
  d : Bool := false
  global_ : Bool := false
  pbmt   : Nat := 0
  place  : Nat := 0
  layout : Nat := 0
deriving DecidableEq, Repr

/-- A ring of entries in memory with its registers (R171–R173, R201, R343, R348). -/
structure Ring where
  base     : Nat := 0
  log2n    : Nat := 4
  enable   : Bool := false
  resetting : Bool := false
  asn      : Nat := 0
  producer : Nat := 0          -- latest valid doorbell
  consumer : Nat := 0
  refused  : Nat := 0
  dbErr    : Bool := false
  fault    : Option Nat := none   -- fault the entry read waits for (R171)
  seqEnded : Nat := 0          -- sequence number of the latest ended
  seqLast  : Nat := 0          -- sequence number last given
deriving DecidableEq, Repr

/-! ### Shunters (chapter 06) -/

/-- Where an accepted descriptor stands (R160–R163). -/
inductive DescPhase where
  | running
  | pausing (cause : Nat)
  | paused (cause : Nat)
  | aborting (cause : Nat)
deriving DecidableEq, Repr

/-- A translation fault of a car that waits for the descriptor to pause (R159, R161 step 5). -/
structure PendFault where
  car    : Nat
  cause  : Nat
  va     : Nat
  access : Nat
  reason : Nat
  pte    : Nat
  level  : Nat
deriving DecidableEq, Repr

/-- An accepted descriptor in its slot (R146, R157–R163). Cars are numbered from 0; `counted` is the contiguous
completed prefix whose increments are applied. -/
structure Desc where
  seq      : Nat
  words    : List Word
  born     : Nat := 0            -- order of acceptance among all work (R382)
  phase    : DescPhase := .running
  segHi    : Nat := 0            -- first car after the translated segment
  issued   : Nat := 0            -- first car not yet issued
  inflight : NSet := []
  done     : NSet := []          -- complete, not yet counted
  redo     : NSet := []          -- uncounted cars that completed before a pause
  counted  : Nat := 0
  xlats    : List Xlat := []     -- the sixteen translation slots
  faultAt  : Option PendFault := none
  fault    : Option Nat := none  -- the Siding fault that the paused descriptor waits for
  resumed  : Bool := false
  rewritten : Bool := false
  poison   : Bool := false
  maps     : Tab Nat := []       -- occupancy maps of MBST tiles not yet counted, plus one; bit 256 marks poison
  sent     : Tab Nat := []       -- remote frames of a car not yet acknowledged (R170), by car
  landed   : Tab NSet := []      -- the choices by which elements of a car in flight landed early (R218), by car
  recFault : Option Nat := none  -- the record write waits for this fault (R159)
  ended    : Option (Nat × Nat) := none  -- final status and cause, waiting for the record write
deriving DecidableEq, Repr

/-- A shunter: a stream of descriptors in acceptance order (R146, R147). Engine shunter SH of engine e is stream
2e + SH, bulk shunter s of Concourse n is 512 + 16n + s (R339). -/
structure Stream where
  slots    : List Desc := []
  lastSeq  : Nat := 0            -- sequence number last given; the first given is 1
  endedSeq : Nat := 0            -- sequence number of the latest descriptor ended
  ring     : Ring := {}
  hold     : Nat := 0            -- bit 0 held for migration, bit 1 keeper hold
deriving DecidableEq, Repr

/-! ### Cupola (chapter 07) -/

/-- A page of a launch's range: its translation and the tiles it holds (R182, R187, R189). -/
structure DealtPage where
  x      : Xlat
  off    : Nat                   -- offset of the page's first byte in the range
  invalidated : Bool := false    -- an invalidation waits for its invocations (R189)
deriving DecidableEq, Repr

/-- A launch held by its coordinator (R179–R192). -/
structure Launch where
  cc       : Nat                 -- coordinator
  engine   : Option Nat          -- submitting engine, or none for a launch ring
  ring     : Nat := 0            -- launch ring 4·cc + r
  seq      : Nat
  words    : List Word
  dealtTo  : Nat := 0            -- offset of the first page not yet dealt
  pages    : List DealtPage := []
  waiting  : NSet := []          -- granule offsets dealt and not started
  running  : NSet := []          -- granule offsets whose invocation runs
  ended    : Nat := 0            -- invocations ended normally
  fetched  : Nat := 0            -- TILES_FETCHED
  paused   : Option Nat := none  -- CAUSE of a PAUSED record in force
  rangeFault : Option Nat := none -- fault that holds dealing
  faultUnit : Nat := 0xFFFFFFFF
  aborting : Option Nat := none  -- CAUSE
  poison   : Bool := false
  resumed  : Bool := false
  recFault : Option Nat := none  -- fault that holds a record write
  pauseRec : Option Nat := none  -- CAUSE of a PAUSED record that waits for its line (R249)
  held     : NSet := []          -- migration tiles held in HBM (R187)
  late     : NSet := []          -- tiles of them that were not resident when dealt
deriving DecidableEq, Repr

/-- The state of a running invocation on a Cupola unit (R183, R193). -/
structure Invoc where
  launch  : Nat                  -- key of the launch
  granule : Nat                  -- offset of the granule's covered part in the range
  kernel  : Nat
  pos     : Nat := 0             -- byte offset of the next instruction in the code
  fault   : Option Nat := none   -- held at a kernel-access fault (R188)
  faultW  : Bool := false        -- the faulting access writes (R197)
  waited  : Bool := false        -- it has waited for a tile (R187, R426)
  wants   : Option Nat := none   -- the tile that it waits for
  landed  : NSet := []           -- choices of written elements that have become visible early (R218)
  did     : NSet := []           -- other effects performed early, by number
deriving DecidableEq, Repr

/-- One Cupola unit, a channel of HBM's (R177). -/
structure CupUnit where
  s        : Tab Word := []
  p        : Tab PReg := []
  v        : Tab VReg := []      -- 1,024 bits used
  vp       : Tab (BitVec 256) := []
  scratch  : Tab Nat := []       -- bytes written since the invocation began, plus one
  scrFree  : Nat := 0            -- the model's own: number of the unspecified scratch contents (R183)
  scrPoison : NSet := []
  scrLatent : Tab Nat := []
  inv      : Option Invoc := none
  ceCount  : Nat := 0            -- CUP_SCR_ERR_u
  ueCount  : Nat := 0
  lastErr  : Nat := 0
  stores   : List Store := []
  held     : List Nat := []      -- launches of which it holds invocations, in the order of rotation (R186)
  taken    : Tab Nat := []       -- starts of each priority class in the present round (R169, R186)
  earlier  : Option Earlier := none  -- when part of its next loads may have been performed (R211, R232)
deriving DecidableEq, Repr

/-- A user kernel installed in a slot (R198–R200). -/
structure Kernel where
  owner : Nat := 0
  entry : Nat := 0
  code  : List Word := []
deriving DecidableEq, Repr

/-- An atomic accepted and not yet performed (R92, R204). -/
structure Atomic where
  src    : Nat                   -- 0 CUPA, 1 Mainline
  dsn    : Nat := 0
  engine : Nat := 0
  unit   : Nat := 0
  asn    : Nat := 0
  va     : Nat := 0
  aop    : Nat := 0
  size   : Nat := 0              -- bytes
  op     : Word := 0
  cmp    : Word := 0
  ret    : Bool := false
  local_ : Nat := 0
  tc     : Nat := 0
  discard : Bool := false        -- the engine was reset (R191)
  fault  : Option Nat := none
  atUnit : Bool := false         -- an atomic unit had accepted it when the keepers took their hold (R191)
  reply  : List Word := []       -- header of the remote request to answer
deriving DecidableEq, Repr

/-- An EXPECT request (R88). -/
structure Expect where
  engine  : Nat
  dsn     : Nat
  asn     : Nat
  base    : Nat
  len     : Nat
  tc      : Nat
  counted : Nat := 0             -- chunks settled and counted
  errPages : NSet := []          -- pages whose fault was answered with an error
  fault   : Option Nat := none
  faultVa : Nat := 0
  express : Bool := false
deriving DecidableEq, Repr

/-! ### Tiers, Turntables and Sidings (chapter 09) -/

/-- A frame of 64 KiB: in HBM, or on a slow-tier device (R238, R239). -/
inductive Frame where
  | hbm (n : Nat)
  | slow (n : Nat)
deriving DecidableEq, Repr

/-- What the Turntables keep for a migration tile (R239, R242–R252). -/
structure Tile where
  frame   : Option Frame := none     -- none: the frame given at cold power-on (R239)
  place   : Nat := 0                 -- PLACE of the latest delivery; 4 for PIN_NEAR beyond the pin limit (R245)
  layout  : Nat := 0
  dup     : Option Frame := none     -- frame of the duplicate
  dupReq  : Bool := false            -- DUP of the latest delivery
  count   : Nat := 0                 -- line accesses since the last move (R244)
  used    : Nat := 0                 -- useClock at the latest line access (R244)
  laid    : Nat := 0                 -- LAYOUT with which it entered HBM (R246)
  saved   : NSet := []               -- lines of a lost frame that another copy has given back (R253)
deriving DecidableEq, Repr

/-- A migration in progress: the tile is locked (R247). -/
structure Migration where
  tile    : Nat
  dest    : Frame
  victim  : Option (Nat × Frame) := none   -- a tile moved out to free the frame
  express : Bool := false
deriving DecidableEq, Repr

/-- TT_STATUS of one Concourse and its error log (R253, R268). -/
structure Turntable where
  recovered : Nat := 0
  poisoned  : Nat := 0
  dupShort  : Nat := 0
  pinOver   : Nat := 0
  errLog    : List Nat := []
deriving DecidableEq, Repr

/-- A fault as a Siding entry holds it (R262). -/
structure FaultEnt where
  id      : Nat
  reason  : Nat
  access  : Nat
  parked  : Bool := false
  noAnswer : Bool := false
  va      : Nat
  asn     : Nat
  kind    : Nat
  unit    : Nat := 0
  engine  : Nat := 0xFFFF
  reqSeq  : Nat := 0
  channel : Nat := 0xFFFFFFFF
  car     : Nat := 0
  pte     : Nat := 0
  level   : Nat := 0xFF
  seq     : Nat := 0
  born    : Nat := 0                   -- order of detection in the package (R382)
deriving DecidableEq, Repr

/-- A closed batch waiting for room (R263). -/
structure Batch where
  entries : List FaultEnt
  close   : Nat
deriving DecidableEq, Repr

/-- One Siding: the ring of one domain at one Concourse (R262–R265). -/
structure Siding where
  base     : Nat := 0
  log2n    : Nat := 7
  enable   : Bool := false
  notifyEn : Bool := false
  endpoint : Nat := 0
  consumer : Nat := 0
  producer : Nat := 0
  overflow : Nat := 0
  ansErr   : Bool := false
  nextId   : Nat := 0
  batchNo  : Nat := 0
  open_    : List FaultEnt := []
  closed   : Option Batch := none
  unanswered : NSet := []
  notice   : Bool := false        -- a notice is outstanding
  noticeDue : Bool := false       -- a notice is due once the outstanding one has been placed
deriving DecidableEq, Repr

/-- An invalidation command (R266). -/
structure InvCmd where
  scope : Nat
  asn   : Nat
  va    : Nat
deriving DecidableEq, Repr

/-- A Booking unit (R257–R266). -/
structure Booking where
  invVa  : Nat := 0
  cur    : Option InvCmd := none
  acks   : NSet := []                    -- Booking units that have acknowledged it
  held   : List InvCmd := []
  parked : List (Nat × FaultEnt) := []   -- the parked list: domain and fault, in order of arrival
  heldFaults : List (Nat × FaultEnt) := []   -- faults held at their requesters
deriving DecidableEq, Repr

/-! ### HBM (chapter 10) -/

/-- HBM_CH_STATUS.STATE (R289). -/
inductive ChanState where
  | down | training | active | retraining | selfRefresh | retired | failing
deriving DecidableEq, Repr

/-- One entry of a channel's correctable-error log (R285). -/
structure LogEntry where
  count  : Nat := 0
  valid  : Bool := false
  symbol : Nat := 0
  sector : Nat := 0
deriving DecidableEq, Repr

/-- A write-combining entry: the slot line it merges and which of its 64 bytes are written (R276). The bytes
themselves are part of memory for every observer and are held there. -/
structure WcbEntry where
  line : Nat                 -- slot × 32 + line in the granule
  mask : Nat                 -- bit i: byte i of the line
  latent : Nat := 0          -- an error of the entry not yet read: 1 correctable, 2 uncorrectable (R276, R286)
deriving DecidableEq, Repr

/-- A request waiting in a channel's queue while it is retrained or in self-refresh (R275, R278). -/
structure HbmReq where
  write  : Bool
  line   : Nat
  first  : Nat := 0
  bytes  : List Byte := []
  err    : Nat := 0          -- what the check finds, sector 0 plus 38 × sector 1: 0 none, 1 + symbol corrected, 37 uncorrectable
deriving DecidableEq, Repr

/-- The settings of a traffic-generator run (R290). -/
structure TgSet where
  pattern  : Nat := 0
  mode     : Nat := 2
  random   : Bool := false
  raw      : Bool := false
  passes   : Nat := 1
  first    : Nat := 0
  last     : Nat := 0
  seed     : Word := 0
deriving DecidableEq, Repr

/-- One HBM channel with its controller and traffic generator (R275–R290). -/
structure Chan where
  state    : ChanState := .down
  retrains : Nat := 0
  lanes    : Nat := 0
  queue    : List HbmReq := []
  waiting  : List HbmReq := []         -- requests whose requesters wait for a credit, in order (R275)
  failing  : Bool := false             -- marked failing (R279, R281)
  wcb      : List WcbEntry := []       -- least recently written first
  ce       : Nat := 0
  ue       : Nat := 0
  replaced : Nat := 0
  log      : Tab LogEntry := []
  ueSect   : NSet := []                -- distinct uncorrectable sectors since the last start (R279)
  reserve  : Tab Byte := []            -- bytes of slots outside the unified range, by channel byte address
  tg       : TgSet := {}               -- TG_CTRL, TG_RANGE, TG_SEED
  run      : Option TgSet := none      -- the run in progress, with the settings it started with
  mismatch : Nat := 0
  result   : Nat := 0
  sbRun    : Bool := false
  tgDone   : Bool := false
  failSym  : Nat := 0
  failSect : Nat := 0
  mustRetire : Bool := false           -- a condition of R279 has been met and not yet acted on
  scrubbed : Nat := 0                  -- sectors read by patrol scrub in this period (R287)
deriving DecidableEq, Repr

/-- HBM_STK_p of one stack (R288, R289). -/
structure StackSt where
  temp     : Nat := 0
  thermal  : Nat := 0
  retiredCh : Nat := 0xFF
  failingCh : Nat := 0xFF
  retireState : Nat := 0
  moveNext : Nat := 0
  heat     : Nat := 0        -- the temperature response that idle self-refresh hides (R288)
deriving DecidableEq, Repr

/-! ### Caches (chapter 11) -/

/-- A way change or disable of a Platform cache waiting or running (R303, R307, R308). -/
inductive PcOp where
  | ways (mask : Nat)
  | disable
deriving DecidableEq, Repr

/-- One Platform cache: which lines it holds (value: way × 2 + dirty + 1), and its registers (R309). -/
structure PlatCache where
  lines    : Tab Nat := []
  disable  : Bool := false
  disabled : Bool := false
  mask     : Nat := 0
  waysOff  : Nat := 0
  waysRetired : Nat := 0
  cur      : Option PcOp := none
  waiting  : List PcOp := []
  cleaned  : Nat := 0                  -- lines written back by the operation in progress
  lastClean : Nat := 0
  ce       : Nat := 0
  ueClean  : Nat := 0
  ueDirty  : Nat := 0
deriving DecidableEq, Repr

/-! ### Hosts, host links and Tickets (chapter 12) -/

/-- A Ticket held in a receive slot, with its receipt (R84, R328). -/
structure Ticket where
  sender  : Nat
  seq     : Nat
  payload : List Byte
deriving DecidableEq, Repr

/-- A Ticket whose sender waits for a credit or that is on its way (R328, R329). -/
structure TkSend where
  sender  : Nat
  asn     : Nat
  payload : List Byte
  auto    : Bool := true               -- leaves as soon as it has a credit; a TSEND's leaves when the TSEND executes
deriving DecidableEq, Repr

/-- A receiving endpoint (R328). -/
structure Endpoint where
  slots    : List Ticket := []         -- oldest first
  inflight : List TkSend := []         -- credited, not yet placed
  waiting  : List TkSend := []         -- in order of request
deriving DecidableEq, Repr

/-- A hart: its Ticket page, store buffer, reservation, cached lines and interrupt files (R213, R214, R292, R314, R330). -/
structure Hart where
  txData  : Tab Word := []
  txSeq   : Nat := 0
  txState : Nat := 0
  overrun : Bool := false
  nack    : Bool := false
  sendAsn : Nat := 0
  acceptAsn : Nat := 0
  msiEn   : Bool := false
  msiFile : Nat := 0
  msiId   : Nat := 0
  stores  : List Store := []
  lr      : Option Nat := none         -- reserved line
  cache   : Tab Nat := []              -- lines held in L1D and L2: 1 clean, 2 dirty
  l1d     : NSet := []                 -- those of them that the L1 data cache holds (R427)
  icache  : NSet := []                 -- lines of the L1 instruction cache (R292, R297)
  ahead   : Option Earlier := none     -- memory at its latest FENCE.I: what the core may have fetched since (R297)
  instr   : BitVec 128 := 0            -- what the latest fetch returned
  priv    : Nat := 3                   -- privilege mode: 0 U, 1 S, 3 M (R311)
  virt    : Bool := false              -- the virtualization mode V
  csr     : Tab Word := []             -- CSRs by number (R311)
  tlb     : List Xlat := []            -- translations that it caches, of the space ASID (R312)
  eip     : NSet := []                 -- IMSIC: pending interrupts, file × 256 + identity (R314)
  eie     : NSet := []                 -- enabled interrupts
  edeliv  : Tab Word := []             -- eidelivery by file
  ethresh : Tab Word := []             -- eithreshold by file
  excVal  : Nat := 0                   -- the address that the latest exception names
  exc     : Nat := 0                   -- cause of the latest exception the access raised
  reply   : BitVec 128 := 0            -- value the latest load, AMO or MMIO read returned
  earlier : Option Earlier := none     -- when part of its next load may have been performed (R211, R212)
  fencing : Bool := false              -- the fence after an MMIO write that is held has not completed (R227)
deriving DecidableEq, Repr

/-- A root port of a Campanile die (R316, R325): how its link trained, and the configuration registers that software has
written, by offset. -/
structure RootPort where
  lane  : Nat := 0                     -- its first lane
  width : Nat := 0                     -- lanes; 0 for a port that has not trained
  rate  : Nat := 0                     -- 1 for 2.5 GT/s up to 6 for 64 GT/s, which runs in flit mode
  cfg   : Tab Word := []
  intx  : Nat := 0                     -- legacy interrupt pins asserted
deriving DecidableEq, Repr

/-- One Campanile die (R313–R320). -/
structure HostDie where
  running   : Bool := false            -- cores released
  resetting : Bool := false            -- a host reset is in progress (R317)
  failed    : Bool := false            -- declared failed (R320)
  time      : Nat := 0                 -- mtime (R315)
  coreMap   : List Nat := []           -- logical core to physical core, where not the identity (R313)
  relief    : Option Nat := none       -- core running as relief controller
  resetHeld : Bool := false            -- a host reset waits for a Signal Box (R375)
  badCores  : NSet := []               -- physical cores retired by Inspection (R313)
  ports     : Tab RootPort := []       -- root ports (R325)
  iommu     : Tab Word := []           -- IOMMU registers by offset (R326)
  iotlb     : List (Nat × Xlat) := []  -- translations that the IOMMU caches, by device
  aplic     : Tab Nat := []            -- APLIC registers by offset (R314)
  dmaData   : List Byte := []          -- what the latest device read returned (R254)
  dmaPoison : Bool := false            -- it was marked poisoned
  dmaRefused : Bool := false           -- the latest device request was completed as Unsupported Request (R326)
deriving DecidableEq, Repr

/-- A host link, owned by its Concourse (R321–R324). -/
structure HostLink where
  state    : Nat := 0
  modules  : Nat := 0
  half     : Nat := 0
  retries  : Nat := 0
  lost     : Nat := 0
  xchgFails : Nat := 0
  trainFails : Nat := 0                -- consecutive failed retrains
  record   : Nat := 0xFF               -- working modules known at the Concourse, and in bits 15-8 those at x32
  far      : Nat := 0xFF               -- the same as known at the Campanile die
  disagree : Bool := false             -- the records differ after an interrupted retrain (R324)
  planPending : Bool := false
  sbHeld   : Bool := false             -- it is retrained by the Signal Box (R27, R324)
deriving DecidableEq, Repr

/-! ### Mainline and collectives (chapter 13) -/

/-- One Mainline port (R334, R336). -/
structure MlPort where
  state   : Nat := 0                   -- 0 down, 1 training, 2 up, 3 disabled
  speed   : Nat := 0
  disable : Bool := false
  retx    : Nat := 0
  fcsErr  : Nat := 0
deriving DecidableEq, Repr

/-- A frame as it leaves a port: the Ethernet addresses, the 802.1Q tag with VID in [11:0] and PCP in [15:13], the
Mainline frame and its CRC-32C (R336, R337). -/
structure WireFrame where
  port  : Nat
  dmac  : BitVec 48
  smac  : BitVec 48
  tag   : Option (BitVec 16) := none
  frame : Frame337
  crc   : BitVec 32
deriving DecidableEq, Repr

/-- A frame sent and not yet acknowledged, with its retransmissions (R338, R340). -/
structure Unacked where
  frame  : Frame337
  seq    : Nat := 0                    -- a write: its descriptor's sequence number and its car
  car    : Nat := 0
  port   : Nat := 0
  tries  : Nat := 0
  timeout : Nat := 20                  -- microseconds
deriving DecidableEq, Repr

/-- The path to and from one remote package (R338–R340). -/
structure Path where
  txPsn   : Nat := 0                   -- PSN of the next frame
  unacked : List Unacked := []
  guarded : List Unacked := []         -- GUARD writes held for earlier writes of their stream (R339)
  rxAck   : Nat := 0                   -- every PSN below it has been received
  rxSeen  : NSet := []                 -- PSNs received above it
  unreachable : Bool := false
  peerPorts : Nat := 0xFF              -- ports the latest probe response reported up
deriving DecidableEq, Repr

/-- A remote read or atomic in progress (R343, R344). -/
structure RemOp where
  tm     : Nat
  ring   : Nat
  seq    : Nat
  entry  : List Byte
  tag    : Nat
  landed : Nat := 0
  old    : Word := 0
  poison : Bool := false
  fault  : Option Nat := none          -- LOCAL's translation fault
  fetched : List (Nat × List Byte) := []   -- response data not yet landed, by offset
  born   : Nat := 0
  final  : Option (Nat × Nat) := none  -- status and cause; the record write may wait
  recFault : Option Nat := none
deriving DecidableEq, Repr

/-- A contribution received for a collective: sending rank, byte offset, data, poison, in order of arrival (R346). -/
structure Contrib where
  rank   : Nat
  off    : Nat
  data   : List Byte
  poison : Bool := false
deriving DecidableEq, Repr

/-- A collective in progress at this member (R345–R350). -/
structure Coll where
  tm      : Nat
  ring    : Nat
  seq     : Nat
  words   : List Word
  members : List Nat
  rank    : Nat
  contribs : List Contrib := []
  caution : Bool := false
  cautionRank : Nat := 0xFFFF
  cautionFrames : Nat := 0
  poison  : Bool := false
  sent    : NSet := []                 -- parts of the send buffer read and sent, by Machine.Chunk.key
  born    : Nat := 0
  fault   : Option Nat := none
  faultIsRecv : Bool := false
  final   : Option (Nat × Nat × Nat) := none   -- status, cause, FAULT_RANK; the record write may wait
  recFault : Option Nat := none
deriving DecidableEq, Repr

/-- Collective frames that arrived before this member's own descriptor, and parameters peers presented (R349). -/
structure Early where
  group   : Nat
  tag     : Nat
  frames  : List Frame337
deriving DecidableEq, Repr

/-! ### The tandem pair (R352–R360) -/

/-- A write logged for the partner, or received from it (R355). -/
structure TdWrite where
  tag   : Nat
  addr  : Nat                          -- offset in the packed region images
  bytes : List Byte
  poison : Bool := false
  seq   : Nat := 0
deriving DecidableEq, Repr

/-- A checkpoint of R86. -/
structure Ckpt where
  engine : Nat
  epoch  : Nat
  s      : Tab Word := []
  p      : Tab PReg := []
  v      : Tab VReg := []
  vp     : Tab (BitVec 256) := []
  tc     : Tab (BitVec 32) := []
  fp     : Flags := 0
  sr     : BitVec 128 := 0
  dsn    : Nat := 0
  pc     : Nat := 0
  tag    : Nat := 0
deriving DecidableEq, Repr

/-- The tandem port and its registers. A write in either Terminus block sets both, so they are held once. -/
structure Tandem where
  partner  : Nat := 0
  dead     : Nat := 0x0A
  resume   : Bool := false
  hostStation : Bool := false
  hostPart : Bool := false
  notifyEn : Bool := false
  enable   : Bool := false
  endpoint : Nat := 0
  discarded : Nat := 0
  inversions : Nat := 0
  viaMl    : Bool := false
  lanesUp  : Nat := 0                  -- bit h: half h is up
  state    : Nat := 0
  closed   : Nat := 0
  opened   : Nat := 1
  mirror   : Word := 0
  regions  : Tab Word := []
  parts    : Tab Word := []
  takeover : Nat := 0
  witness  : Word := 0
  mirrorIsMemory : Bool := false       -- the mirror area has become ordinary memory (R360 step 4)
  epochAhead : NSet := []              -- engines that have reached OPEN + 1
  log      : List TdWrite := []        -- writes handed to the link, not yet acknowledged
  logSeq   : Nat := 0
  sentSeq  : Nat := 0                  -- logged writes below it have been handed to the link
  lastTag  : Tab Nat := []             -- latest tag of a mirrored line (R357), plus one
  ckptsOut : List Ckpt := []           -- checkpoints of the open epoch not yet acknowledged
  ckptSent : NSet := []                -- engines whose checkpoint has been handed to the link
  ckptAcked : NSet := []
  stationCtr : List (Nat × Nat × Nat) := []   -- engine, counter, epoch: counters that advance at closure
  rx       : List TdWrite := []        -- the partner's writes of unclosed epochs
  rxLast   : Tab Nat := []             -- tag of the latest write received for an image line, plus one (R357)
  rxBad    : Tab Nat := []             -- image lines left unspecified by an inversion, with the later tag plus one (R357)
  rxWrites : Nat := 0                  -- writes received since the keys came into force
  rxCkpts  : List Ckpt := []           -- the partner's checkpoints of unclosed epochs
  ckpts    : List Ckpt := []           -- the partner's current checkpoints
  pEpoch   : Nat := 0                  -- the partner's last closed epoch
  copied   : Bool := false
  probes   : Nat := 0                  -- probes sent in this silence (R359)
  grants   : NSet := []                -- witnesses that granted this package's claim
  deadAfterGrant : Bool := false       -- DEAD has passed since the majority grant
  restored : List Nat := []            -- takeover engines loaded
  restoring : Option (List (Nat × Nat)) := none   -- a failover in progress: partner's engine and takeover engine still to load
  granted  : Tab Nat := []             -- as witness: pair key to winner plus one (R359)
  pFeature : Nat := 0                  -- partner's level, reported in the consist record
  tagFails : Nat := 0                  -- consecutive tag failures (R416)
  txFrames : Nat := 0
  rxFrames : Nat := 0
  keyed    : Bool := false             -- keys are in force
  rekey    : Bool := false             -- authentication is to be repeated (R416)
  out      : List TdFrame := []        -- frames handed to the link, latest first (DESIGN CHOICE: kept for observation)
  leaveSent : Bool := false
deriving DecidableEq, Repr

/-! ### Failure handling, Signal Boxes and keepers (chapter 14) -/

/-- SB_STATUS.ROLE (R378). -/
inductive SbRole where
  | standby | active | failed
deriving DecidableEq, Repr

/-- One Signal Box (R369–R374). -/
structure SigBox where
  role      : SbRole := .standby
  restarts  : Nat := 0                 -- PAIR_RESTARTS
  pairsOk   : Nat := 0xF
  recentAt  : Tab Nat := []            -- progress count at the latest mismatch of a pair, plus one
  progress  : Nat := 0                 -- its progress counter (R372)
deriving DecidableEq, Repr

/-- A Signal Box command taken and not yet performed (R378). -/
structure SbCmd where
  op     : Nat
  arg    : Nat
  addr   : Nat
  reply  : Nat
  keeper : Option Nat := none          -- forwarded by the keeper of this Concourse
  byTicket : Bool := false
deriving DecidableEq, Repr

/-- A physical engine slot, 36 × Spire + index (R62, R368, R382). -/
inductive SlotState where
  | serves | spare | underTest | retired | quarantined | notAnswering
deriving DecidableEq, Repr

/-- The keepers' state, KP_STATUS.STATE (R384). -/
inductive KeeperState where
  | watching | hold | relief | holdRefused
deriving DecidableEq, Repr

/-- What the Signal Boxes and keepers hold for the package (R369–R384). -/
structure Signal where
  sb0       : SigBox := {}
  sb1       : SigBox := {}
  takeovers : Nat := 0
  cmdResult : Nat := 0
  cmdLo     : Word := 0                -- SB_CMD_LO as last written
  cmds      : List SbCmd := []         -- commands in order of arrival
  inspHours : Nat := 0x18
  watchMs   : Nat := 0x0A
  inspEn    : Bool := true
  logHead   : Nat := 0                 -- latest committed logbook sequence number
  lbCe      : Tab Nat := []            -- LB_ERR by Concourse
  lbUe      : Tab Nat := []
  keeper    : KeeperState := .watching
  refusal   : Nat := 0
  refusalDies : Nat := 0
  wa        : Nat := 0                 -- workarounds in force, bit n for WA-0n
  failedDies : Nat := 0
  quarantined : Nat := 0               -- quarantined Spires, by site bit
  serviceDies : Nat := 0
  consistResult : Tab Nat := []        -- KP_STATUS.CONSIST_RESULT by Concourse
  keeperConsist : List (Nat × Nat) := []   -- CONSIST commands that keepers have in progress in a hold: Concourse, address
  reliefResult : Nat := 0
  reliefHart : Option Nat := none
  reliefStore : Option Nat := none     -- Campanile die whose relief store holds a verified image
  notifyEn  : Bool := false            -- KP_NOTIFY
  notifyEp  : Nat := 0
  reliefAsk : Option (Nat × Nat × Nat) := none   -- a designation in progress: Concourse, hart, image (R377)
  reliefs   : Nat := 0                 -- relief activations
  holds     : Nat := 0
  heldRunning : NSet := []             -- engines that were RUNNING when the hold began (R376)
  restarted : Nat := 0                 -- Signal Boxes the keepers have restarted in this hold, bit k
  slots     : Tab Nat := []            -- slot states: 0 as fused, else SlotState code plus one
  failing   : NSet := []               -- slots that failed a test and are retired once vacated (R368)
  swapped   : Tab Nat := []            -- engines swapped for Inspection: the slot vacated, plus one (R367)
  lost      : NSet := []               -- engines whose context was lost (R363)
  unplaced  : List Nat := []           -- unplaced engines, oldest first (R362)
  ctxStore  : Option Nat := none       -- where the context store lies: 0–11 a stack's reserve, 12 slow tier, 13 the engines' own slots
  cupSpare  : Tab Nat := []            -- Cupola die to the channel its spare serves, plus one (R364)
  moving    : Option Nat := none       -- channel whose unit is being switched
  unreachLast : Nat := 0               -- ML_UNREACH
  unreachCount : Nat := 0
deriving DecidableEq, Repr

/-! ### Power, start and pins (chapters 15 and 18) -/

/-- PKG_PWR.STATE and the supplies (R386, R392). -/
inductive PwrState where
  | off | standby | cold | running | enteringIdle | idle | enteringStandby | warmReset
deriving DecidableEq, Repr

/-- SP_PWR of one Spire (R393, R404). -/
structure SpirePwr where
  permit : Bool := false
  drowse : Bool := false
  mv     : Nat := 750
  powerCut : Nat := 0                  -- millivolts taken by the power response (R401)
  dieCut   : Nat := 0                  -- by its own temperature
  stackCut : Nat := 0                  -- by a stack of its Concourse (R288)
deriving DecidableEq, Repr

/-- A die's fused identity (R31, R32). -/
structure Ident where
  stepping : Nat := 0x0B00
  lacks    : Nat := 0                  -- features that its fuses leave out beyond those its stepping lacks (R32, R35)
  serial   : Nat := 0
  certPtr  : Word := 0
  seq      : Nat := 0
  state    : Nat := 1                  -- consist record: 1 in service, 2 quarantined, 3 failed, 4 not answering
deriving DecidableEq, Repr

/-- The package as a whole: power, start registers and output pins (R386–R404, R435). -/
structure Pkg where
  pwr       : PwrState := .cold
  idleRefused : Bool := false
  feature   : Nat := 0                 -- PKG_FEATURE.LEVEL
  warmCount : Nat := 0
  cause     : Nat := 0x01
  slowDone  : Bool := false
  slowReady : Bool := false
  powerW    : Nat := 0
  limitW    : Nat := 0x1130
  thermal   : Bool := false
  limited   : Bool := false
  pwrgd     : Bool := false
  stbyN     : Bool := true             -- pin level
  thermtripN : Bool := true
  resetPending : Option Nat := none    -- a warm reset's cause, until its restart
  resetHeld : Bool := false            -- RESET_N stays low and holds step 9 (R435)
  ringPref  : Tab Nat := []            -- RING_PREF.MODE by Concourse
  slowBytes : Nat := 0                 -- S of R237
  slowDevs  : List (Nat × Nat × Nat × Nat) := []   -- die, port, capacity in bytes, state
  dupPool   : Nat := 0                 -- D in bytes
  dupPoolGib : Nat := 0                -- TT_POLICY
  pinLimit  : Nat := 0x32
  promote   : Nat := 0x20
  ueRetire  : Nat := 8                 -- HBM_POLICY
  scrubHours : Nat := 0x18
  withdrawn : NSet := []               -- channels whose frames were withdrawn at the cold start (R281)
  clocks    : Nat := 0x1F              -- references present: MEM, ETH, PCIE0, PCIE1, TIMEREF
  startWait : Option Nat := none       -- a start held at step 4 by an absent reference, and its cause (R434)
  lossStandby : Bool := false          -- standby was entered by a loss of supply (R387)
  dieMv     : Tab Nat := []            -- millivolts by which heat has lowered the supply of dies other than Spires
deriving DecidableEq, Repr

/-! ### Identity, firmware and debug (chapter 16), JTAG (R436) -/

/-- What a root of trust found in a flash slot's manifest (R408–R410). -/
structure FwSlot where
  accepted : Bool := false
  known    : Bool := false             -- its contents come from a PROGRAM of this package (R411)
  svn      : Nat := 0
  digest   : Nat := 0
  badComps : Nat := 0                  -- bit c − 1: component c's digest fails
deriving DecidableEq, Repr

/-- The firmware state of one Terminus (R408–R411). -/
structure Firmware where
  slotA    : FwSlot := {}
  slotB    : FwSlot := {}
  svnFused : Nat := 0
  svnActive : Nat := 0
  failed   : Nat := 0
  fallback : Bool := false
  slot     : Nat := 0                  -- 0 none, 1 A, 2 B
  result   : Nat := 0
  busy     : Bool := false
  addr     : Nat := 0
  pending  : Option FwSlot := none     -- image being written (R411 steps 2–4)
deriving DecidableEq, Repr

/-- JTAG instructions (R436). -/
inductive JtagIr where
  | bypass | idcode | samplePreload | extest | clamp | highz
deriving DecidableEq, Repr

/-- SPDM responses (R413, R414), as the latest one sent. -/
inductive SpdmReply where
  | none
  | version
  | capabilities
  | algorithms
  | digests (slot0 slot1 : Bool)
  | certificate (slot : Nat)
  | challengeAuth (slot signer : Nat)
  | measurements (indices : List Nat) (signer : Nat)
  | error
deriving DecidableEq, Repr

/-- Debug lock, measurements, SPDM and JTAG (R412–R418, R436). The DBG registers of both Terminus blocks are one. -/
structure Security where
  nonce     : Nat := 0
  tokenAddr : Nat := 0
  result    : Nat := 0
  unlocked  : Nat := 0                 -- DBG_UNLOCKED
  scopes    : Tab Nat := []            -- scope unlocked by site
  meas      : Tab Nat := []            -- measurement blocks by index, plus one
  reply     : SpdmReply := .none
  ir        : JtagIr := .idcode
  dr        : Nat := 0                 -- what the data register shifts out
  pinsDriven : Nat := 0                -- 0 by the package, 1 boundary cells, 2 clamped, 3 high impedance
deriving DecidableEq, Repr

/-! ### Unit counters (R426) -/

/-- The counters of a Concourse (8), Cupola die (8) or Terminus (4). -/
structure UnitCtr where
  cnt    : Tab Word := []
  sel    : Tab Word := []
  ovf    : Word := 0
  notify : Word := 0
  notice : Bool := false
deriving DecidableEq, Repr

/-! ### The whole package -/

/-- The state of the NX4 package, with the queue of commands that wait. Registers that a write in one block sets in
several are held once. -/
structure State where
  pending : List Instr := []           -- commands waiting, first in first out
  nonce   : Nat := 0                   -- the model's own: uses of values the spec leaves open
  pkg     : Pkg := {}
  idents  : Tab Ident := []            -- by site index (R16, R31)
  links   : Tab LinkEnd := []          -- 64 × Concourse + bundle, the Terminus ends 256 higher
  hlinks  : Tab HostLink := []         -- by Concourse
  flits   : List FlitTxn := []         -- flits on the package network, oldest first
  flitKey : Nat := 0                   -- the model's own: key of the next flit
  outer   : Tab (Option OuterEdges) := []   -- by Concourse; none before a start has mapped the edges
  spires  : Tab SpirePwr := []         -- by Spire
  engines : Tab Engine := []           -- by global engine number
  streams : Tab Stream := []           -- shunters, by stream value (R339)
  units   : Tab CupUnit := []          -- Cupola units, by global channel number
  kernels : Tab Kernel := []           -- user kernel slots
  kAddr   : Tab Nat := []              -- CUP_KADDR by Concourse
  kResult : Tab Nat := []              -- CUP_KSTATUS.RESULT by Concourse
  kBad    : Tab Nat := []              -- CUP_KSTATUS.BAD_WORD
  kCmds   : List (Nat × Nat × Nat × Nat × Nat) := []  -- Concourse, op, kernel, owner, image address, in order of arrival
  clRings : Tab Ring := []             -- launch rings, 4 × Concourse + r
  launches : List (Nat × Launch) := []  -- held launches by key
  nextKey : Nat := 0
  faultNo : Nat := 0                   -- faults recorded, which orders them (R382)
  atomics : List (Nat × Atomic) := []
  expects : List (Nat × Expect) := []
  mem     : Tab Byte := []             -- the unified range, by physical address
  poison  : NSet := []                 -- poisoned 64-byte lines
  stale   : Tab (List Byte) := []      -- what the frame of a line holds where later writes are in caches alone (R231, R302)
  tiles   : Tab Tile := []
  useClock : Nat := 0                  -- the model's own: line accesses so far, for the least recently used tile (R244)
  migs    : List Migration := []
  recovering : NSet := []              -- lines found uncorrectable, being recovered (R253)
  tts     : Tab Turntable := []        -- by Concourse
  astBase : Nat := 0
  astCache : Tab Word := []            -- cached AST entries, Concourse × 2^20 + ASN
  tlb     : Tab (List Xlat) := []      -- translation caches: Booking units 0–3, Cupola dies 16–27, engines 64–319
  books   : Tab Booking := []          -- by Concourse
  sidings : Tab Siding := []           -- 4 × Concourse + domain
  chans   : Tab Chan := []             -- by global channel number
  stks  : Tab StackSt := []
  pcs     : Tab PlatCache := []        -- by Concourse
  harts   : Tab Hart := []
  hosts   : Tab HostDie := []          -- Campanile dies
  eps     : Tab Endpoint := []         -- by endpoint value
  pairs   : Tab Nat := []              -- last pair sequence number, sender × 2^32 + receiver (R328)
  mlId    : Word := 0
  ports   : Tab MlPort := []           -- ML0–ML7
  winBase : Nat := 0
  winCache : Tab (List Byte) := []     -- cached window entries, 256 × Terminus + index
  winInv  : Bool := false              -- ML_WIN.INV reads 1
  paths   : Tab Path := []             -- by remote package
  sent    : List WireFrame := []       -- frames handed to the ports, latest first (DESIGN CHOICE: kept for observation)
  roRings : Tab Ring := []             -- 8 × Terminus + r
  crRings : Tab Ring := []             -- 4 × Terminus + r
  remOps  : List RemOp := []
  grpBase : Nat := 0
  colls   : List Coll := []
  early   : List Early := []
  opTag   : Nat := 0
  td      : Tandem := {}
  sig     : Signal := {}
  fw      : Tab Firmware := []         -- by Terminus
  sec     : Security := {}
  ucs     : Tab UnitCtr := []          -- Concourses 0–3, Cupola dies 4–15, Termini 16–17
deriving DecidableEq, Repr

/-- The Cupola dies at stepping B1, which lacks no feature (R35); every other die is at B0 (log entry 9). -/
def Ident.asBuilt : Tab Ident := (List.range 12).map (fun m => (0x10 + m, { stepping := 0x0B01 }))

/-- The machine right after reset: every field at the value of its register description or defining rule, or, where
there is none, the value INVENTORY.md and the assumption log name. The command queue is empty. -/
def State.reset : State := { idents := Ident.asBuilt }

end Sys2Proof.Machine
end

