-- ==== Sys2Proof/Machine/Units.lean ====
section
/-! DEFINITION. Access to each unit's state, the package's topology, sequence numbers and fresh values. -/

namespace Sys2Proof.Machine

/-- The next state of a command. -/
abbrev Out := Host.Outcome State Fault Refusal

/-- A number no earlier open value used, and the state that has used it. -/
def State.fresh (s : State) : Nat × State := (s.nonce, { s with nonce := s.nonce + 1 })

/-- The state of logical engine `k`. -/
def State.eng (s : State) (k : Nat) : Engine := look {} s.engines k
/-- Puts the state of logical engine `k`. -/
def State.setEng (s : State) (k : Nat) (v : Engine) : State := { s with engines := put {} s.engines k v }
/-- Changes the state of logical engine `k`. -/
def State.modEng (s : State) (k : Nat) (f : Engine → Engine) : State := s.setEng k (f (s.eng k))

/-- The state of shunter `k`. -/
def State.stream (s : State) (k : Nat) : Stream := look {} s.streams k
/-- Puts the state of shunter `k`. -/
def State.setStream (s : State) (k : Nat) (v : Stream) : State := { s with streams := put {} s.streams k v }
/-- Changes the state of shunter `k`. -/
def State.modStream (s : State) (k : Nat) (f : Stream → Stream) : State := s.setStream k (f (s.stream k))

/-- The state of Cupola unit `k`. -/
def State.unit (s : State) (k : Nat) : CupUnit := look {} s.units k
/-- Puts the state of Cupola unit `k`. -/
def State.setUnit (s : State) (k : Nat) (v : CupUnit) : State := { s with units := put {} s.units k v }
/-- Changes the state of Cupola unit `k`. -/
def State.modUnit (s : State) (k : Nat) (f : CupUnit → CupUnit) : State := s.setUnit k (f (s.unit k))

/-- The state of HBM channel `k`. -/
def State.chan (s : State) (k : Nat) : Chan := look {} s.chans k
/-- Puts the state of HBM channel `k`. -/
def State.setChan (s : State) (k : Nat) (v : Chan) : State := { s with chans := put {} s.chans k v }
/-- Changes the state of HBM channel `k`. -/
def State.modChan (s : State) (k : Nat) (f : Chan → Chan) : State := s.setChan k (f (s.chan k))

/-- The state of stack `k`. -/
def State.stack (s : State) (k : Nat) : StackSt := look {} s.stks k
/-- Puts the state of stack `k`. -/
def State.setStack (s : State) (k : Nat) (v : StackSt) : State := { s with stks := put {} s.stks k v }
/-- Changes the state of stack `k`. -/
def State.modStack (s : State) (k : Nat) (f : StackSt → StackSt) : State := s.setStack k (f (s.stack k))

/-- The state of hart `k`. -/
def State.hart (s : State) (k : Nat) : Hart := look {} s.harts k
/-- Puts the state of hart `k`. -/
def State.setHart (s : State) (k : Nat) (v : Hart) : State := { s with harts := put {} s.harts k v }
/-- Changes the state of hart `k`. -/
def State.modHart (s : State) (k : Nat) (f : Hart → Hart) : State := s.setHart k (f (s.hart k))

/-- The state of Campanile die `k`. -/
def State.host (s : State) (k : Nat) : HostDie := look {} s.hosts k
/-- Puts the state of Campanile die `k`. -/
def State.setHost (s : State) (k : Nat) (v : HostDie) : State := { s with hosts := put {} s.hosts k v }
/-- Changes the state of Campanile die `k`. -/
def State.modHost (s : State) (k : Nat) (f : HostDie → HostDie) : State := s.setHost k (f (s.host k))

/-- The state of Ticket endpoint `k`. -/
def State.ep (s : State) (k : Nat) : Endpoint := look {} s.eps k
/-- Puts the state of Ticket endpoint `k`. -/
def State.setEp (s : State) (k : Nat) (v : Endpoint) : State := { s with eps := put {} s.eps k v }
/-- Changes the state of Ticket endpoint `k`. -/
def State.modEp (s : State) (k : Nat) (f : Endpoint → Endpoint) : State := s.setEp k (f (s.ep k))

/-- The state of the Platform cache of Concourse `k`. -/
def State.pc (s : State) (k : Nat) : PlatCache := look {} s.pcs k
/-- Puts the state of the Platform cache of Concourse `k`. -/
def State.setPc (s : State) (k : Nat) (v : PlatCache) : State := { s with pcs := put {} s.pcs k v }
/-- Changes the state of the Platform cache of Concourse `k`. -/
def State.modPc (s : State) (k : Nat) (f : PlatCache → PlatCache) : State := s.setPc k (f (s.pc k))

/-- The state of Mainline port `k`. -/
def State.port (s : State) (k : Nat) : MlPort := look {} s.ports k
/-- Puts the state of Mainline port `k`. -/
def State.setPort (s : State) (k : Nat) (v : MlPort) : State := { s with ports := put {} s.ports k v }
/-- Changes the state of Mainline port `k`. -/
def State.modPort (s : State) (k : Nat) (f : MlPort → MlPort) : State := s.setPort k (f (s.port k))

/-- The state of the path to package `k`. -/
def State.path (s : State) (k : Nat) : Path := look {} s.paths k
/-- Puts the state of the path to package `k`. -/
def State.setPath (s : State) (k : Nat) (v : Path) : State := { s with paths := put {} s.paths k v }
/-- Changes the state of the path to package `k`. -/
def State.modPath (s : State) (k : Nat) (f : Path → Path) : State := s.setPath k (f (s.path k))

/-- The state of bundle end `k`. -/
def State.link (s : State) (k : Nat) : LinkEnd := look {} s.links k
/-- Puts the state of bundle end `k`. -/
def State.setLink (s : State) (k : Nat) (v : LinkEnd) : State := { s with links := put {} s.links k v }
/-- Changes the state of bundle end `k`. -/
def State.modLink (s : State) (k : Nat) (f : LinkEnd → LinkEnd) : State := s.setLink k (f (s.link k))

/-- The state of the host link of Concourse `k`. -/
def State.hlink (s : State) (k : Nat) : HostLink := look {} s.hlinks k
/-- Puts the state of the host link of Concourse `k`. -/
def State.setHlink (s : State) (k : Nat) (v : HostLink) : State := { s with hlinks := put {} s.hlinks k v }
/-- Changes the state of the host link of Concourse `k`. -/
def State.modHlink (s : State) (k : Nat) (f : HostLink → HostLink) : State := s.setHlink k (f (s.hlink k))

/-- The state of Spire `k`. -/
def State.spire (s : State) (k : Nat) : SpirePwr := look {} s.spires k
/-- Puts the state of Spire `k`. -/
def State.setSpire (s : State) (k : Nat) (v : SpirePwr) : State := { s with spires := put {} s.spires k v }
/-- Changes the state of Spire `k`. -/
def State.modSpire (s : State) (k : Nat) (f : SpirePwr → SpirePwr) : State := s.setSpire k (f (s.spire k))

/-- The state of die site `k`. -/
def State.ident (s : State) (k : Nat) : Ident := look {} s.idents k
/-- Puts the state of die site `k`. -/
def State.setIdent (s : State) (k : Nat) (v : Ident) : State := { s with idents := put {} s.idents k v }
/-- Changes the state of die site `k`. -/
def State.modIdent (s : State) (k : Nat) (f : Ident → Ident) : State := s.setIdent k (f (s.ident k))

/-- The state of Terminus `k`. -/
def State.fwOf (s : State) (k : Nat) : Firmware := look {} s.fw k
/-- Puts the state of Terminus `k`. -/
def State.setFwOf (s : State) (k : Nat) (v : Firmware) : State := { s with fw := put {} s.fw k v }
/-- Changes the state of Terminus `k`. -/
def State.modFwOf (s : State) (k : Nat) (f : Firmware → Firmware) : State := s.setFwOf k (f (s.fwOf k))

/-- The state of unit counters `k`. -/
def State.uc (s : State) (k : Nat) : UnitCtr := look {} s.ucs k
/-- Puts the state of unit counters `k`. -/
def State.setUc (s : State) (k : Nat) (v : UnitCtr) : State := { s with ucs := put {} s.ucs k v }
/-- Changes the state of unit counters `k`. -/
def State.modUc (s : State) (k : Nat) (f : UnitCtr → UnitCtr) : State := s.setUc k (f (s.uc k))

/-- The state of launch ring `k`. -/
def State.clRing (s : State) (k : Nat) : Ring := look {} s.clRings k
/-- Puts the state of launch ring `k`. -/
def State.setClRing (s : State) (k : Nat) (v : Ring) : State := { s with clRings := put {} s.clRings k v }
/-- Changes the state of launch ring `k`. -/
def State.modClRing (s : State) (k : Nat) (f : Ring → Ring) : State := s.setClRing k (f (s.clRing k))

/-- The state of remote-operation ring `k`. -/
def State.roRing (s : State) (k : Nat) : Ring := look {} s.roRings k
/-- Puts the state of remote-operation ring `k`. -/
def State.setRoRing (s : State) (k : Nat) (v : Ring) : State := { s with roRings := put {} s.roRings k v }
/-- Changes the state of remote-operation ring `k`. -/
def State.modRoRing (s : State) (k : Nat) (f : Ring → Ring) : State := s.setRoRing k (f (s.roRing k))

/-- The state of collective ring `k`. -/
def State.crRing (s : State) (k : Nat) : Ring := look {} s.crRings k
/-- Puts the state of collective ring `k`. -/
def State.setCrRing (s : State) (k : Nat) (v : Ring) : State := { s with crRings := put {} s.crRings k v }
/-- Changes the state of collective ring `k`. -/
def State.modCrRing (s : State) (k : Nat) (f : Ring → Ring) : State := s.setCrRing k (f (s.crRing k))

/-- The state of user kernel slot `k`. -/
def State.kernel (s : State) (k : Nat) : Kernel := look {} s.kernels k
/-- Puts the state of user kernel slot `k`. -/
def State.setKernel (s : State) (k : Nat) (v : Kernel) : State := { s with kernels := put {} s.kernels k v }
/-- Changes the state of user kernel slot `k`. -/
def State.modKernel (s : State) (k : Nat) (f : Kernel → Kernel) : State := s.setKernel k (f (s.kernel k))

/-- The state of the Turntable of Concourse `k`. -/
def State.tt (s : State) (k : Nat) : Turntable := look {} s.tts k
/-- Puts the state of the Turntable of Concourse `k`. -/
def State.setTt (s : State) (k : Nat) (v : Turntable) : State := { s with tts := put {} s.tts k v }
/-- Changes the state of the Turntable of Concourse `k`. -/
def State.modTt (s : State) (k : Nat) (f : Turntable → Turntable) : State := s.setTt k (f (s.tt k))

/-- The state of the Booking unit of Concourse `k`. -/
def State.book (s : State) (k : Nat) : Booking := look {} s.books k
/-- Puts the state of the Booking unit of Concourse `k`. -/
def State.setBook (s : State) (k : Nat) (v : Booking) : State := { s with books := put {} s.books k v }
/-- Changes the state of the Booking unit of Concourse `k`. -/
def State.modBook (s : State) (k : Nat) (f : Booking → Booking) : State := s.setBook k (f (s.book k))

/-- The state of Siding `k`. -/
def State.siding (s : State) (k : Nat) : Siding := look {} s.sidings k
/-- Puts the state of Siding `k`. -/
def State.setSiding (s : State) (k : Nat) (v : Siding) : State := { s with sidings := put {} s.sidings k v }
/-- Changes the state of Siding `k`. -/
def State.modSiding (s : State) (k : Nat) (f : Siding → Siding) : State := s.setSiding k (f (s.siding k))

/-- The state of migration tile `k`. -/
def State.tile (s : State) (k : Nat) : Tile := look {} s.tiles k
/-- Puts the state of migration tile `k`. -/
def State.setTile (s : State) (k : Nat) (v : Tile) : State := { s with tiles := put {} s.tiles k v }
/-- Changes the state of migration tile `k`. -/
def State.modTile (s : State) (k : Nat) (f : Tile → Tile) : State := s.setTile k (f (s.tile k))

/-! ### Topology (R16) and sequence numbers (R31) -/

/-- The Spire of a logical engine, by its number. -/
def spireOf (e : Nat) : Nat := e / 32
/-- The Concourse of a logical engine. -/
def ccOfEngine (e : Nat) : Nat := e / 64
/-- The Cupola die of a unit or channel. -/
def dieOfUnit (u : Nat) : Nat := u / 32
/-- The Concourse of a Cupola unit or channel. -/
def ccOfUnit (u : Nat) : Nat := u / 96
/-- Site indices. -/
def siteCC (c : Nat) : Nat := c
def siteSP (p : Nat) : Nat := 0x08 + p
def siteCU (m : Nat) : Nat := 0x10 + m
def siteCP (d : Nat) : Nat := 0x20 + d
def siteTM (t : Nat) : Nat := 0x28 + t

/-- Whether a site of the NX4 has a die (R3, R16). -/
def sitePopulated (i : Nat) : Bool :=
  decide (i < 4) || (decide (0x08 ≤ i) && decide (i ≤ 0x1B)) || i == 0x20 || i == 0x21 || i == 0x28 || i == 0x29

/-- The features that a stepping of a site's die type lacks (R35). -/
def steppingLacks (site stepping : Nat) : Nat :=
  if site < 4 ∧ stepping = 0x0A01 then 2 ^ 8 + 2 ^ 13
  else if 0x08 ≤ site ∧ site < 0x10 ∧ stepping = 0x0A02 then 2 ^ 10
  else if 0x10 ≤ site ∧ site < 0x1C ∧ stepping = 0x0B00 then 2 ^ 4
  else if 0x28 ≤ site ∧ site < 0x2A ∧ stepping = 0x0A01 then 2 ^ 12
  else 0

/-- A die's FEATURE word (R32, R35). -/
def dieFeature (s : State) (site : Nat) : Nat :=
  Nat.xor 0x3FFF (0x3FFF &&& ((s.ident site).lacks ||| steppingLacks site (s.ident site).stepping))

/-- Advances a die's SEQ by one record and gives the new value (R31). -/
def bumpSeq (s : State) (site : Nat) : Nat × State :=
  let q := ((s.ident site).seq + 1) % 2 ^ 64
  (q, s.modIdent site (fun i => { i with seq := q }))

/-- The die that takes the Signal Box's decisions: that of the relief controller, or the Terminus of the active box. -/
def logSite (s : State) : Nat :=
  match s.sig.keeper, s.sig.reliefHart with
  | .relief, some h => siteCP (h / 64)
  | _, _ => siteTM (if s.sig.sb1.role == .active then 1 else 0)

/-- The active Signal Box commits a logbook entry, and the SEQ of the die that emits it advances (R31, R370). -/
def logbook (s : State) : State :=
  let s := { s with sig := { s.sig with logHead := s.sig.logHead + 1 } }
  (bumpSeq s (logSite s)).2

/-- Whether a feature bit of PKG_FEATURE is set (R32, R33). -/
def State.feat (s : State) (i : Nat) : Bool := s.pkg.feature.testBit i

/-- The physical slot that serves an engine (R62, R368): the one fused for it unless it has moved. -/
def physSlot (s : State) (e : Nat) : Nat := (s.eng e).slot.getD (spireOf e * 36 + e % 32)

/-- Whether the Spire that holds an engine is in drowse: what reaches the engine waits (R394). -/
def asleep (s : State) (e : Nat) : Bool := (s.spire (physSlot s e / 36)).drowse

end Sys2Proof.Machine
end

