-- ==== Sys2Proof/Machine/Tickets.lean ====
section
/-! DEFINITION. Endpoints and the sending and placing of Tickets (R327–R329, R332). -/

namespace Sys2Proof.Machine

def epKind (ep : Nat) : Nat := ep / 2 ^ 28 % 16
def epIdx (ep : Nat) : Nat := ep % 256
def epEngine (e : Nat) : Nat := 0x10000000 + e
def epHart (h : Nat) : Nat := 0x20000000 + h
def epCupola (m : Nat) : Nat := 0x30000000 + m
def epSb : Nat := 0x40000000
def epJunction (t : Nat) : Nat := 0x50000000 + t
def epDoorbell (cc : Nat) : Nat := 0x60000000 + cc

/-- Whether a value names an endpoint (R327). -/
def epExists (ep : Nat) : Bool :=
  decide (ep < 2 ^ 32) && ep / 256 % 2 ^ 20 == 0 &&
  (match epKind ep with
   | 1 => true
   | 2 => decide (epIdx ep < 128)
   | 3 => decide (epIdx ep < 12)
   | 4 => decide (epIdx ep < 3)
   | 5 => decide (epIdx ep < 2)
   | 6 => decide (epIdx ep < 4)
   | _ => false)

/-- The ring a doorbell payload names and its producer index, where the payload has the form of R172 and R343. -/
def doorbellOf (payload : List Byte) : Option (Nat × Nat) :=
  let other := (List.range 64).all (fun i =>
    i == 0 || (decide (8 ≤ i) && decide (i ≤ 11)) || payload.getD i 0 == 0)
  if other then some ((payload.getD 0 0).toNat, u32At payload 8) else none

/-- The ASN of the ring that a Ticket to a doorbell or Junction endpoint names; none where it is refused (R172, R343,
R348). -/
def ringAsn (s : State) (ep : Nat) (payload : List Byte) : Option Nat :=
  match doorbellOf payload with
  | none => none
  | some (r, _) =>
    if epKind ep = 6 then
      if r < 0x10 then some (s.stream (512 + 16 * epIdx ep + r)).ring.asn
      else if r < 0x14 then some (s.clRing (4 * epIdx ep + (r - 0x10))).asn
      else none
    else
      if r < 8 then some (s.roRing (8 * epIdx ep + r)).asn
      else if 0x10 ≤ r ∧ r < 0x14 then some (s.crRing (4 * epIdx ep + (r - 0x10))).asn
      else none

/-- Whether a receiver of filter `accept` takes a sender's Ticket (R329). -/
def asnMatch (accept asn : Nat) : Bool := accept == 0 || asn == 0 || accept == asn

/-- Whether an endpoint accepts a Ticket (R327, R329, R172, R343). -/
def epAccepts (s : State) (ep asn : Nat) (payload : List Byte) : Bool :=
  epExists ep &&
  (match epKind ep with
   | 1 => asnMatch (s.eng (epIdx ep)).asn asn
   | 2 => asnMatch (s.hart (epIdx ep)).acceptAsn asn
   | 4 => asn == 0
   | 5 | 6 => (match ringAsn s ep payload with | some a => asnMatch a asn | none => false)
   | _ => false)

/-- Whether an endpoint has a free credit. -/
def epFree (p : Endpoint) : Bool := decide (p.slots.length + p.inflight.length < 8)

/-- Whether a sender may send its next Ticket to this receiver: its previous one has been placed (R328). -/
def mayLeave (p : Endpoint) (sender : Nat) : Bool := !(p.inflight.any (fun t => t.sender == sender))

/-- The payload of a Ticket as it leaves: a batch notice carries PRODUCER at that moment (R263), a counter notice
the overflow bits (R423, R426). -/
def leavePayload (s : State) (t : TkSend) : List Byte :=
  if epKind t.sender = 6 then
    let d := (t.payload.getD 4 0).toNat
    if t.payload.getD 26 0 = 0x11 then leBytes 8 (s.uc (epIdx t.sender)).ovf.toNat ++ t.payload.drop 8
    else leBytes 4 (s.siding (4 * epIdx t.sender + d)).producer ++ t.payload.drop 4
  else if epKind t.sender = 3 then
    if t.payload.getD 26 0 = 0x11 then leBytes 8 (s.uc (4 + epIdx t.sender)).ovf.toNat ++ t.payload.drop 8 else t.payload
  else if epKind t.sender = 5 then
    if t.payload.getD 26 0 = 0x11 then leBytes 8 (s.uc (16 + epIdx t.sender)).ovf.toNat ++ t.payload.drop 8 else t.payload
  else if epKind t.sender = 1 ∧ t.payload.getD 26 0 = 0x10 then
    leBytes 8 (s.eng (epIdx t.sender)).pmOvf.toNat ++ t.payload.drop 8
  else t.payload

/-- Gives free credits to waiting senders, in order of request (R329). A waiting TSEND keeps its place: its credit is
taken when the instruction runs. -/
def grantLoop (s : State) (ep : Nat) : Nat → Endpoint → Endpoint
  | 0, p => p
  | n + 1, p =>
    if !epFree p then p
    else
      match p.waiting.find? (fun t => mayLeave p t.sender) with
      | none => p
      | some t =>
        if !t.auto then p
        else grantLoop s ep n { p with
          inflight := p.inflight ++ [{ t with payload := leavePayload s t }]
          waiting := p.waiting.erase t }

/-- Gives an endpoint's free credits out. -/
def grantCredits (s : State) (ep : Nat) : State := s.modEp ep (grantLoop s ep 8)

/-- Queues an accepted Ticket at its receiver; it leaves as soon as it has a credit. -/
def queueTicket (s : State) (sender asn ep : Nat) (payload : List Byte) : State :=
  grantCredits (s.modEp ep (fun p =>
    { p with waiting := p.waiting ++ [{ sender := sender, asn := asn, payload := payload }] })) ep

/-- Sends a Ticket that the device makes itself: nothing is sent to an endpoint that does not accept it. -/
def sendNotice (s : State) (sender asn ep : Nat) (payload : List Byte) : State :=
  if epAccepts s ep asn payload then queueTicket s sender asn ep payload else s

/-- The next pair sequence number of an ordered pair (R328). -/
def nextPair (s : State) (sender ep : Nat) : Nat × State :=
  let k := sender * 2 ^ 32 + ep
  let n := (look 0 s.pairs k + 1) % 2 ^ 32
  (n, { s with pairs := put 0 s.pairs k n })

/-- One MSI to a hart's interrupt file and identity; identity 0 sends nothing (R314, R332). -/
def sendMsi (s : State) (h file ident : Nat) : State :=
  if ident = 0 then s else s.modHart h (fun g => { g with eip := nIns (file * 256 + ident) g.eip })

/-- Takes the oldest Ticket on its way out of flight and numbers it; its sender learns that it is placed. -/
def arrive (s : State) (ep : Nat) : Option (Ticket × State) :=
  match (s.ep ep).inflight with
  | [] => none
  | t :: rest =>
    let p := nextPair s t.sender ep
    let s := p.2.modEp ep (fun q => { q with inflight := rest })
    let s := if epKind t.sender = 2 then
        s.modHart (epIdx t.sender) (fun g => if g.txState = 1 then { g with txState := 2, txSeq := p.1 } else g)
      else s
    some ({ sender := t.sender, seq := p.1, payload := t.payload }, s)

/-- Frees an endpoint's oldest held slot and grants its credit (R328, R329). -/
def freeSlot (s : State) (ep : Nat) : State :=
  grantCredits (s.modEp ep (fun p => { p with slots := p.slots.drop 1 })) ep

/-- Places an arrived Ticket in a slot; a hart endpoint sends its MSI (R328, R332). -/
def placeTicket (s : State) (ep : Nat) (t : Ticket) : State :=
  let s := s.modEp ep (fun p => { p with slots := p.slots ++ [t] })
  let s := if epKind ep = 2 then
      let g := s.hart (epIdx ep)
      if g.msiEn then sendMsi s (epIdx ep) g.msiFile g.msiId else s
    else s
  grantCredits s ep

end Sys2Proof.Machine
end

