-- ==== Sys2Proof/Machine/Counters.lean ====
section
/-! DEFINITION. Slot accounting, programmable engine counters with their notices and samples, and unit counters
(chapter 17, R419–R426). -/

namespace Sys2Proof.Machine

/-- An instruction as a sample records it: address, DSN and QUEUE code (R424). -/
structure Sampled where
  addr  : Nat
  dsn   : Nat
  queue : Nat
deriving DecidableEq, Repr

/-- The counter notice of an engine (R423). -/
def counterNotice (s : State) (e : Nat) : List Byte :=
  let g := s.eng e
  leBytes 8 g.pmOvf.toNat ++ leBytes 8 g.pmSampleAddr.toNat ++ leBytes 8 g.pmSampleInfo.toNat ++ leBytes 2 e ++ [0x10] ++
    leBytes 5 0 ++ leBytes 4 g.asn ++ leBytes 4 0 ++ leBytes 8 (s.ident (siteSP (spireOf e))).seq ++ leBytes 16 0

/-- Sends a counter notice when none is outstanding (R423). -/
def pmNotify (s : State) (e : Nat) : State :=
  let g := s.eng e
  if !(bit g.pmNotify 32) || g.pmNotice then s
  else
    let ep := fld g.pmNotify 31 0
    if epAccepts s ep g.asn (counterNotice s e) then
      (queueTicket (s.modEng e (fun g => { g with pmNotice := true })) (epEngine e) g.asn ep (counterNotice s e))
    else s

/-- Records a sample (R424). -/
def takeSample (g : Engine) (k : Nat) (q : Sampled) : Engine :=
  { g with
    pmSampleAddr := BitVec.ofNat 64 q.addr
    pmSampleInfo := pack [(32, 32, q.dsn), (24, 8, fld g.pmSampleInfo 31 24), (12, 4, q.queue), (8, 3, k), (0, 1, 1)] }

/-- A sample that finds one held or awaited counts as lost (R424). -/
def loseSample (g : Engine) : Engine :=
  { g with pmSampleInfo := pack [(32, 32, fld g.pmSampleInfo 63 32), (24, 8, satN 0xFF (fld g.pmSampleInfo 31 24 + 1)),
      (0, 24, fld g.pmSampleInfo 23 0)] }

/-- Counter `k` of an engine has wrapped (R422–R424); a sample is a trace record of the Spire (R31). `q` is the instruction of a queue's event; without it the next
instruction to dispatch is sampled. -/
def pmOverflow (s : State) (e k : Nat) (q : Option Sampled) : State :=
  let g := s.eng e
  let sel := look 0 g.pmSel k
  let was := bit g.pmOvf k
  let taken := bit sel 33 && !(bit g.pmSampleInfo 0 || g.samplePend.isSome) && q.isSome
  let s := if taken then (bumpSeq s (siteSP (spireOf e))).2 else s
  let g := { g with pmOvf := g.pmOvf ||| BitVec.ofNat 64 (2 ^ k) }
  let g := if !(bit sel 33) then g
    else if bit g.pmSampleInfo 0 || g.samplePend.isSome then loseSample g
    else match q with
      | some q => takeSample g k q
      | none => { g with samplePend := some k }
  let s := s.setEng e g
  if !was && bit sel 32 then pmNotify s e else s

/-- Whether the qualifier of an engine event has a meaning (R421). -/
def qualUsed (ev : Nat) : Bool := ev == 0x01 || ev == 0x05 || ev == 0x09 || ev == 0x0B || ev == 0x0C

/-- Adds `n` to one programmable counter. -/
def pmAdd (s : State) (e k n : Nat) (q : Option Sampled) : State :=
  let v := (look 0 (s.eng e).pmc k).toNat + n
  let s := s.modEng e (fun g => { g with pmc := put 0 g.pmc k (BitVec.ofNat 64 (v % 2 ^ 48)) })
  if 2 ^ 48 ≤ v then pmOverflow s e k q else s

/-- `n` occurrences of an engine event; `mask` holds the qualifier bits that it meets (R421). -/
def pmEvent (e ev mask n : Nat) (q : Option Sampled) (s : State) : State :=
  if n = 0 then s
  else iter 8 (fun k s =>
    let sel := look 0 (s.eng e).pmSel k
    if bit sel 31 && fld sel 7 0 == ev && (!qualUsed ev || (fld sel 23 16) &&& mask != 0) then pmAdd s e k n q else s) s

/-- Adds units to a fixed slot counter (R419, R422). -/
def slotAdd (s : State) (e k units : Nat) : State :=
  let v := (look 0 (s.eng e).slots k).toNat + units
  s.modEng e (fun g => { g with
    slots := put 0 g.slots k (BitVec.ofNat 64 (v % 2 ^ 64))
    pmOvf := if 2 ^ 64 ≤ v then g.pmOvf ||| BitVec.ofNat 64 (2 ^ (8 + k)) else g.pmOvf })

/-- One slot's units, retired and wasted (R419). -/
def slotDone (s : State) (e retired : Nat) : State := slotAdd (slotAdd s e 1 retired) e 2 (128 - retired)

/-- The slot's total, counted as it is offered. -/
def slotTotal (s : State) (e : Nat) : State := slotAdd s e 0 128

/-- A front-starved slot. -/
def slotFront (s : State) (e : Nat) : State := slotAdd (slotTotal s e) e 3 128

/-- A back-starved slot, with its cause and the queues of the held instruction (R419, R421). -/
def slotBack (s : State) (e cause queues : Nat) : State :=
  pmEvent e 0x0C queues 1 none (pmEvent e 0x0B (2 ^ cause) 1 none (slotAdd (slotTotal s e) e 4 128))

/-! ### Unit counters (R426) -/

/-- The endpoint from which a unit's counter notices leave. -/
def ucEndpoint (k : Nat) : Nat :=
  if k < 4 then epDoorbell k else if k < 16 then epCupola (k - 4) else epJunction (k - 16)

/-- The site index of a unit's die. -/
def ucSite (k : Nat) : Nat := if k < 4 then siteCC k else if k < 16 then siteCU (k - 4) else siteTM (k - 16)

/-- Sends a unit's counter notice when none is outstanding. -/
def ucNotify (s : State) (k : Nat) : State :=
  let u := s.uc k
  if !(bit u.notify 32) || u.notice then s
  else
    let pl := leBytes 8 u.ovf.toNat ++ leBytes 16 0 ++ leBytes 1 (ucSite k) ++ [0] ++ [0x11] ++ leBytes 37 0
    let ep := fld u.notify 31 0
    if epAccepts s ep 0 pl then queueTicket (s.modUc k (fun u => { u with notice := true })) (ucEndpoint k) 0 ep pl else s

/-- Adds `n` to one unit counter. -/
def ucAdd (s : State) (k i n : Nat) : State :=
  let u := s.uc k
  let v := (look 0 u.cnt i).toNat + n
  let past := decide (2 ^ 48 ≤ v)
  let was := bit u.ovf i
  let s := s.setUc k { u with
    cnt := put 0 u.cnt i (BitVec.ofNat 64 (v % 2 ^ 48))
    ovf := if past then u.ovf ||| BitVec.ofNat 64 (2 ^ i) else u.ovf }
  if past && !was && bit (look 0 u.sel i) 32 then ucNotify s k else s

/-- `n` occurrences of a unit's event, counted where `meets` accepts the counter's QUAL. -/
def ucEvent (k ev : Nat) (meets : Nat → Bool) (n : Nat) (s : State) : State :=
  if n = 0 then s
  else iter (if k < 16 then 8 else 4) (fun i s =>
    let sel := look 0 (s.uc k).sel i
    if bit sel 31 && fld sel 7 0 == ev && meets (fld sel 23 16) then ucAdd s k i n else s) s

/-- A Concourse event without a qualifier. -/
def ccEvent (cc ev n : Nat) (s : State) : State := ucEvent cc ev (fun _ => true) n s

/-- A Cupola die's event at one unit: QUAL names the unit, or every unit with bit 7. -/
def cuEvent (u ev n : Nat) (s : State) : State :=
  ucEvent (4 + dieOfUnit u) ev (fun q => q.testBit 7 || q % 32 == u % 32) n s

/-- A Terminus event. -/
def tmEvent (t ev n : Nat) (s : State) : State := ucEvent (16 + t) ev (fun _ => true) n s

/-- What the arrival of a notice clears: another may leave, and does where new bits were set since it left (R423). -/
def noticeArrived (s : State) (t : Ticket) : State :=
  let ep := t.sender
  if epKind ep = 1 ∧ t.payload.getD 26 0 = 0x10 then
    let e := epIdx ep
    let g := s.eng e
    let s := s.modEng e (fun g => { g with pmNotice := false })
    let fresh := g.pmOvf.toNat % 256 &&& Nat.xor (u32At t.payload 0) g.pmOvf.toNat
    let due := (List.range 8).any (fun k => fresh.testBit k && bit (look 0 g.pmSel k) 32)
    if due then pmNotify s e else s
  else if t.payload.getD 26 0 = 0x11 ∧ (epKind ep = 3 ∨ epKind ep = 5 ∨ epKind ep = 6) then
    let k := if epKind ep = 6 then epIdx ep else if epKind ep = 3 then 4 + epIdx ep else 16 + epIdx ep
    let u := s.uc k
    let s := s.modUc k (fun u => { u with notice := false })
    let fresh := u.ovf.toNat &&& Nat.xor (u32At t.payload 0) u.ovf.toNat
    let due := (List.range 8).any (fun i => fresh.testBit i && bit (look 0 u.sel i) 32)
    if due then ucNotify s k else s
  else s

end Sys2Proof.Machine
end

