-- ==== Sys2Proof/Machine/Ops.lean ====
section
/-! DEFINITION. The shared operations: the physical address map, memory with its poison, coherence and mirroring, and
store buffers. -/

namespace Sys2Proof.Machine

/-! ### The interleave (R272) -/

/-- The 7-bit fold of a slot number (R272). -/
def foldSlot (l : Nat) : Nat := Nat.xor (l % 128) (Nat.xor (l / 128 % 128) (l / 16384 % 128))

/-- The channel and slot of an HBM frame address (R272). -/
def interleave (f : Nat) : Nat × Nat :=
  let q := f / 2048
  let g := q % 3
  let r := q / 3
  let l := r / 128
  let k := Nat.xor (r % 128) (foldSlot l)
  (32 * (g + 3 * ((k + g) % 4)) + k / 4, l)

/-- The frame address of a channel's slot: the inverse of R272. -/
def unInterleave (ch l : Nat) : Nat :=
  let st := ch / 32
  let g := st % 3
  let k := 4 * (ch % 32) + (st / 3 + 4 - g % 4) % 4
  let r := 128 * l + Nat.xor k (foldSlot l)
  (3 * r + g) * 2048

/-! ### The physical address map (R237–R240) -/

/-- Frames of 64 KiB in the addressable slots (R272). -/
def rawFrames : Nat := 24379392

/-- The frames that hold a granule of a withdrawn channel (R281). -/
def withdrawnFrames (s : State) : List Nat :=
  (s.pkg.withdrawn.flatMap (fun ch => (List.range 2031616).map (fun l => unInterleave ch l / 65536))).eraseDups

/-- Addressable HBM in bytes (R237, R281). -/
def State.hBytes (s : State) : Nat :=
  if s.pkg.withdrawn.isEmpty then 1488 * 2 ^ 30 else (rawFrames - (withdrawnFrames s).length) * 65536

/-- The HBM frame in which tile `t` is placed at cold power-on (R239): the frame of its own number, or, where frames
are withdrawn, the t-th frame that remains. -/
def placedFrame (s : State) (t : Nat) : Nat :=
  if s.pkg.withdrawn.isEmpty then t
  else
    let out := withdrawnFrames s
    natAt ((List.range rawFrames).filter (fun f => !out.contains f)) t

/-- The tile placed in an HBM frame at cold power-on; none where the frame does not exist or is withdrawn. -/
def placedTile (s : State) (n : Nat) : Option Nat :=
  let t := if s.pkg.withdrawn.isEmpty then n else ((List.range rawFrames).filter (fun f => !(withdrawnFrames s).contains f)).idxOf n
  if t < s.hBytes / 65536 ∧ placedFrame s t = n then some t else none

/-- Bytes of the unified range (R237); before SLOW_READY the package runs with HBM alone (R389). -/
def State.uBytes (s : State) : Nat :=
  if s.pkg.slowReady then s.hBytes + s.pkg.slowBytes - s.pkg.dupPool - (if s.pkg.slowBytes = 0 then 0 else 4 * 2 ^ 30)
  else s.hBytes

/-- What a physical address names (R237). -/
inductive Region where
  | unified | mmio | ticket | diag | hole
deriving DecidableEq, Repr

def mmioBase : Nat := 0xF_0000_0000_0000
def ticketBase : Nat := 0xF_8000_0000_0000
def diagBase : Nat := 0xF_C000_0000_0000

/-- The physical address map (R237). -/
def region (s : State) (pa : Nat) : Region :=
  if pa < s.uBytes then .unified
  else if pa < mmioBase then .hole
  else if pa < ticketBase then .mmio
  else if pa < diagBase then .ticket
  else if pa < 2 ^ 52 then .diag
  else .hole

/-- The home Concourse of an address (R240): the exclusive or of its bit pairs from bit 16 to bit 51. -/
def home (pa : Nat) : Nat := (List.range 18).foldl (fun h i => Nat.xor h (pa / 2 ^ (16 + 2 * i) % 4)) 0

/-- Frames of 64 KiB in HBM. -/
def State.hFrames (s : State) : Nat := s.hBytes / 65536

/-- Where a tile lies (R239): as placed at cold power-on until it is moved. -/
def frameOf (s : State) (t : Nat) : Frame :=
  match (s.tile t).frame with
  | some f => f
  | none => if t < s.hFrames then .hbm (placedFrame s t) else .slow (t - s.hFrames)

/-- Whether a tile is resident in HBM. Until SLOW_READY every tile is treated so (R389). -/
def residentTile (s : State) (t : Nat) : Bool :=
  match frameOf s t with
  | .hbm _ => true
  | .slow _ => !s.pkg.slowReady

/-- The HBM frame address of a physical address in HBM. -/
def frameAddr (s : State) (pa : Nat) : Option Nat :=
  match frameOf s (pa / 65536) with
  | .hbm n => some (n * 65536 + pa % 65536)
  | .slow _ => none

/-! ### Where a granule lies (R272, R274, R364) -/

/-- The channels of a stack in ascending order, leaving one out (R274). -/
def otherChannels (stk c : Nat) : List Nat := ((List.range 32).map (fun i => 32 * stk + i)).filter (fun i => i != c)

/-- The channel and slot of a granule of the map of R272 after retirement (R274, R280). -/
def redirect (s : State) (ch l : Nat) : Nat × Nat :=
  let k := s.stack (ch / 32)
  let moved := (k.retireState == 2 || (k.retireState == 1 && decide (l < k.moveNext))) && k.retiredCh == ch % 32
  if moved then (natAt (otherChannels (ch / 32) ch) (l % 31), 2031616 + l / 31) else (ch, l)

/-- The pseudo-channel of line `j` of a granule in slot `l`: by the line in a tile laid out LINEAR, by the slot in a TILED one
(R246, R273). -/
def pseudoOf (layout l j : Nat) : Nat := if layout = 1 then l % 2 else j % 2

/-- The channel and slot that hold a physical address, where its tile is in HBM. -/
def slotOfPa (s : State) (pa : Nat) : Option (Nat × Nat) :=
  (frameAddr s pa).map (fun f => let p := interleave f; redirect s p.1 p.2)

/-- The Cupola unit that serves an address (R177, R204). -/
def unitOfPa (s : State) (pa : Nat) : Option Nat := (slotOfPa s pa).map Prod.fst

/-- The channel and pseudo-channel of a physical address, where its tile is in HBM (R273). -/
def pseudoChannel (s : State) (pa : Nat) : Option (Nat × Nat) :=
  (slotOfPa s pa).map (fun p => (p.1, pseudoOf (s.tile (pa / 65536)).laid p.2 (pa / 64 % 32)))

/-! ### Memory of the unified range -/

/-- Whether the mirror area holds an address: until a failover it reads zero and ignores writes (R354). -/
def inMirror (s : State) (a : Nat) : Bool :=
  let base := fld s.td.mirror 63 28 * 65536
  let size := fld s.td.mirror 27 0 * 65536
  !s.td.mirrorIsMemory && decide (base ≤ a) && decide (a < base + size)

/-- One byte of the unified range as memory holds it. -/
def memByte (s : State) (a : Nat) : Byte := if inMirror s a then 0 else look 0 s.mem a

/-- The bytes of a range. -/
def memRead (s : State) (a n : Nat) : List Byte := (List.range n).map (fun i => memByte s (a + i))

/-- The numbers of the 64-byte lines that a range touches. -/
def linesOf (a n : Nat) : List Nat :=
  if n = 0 then [] else (List.range ((a + n - 1) / 64 + 1 - a / 64)).map (fun i => a / 64 + i)

/-- Whether a range touches a poisoned line (R254). -/
def memPoisoned (s : State) (a n : Nat) : Bool := (linesOf a n).any (fun l => nHas l s.poison)

/-- The slow-tier device that holds a frame: the devices in the order found (R241). -/
def deviceOf (devs : List (Nat × Nat × Nat × Nat)) (n : Nat) : Nat :=
  (devs.foldl (fun (a : Nat × Nat × Bool) d =>
    let k := d.2.2.1 / 65536
    if a.2.2 then a else if n < a.1 + k then (a.1, a.2.1, true) else (a.1 + k, a.2.1 + 1, false)) (0, 0, false)).2.1

/-- Whether a slow-tier frame lies on a device that has stopped answering (R241). -/
def slowLost (s : State) (n : Nat) : Bool :=
  match s.pkg.slowDevs[deviceOf s.pkg.slowDevs n]? with
  | some d => d.2.2.2 == 2
  | none => false

/-- Whether a line lies in a frame of such a device and has neither been recovered nor poisoned (R241, R253). -/
def lineLost (s : State) (l : Nat) : Bool :=
  match frameOf s (l / 1024) with
  | .slow n => slowLost s n && !nHas l s.poison && !nHas l (s.tile (l / 1024)).saved
  | .hbm _ => false

/-- Whether requests wait in a channel's queue: it is being retrained or is in self-refresh. -/
def Chan.rests (c : Chan) : Bool := c.state == .retraining || c.state == .selfRefresh

/-- Whether a line must be fetched from a channel that is being retrained (R278) or lies on a stack in self-refresh by
temperature or idle (R288, R396). -/
def lineAsleep (s : State) (l : Nat) : Bool :=
  (s.stks.any (fun p => decide (3 ≤ p.2.thermal)) || s.chans.any (fun p => p.2.rests)) &&
    look 0 (s.pc (home (l * 64))).lines l == 0 &&
    (match slotOfPa s (l * 64) with
    | some p => decide (3 ≤ (s.stack (p.1 / 32)).thermal) || (s.chan p.1).rests
    | none => false)

/-! ### The way to a Campanile die (R322–R324) -/

/-- The host link that carries traffic between a die and a Concourse: the Concourse's own, or that of the Concourse's ring
neighbour on the die's side (R16, R19). -/
def hostLink (d cc : Nat) : Nat := if cc / 2 = d then cc else 3 - cc

/-- Whether a host link carries traffic. -/
def HostLink.serves (l : HostLink) : Bool := l.state == 2 || l.state == 4

/-- Whether traffic between a die and a Concourse is held: its link retrains, or the link that stands in for a lost or
resting one carries nothing either (R322–R324). -/
def hostHeld (s : State) (d cc : Nat) : Bool :=
  let k := hostLink d cc
  let l := s.hlink k
  !l.serves && ((l.state == 3 && !l.sbHeld) || !(s.hlink (Nat.xor k 1)).serves)

/-- Whether nothing passes between a die and the package: both of its links carry nothing (R323). -/
def hostCut (s : State) (d : Nat) : Bool := !(s.hlink (2 * d)).serves && !(s.hlink (2 * d + 1)).serves

/-- Whether a line must be fetched from a slow-tier device to whose die the home's traffic is held (R322). -/
def slowHeld (s : State) (l : Nat) : Bool :=
  match frameOf s (l / 1024) with
  | .slow n =>
    (match s.pkg.slowDevs[deviceOf s.pkg.slowDevs n]? with
     | some d => hostHeld s d.1 (home (l * 64)) && look 0 (s.pc (home (l * 64))).lines l == 0
     | none => false)
  | .hbm _ => false

/-- Whether an access must wait at the home: its tile is moving (R247), a line of it is being recovered (R253), its
device has been lost (R241) or lies behind a held link (R322), or its channel or stack serves nothing for now (R278, R288). -/
def memWaits (s : State) (a n : Nat) : Bool :=
  (linesOf a n).any (fun l =>
    s.migs.any (fun m => m.tile == l / 1024 || (m.victim.map Prod.fst) == some (l / 1024)) || lineLost s l ||
      lineAsleep s l || slowHeld s l || s.recovering.any (fun r => r / 1024 == l / 1024))

/-- Changes the value at every listed key of a table, keeping its canonical form. -/
def tabMapD [DecidableEq α] (d : α) (t : Tab α) (f : Nat → α → α) : Tab α :=
  t.foldl (fun a p => put d a p.1 (f p.1 (look d t p.1))) t

/-- A hart's copies of a line leave its caches. -/
def Hart.drop (l : Nat) (g : Hart) : Hart :=
  { g with cache := tabDel l g.cache, l1d := nDel l g.l1d, icache := nDel l g.icache }

/-- Drops every other observer's cached copy of a line, with the writer's own instruction copy, and every other hart's
reservation on it (R214, R295, R297). -/
def recallOthers (s : State) (o : Obs) (l : Nat) : State :=
  { s with
    engines := tabMapD {} s.engines (fun e g => if o = .engine e then g else { g with sc := tabDel l g.sc })
    harts := tabMapD {} s.harts (fun h g =>
      if o = .hart h then { g with icache := nDel l g.icache }
      else { g.drop l with lr := if g.lr = some l then none else g.lr }) }

/-- The ways in which a Platform cache may allocate (R303, R305). -/
def waysOpen (c : PlatCache) : List Nat :=
  (List.range 16).filter (fun w => !(c.mask.testBit w) && !(c.waysOff.testBit w) && !(c.waysRetired.testBit w))

/-- The line that makes room for another in a cache of `cap` lines: one of those listed, or none while there is room.
How lines are assigned to sets and which leaves one is undocumented, so the choice is free (R292, R294). -/
def makeRoom (n cap : Nat) (lines : List (Nat × Nat)) : Option (Nat × Nat) :=
  lines[Config.orderPick n lines.length % (if cap ≤ lines.length then lines.length else lines.length + 1)]?

/-- A line is allocated in a way of a Platform cache, dirty after a write. A line that leaves it for want of room is
written to its frame if it is dirty (R292, R293). -/
def pcAllocate (s : State) (cc l : Nat) (write : Bool) : State :=
  let ws := waysOpen (s.pc cc)
  if (s.pc cc).disabled || ws.isEmpty then s
  else
    let p := s.fresh
    let w := natAt ws (Config.orderPick p.1 ws.length % ws.length)
    let q := p.2.fresh
    let out := makeRoom q.1 393216 ((s.pc cc).lines.filter (fun x => (x.2 - 1) / 2 == w))
    let s := match out with
      | none => q.2
      | some x => (ccEvent cc 0x03 (if x.2 % 2 = 0 then 1 else 0) q.2).modPc cc (fun c => { c with lines := tabDel x.1 c.lines })
    s.modPc cc (fun c => { c with lines := tabIns l (2 * w + (if write then 2 else 1)) c.lines })

/-- A line reaches its home: it is counted, its tile is the one used last (R244), and it is allocated in the Platform cache, dirty after a write (R293). In
a way that is being powered down nothing is allocated, and a line written there goes to its frame (R303 step 2). -/
def homeTouch (s : State) (l : Nat) (write : Bool) : State :=
  let s := { s with useClock := s.useClock + 1 }
  let s := s.modTile (l / 1024) (fun t => { t with count := t.count + 1, used := s.useClock })
  let cc := home (l * 64)
  match look 0 (s.pc cc).lines l with
  | 0 => pcAllocate (ccEvent cc 0x02 1 s) cc l write
  | v =>
    (ccEvent cc 0x01 1 s).modPc cc (fun c =>
      if c.disabled || !write then c
      else if c.mask.testBit ((v - 1) / 2) then { c with lines := tabDel l c.lines, cleaned := c.cleaned + 1 }
      else { c with lines := tabIns l (2 * ((v - 1) / 2) + 2) c.lines })

/-- A line leaves one cache: written back to its home if it is dirty. -/
def writeBack (s : State) (x : Nat × Nat) : State := if x.2 = 2 then homeTouch s x.1 true else s

/-- Makes room in an engine's scalar cache of 1,024 lines (R53, R292). -/
def scRoom (s : State) (e : Nat) : State :=
  let p := s.fresh
  match makeRoom p.1 1024 (p.2.eng e).sc with
  | none => p.2
  | some x => (writeBack p.2 x).modEng e (fun g => { g with sc := tabDel x.1 g.sc })

/-- Makes room in a core's L1 data and L2 caches, which hold at most 33,792 lines between them (R292). -/
def hartRoom (s : State) (h : Nat) : State :=
  let p := s.fresh
  match makeRoom p.1 33792 (p.2.hart h).cache with
  | none => p.2
  | some x => (writeBack p.2 x).modHart h (fun g => { g with cache := tabDel x.1 g.cache, l1d := nDel x.1 g.l1d })

/-- A line enters one of a core's L1 caches of 1,024 lines (R292). -/
def l1Enter (n l : Nat) (t : NSet) : NSet :=
  match makeRoom n 1024 (t.map (fun x => (x, 1))) with
  | none => nIns l t
  | some x => nIns l (nDel x.1 t)

/-- The lines that a Concourse's directory records, each with 2 where a cache holds it dirty (R294). -/
def directory (s : State) (cc : Nat) : Tab Nat :=
  let add (t : Tab Nat) (x : Nat × Nat) : Tab Nat := if home (x.1 * 64) = cc then tabIns x.1 (max x.2 (look 0 t x.1)) t else t
  s.harts.foldl (fun t h => (h.2.icache.map (fun l => (l, 1))).foldl add (h.2.cache.foldl add t))
    (s.engines.foldl (fun t g => g.2.sc.foldl add t) [])

/-- A line leaves every engine and hart cache. -/
def dropCopies (s : State) (l : Nat) : State :=
  { s with
    engines := tabMapD {} s.engines (fun _ g => { g with sc := tabDel l g.sc })
    harts := tabMapD {} s.harts (fun _ g => g.drop l) }

/-- The home records a new line in its directory. Where the line's set is full it first recalls a line from every cache
that holds it (R294). -/
def directoryRecall (s : State) (l : Nat) : State :=
  let p := s.fresh
  match makeRoom p.1 1572864 ((directory p.2 (home (l * 64))).filter (fun x => x.1 != l)) with
  | none => p.2
  | some x =>
    dropCopies (writeBack p.2 x) x.1

/-- Whether the tandem pair is ACTIVE (TD_STATUS.STATE 0x04). -/
def tdActive (s : State) : Bool := s.td.state == 4

/-- Whether an engine takes part in the pair (TD_PART). -/
def tdPart (s : State) (e : Nat) : Bool := (look 0 s.td.parts (e / 64)).getLsbD (e % 64)

/-- The epoch tag of a write (R355). -/
def tdTag (s : State) (o : Obs) : Nat :=
  match o with
  | .engine e | .submit e => if tdPart s e && nHas e s.td.epochAhead then (s.td.opened + 1) % 2 ^ 32 else s.td.opened
  | _ => s.td.opened

/-- Where a mirrored address lies in the packed images of this package's regions (R354). -/
def tdOffset (s : State) (a : Nat) : Option Nat :=
  (s.td.regions.foldl (fun (acc : Nat × Option Nat) p =>
    let base := fld p.2 63 28 * 65536
    let size := fld p.2 27 0 * 65536
    (acc.1 + size, if acc.2.isNone && decide (base ≤ a) && decide (a < base + size) then some (acc.1 + (a - base)) else acc.2))
    (0, none)).2

/-- Whether writes are logged: while the regions are copied, in ACTIVE, and while a claim runs. SUSPENDED stops it
(R353, R359). -/
def tdLogs (s : State) : Bool := s.td.state == 3 || s.td.state == 4 || s.td.state == 9

/-- Logs a write to a mirrored region at its home and counts an inversion (R355, R357). -/
def tdLog (s : State) (o : Obs) (a : Nat) (bytes : List Byte) (poison : Bool) : State :=
  if !tdLogs s then s
  else match tdOffset s a with
    | none => s
    | some off =>
      let tag := tdTag s o
      let l := a / 64
      let inv := decide (tag + 1 < look 0 s.td.lastTag l)
      { s with td := { s.td with
          log := s.td.log ++ [{ tag := tag, addr := off, bytes := bytes, poison := poison, seq := s.td.logSeq }]
          logSeq := s.td.logSeq + 1
          inversions := if inv then satN 0xFFFF (s.td.inversions + 1) else s.td.inversions
          lastTag := tabIns l (tag + 1) s.td.lastTag } }

/-- Puts bytes into memory at `a`, with nothing else. -/
def memPut (m : Tab Byte) (a : Nat) : List Byte → Tab Byte
  | [] => m
  | b :: t => memPut (put 0 m a b) (a + 1) t

/-- Whether the writer's own cache holds a line dirty, so that its write does not reach the home (R293, R295). -/
def holdsDirty (s : State) (o : Obs) (l : Nat) : Bool :=
  match o with
  | .engine e => look 0 (s.eng e).sc l == 2
  | .hart h => look 0 (s.hart h).cache l == 2
  | _ => false

/-- Poisons a line in every copy and logs it at its home (R253 step 4, R298, R320). One already poisoned is logged again and
not counted. -/
def poisonLine (s : State) (l : Nat) : State :=
  let n := if nHas l s.poison then 0 else 1
  let s := (bumpSeq s (siteCC (home (l * 64)))).2
  { s with poison := nIns l s.poison }.modTt (home (l * 64)) (fun t =>
    { t with poisoned := satN 0xFFFF (t.poisoned + n), errLog := t.errLog ++ [l * 64] })

/-! ### Below the homes: channels and their write-combining buffers (R274–R276) -/

/-- The tile that lies in an HBM frame. -/
def tileOfFrame (s : State) (n : Nat) : Option Nat :=
  match s.tiles.find? (fun p => p.2.frame == some (.hbm n)) with
  | some p => some p.1
  | none =>
    (placedTile s n).filter (fun t => (s.tile t).frame.isNone)

/-- The channel and slot of the map of R272 whose granule a slot holds after retirement (R274). -/
def granuleOf (s : State) (ch slot : Nat) : Option (Nat × Nat) :=
  if slot < 2031616 then (if redirect s ch slot = (ch, slot) then some (ch, slot) else none)
  else
    let c := 32 * (ch / 32) + (s.stack (ch / 32)).retiredCh
    let l := (slot - 2031616) * 31 + (otherChannels (ch / 32) c).idxOf ch
    if (s.stack (ch / 32)).retiredCh < 32 ∧ redirect s c l = (ch, slot) then some (c, l) else none

/-- The number of the unified range's 64-byte line that a line of a slot holds. -/
def paLine (s : State) (ch slot j : Nat) : Option Nat :=
  (granuleOf s ch slot).bind (fun q =>
    let f := unInterleave q.1 q.2
    (tileOfFrame s (f / 65536)).map (fun t => (t * 65536 + f % 65536) / 64 + j))

/-- The Concourse of a channel, and whether a counter's qualifier names its stack. -/
def hbmEvent (s : State) (ch ev : Nat) : State :=
  ucEvent (ch / 96) ev (fun q => q.testBit (ch / 32 % 3)) 1 s

/-- The bits of a mask of 64 that a write of `n` bytes at `first` covers. -/
def byteMask (first n : Nat) : Nat := (2 ^ n - 1) * 2 ^ first % 2 ^ 64

/-- Whether a mask covers one of the two sectors only in part. -/
def partSector (m : Nat) : Bool :=
  [0, 1].any (fun h => let k := m / 2 ^ (32 * h) % 2 ^ 32; k != 0 && k != 2 ^ 32 - 1)

/-- An entry is read: an error of it is corrected and counted, or counted with its line poisoned (R286). -/
def senseEntry (s : State) (ch : Nat) (w : WcbEntry) : State :=
  match w.latent with
  | 0 => s
  | 1 => s.modChan ch (fun c => { c with ce := satN 0xFFFF (c.ce + 1) })
  | _ =>
    let s := s.modChan ch (fun c => { c with ue := satN 0xFFFF (c.ue + 1) })
    match paLine s ch (w.line / 32) (w.line % 32) with
    | some l => poisonLine s l
    | none => s

/-- An entry is written to DRAM: a read-merge-write where it covers a sector in part (R276). -/
def evict (s : State) (ch : Nat) (w : WcbEntry) : State :=
  let s := senseEntry s ch w
  if partSector w.mask then hbmEvent s ch 0x06 else s

/-- The entries that `f` picks are written to DRAM and leave the buffer. -/
def evictIf (s : State) (ch : Nat) (f : WcbEntry → Bool) : State :=
  let s := forAll ((s.chan ch).wcb.filter f) (fun w s => evict s ch w) s
  s.modChan ch (fun c => { c with wcb := c.wcb.filter (fun w => !f w) })

/-- The whole buffer drains. -/
def drainWcb (s : State) (ch : Nat) : State := evictIf s ch (fun _ => true)

/-- A partial write enters the buffer: it merges into its line's entry, or takes a free one after the least recently
written has been evicted. A complete entry is written at once. -/
def wcbWrite (s : State) (ch line m : Nat) : State :=
  let old := (s.chan ch).wcb.find? (fun w => w.line == line)
  let mask := (match old with
    | some w => w.mask
    | none => 0) ||| m
  let s := s.modChan ch (fun c => { c with wcb := c.wcb.filter (fun w => w.line != line) })
  if mask = 2 ^ 64 - 1 then (match old with
    | some w => senseEntry s ch w
    | none => s)
  else
    let s :=
      match (s.chan ch).wcb with
      | w :: _ => if 64 ≤ (s.chan ch).wcb.length then evictIf s ch (fun x => x.line == w.line) else s
      | [] => s
    s.modChan ch (fun c => { c with wcb := c.wcb ++ [{ line := line, mask := mask, latent := (old.map WcbEntry.latent).getD 0 }] })

/-- A write that no cache keeps reaches its channel: a whole line discards the line's entry, and less enters the buffer
(R276). -/
def frameWrite (s : State) (l first n : Nat) : State :=
  if look 0 (s.pc (home (l * 64))).lines l != 0 then s
  else match slotOfPa s (l * 64) with
    | none => s
    | some (ch, slot) =>
      let line := 32 * slot + l % 32
      let s := hbmEvent s ch 0x05
      if n = 64 then s.modChan ch (fun c => { c with wcb := c.wcb.filter (fun w => w.line != line) })
      else wcbWrite s ch line (byteMask first n)

/-! ### Writing lines -/

/-- What a line's frame holds: the line as it was last written there (R231). -/
def frameLine (s : State) (l : Nat) : List Byte :=
  match look [] s.stale l with
  | [] => (List.range 64).map (fun i => look 0 s.mem (l * 64 + i))
  | b => b

/-- Writes part of one line; outside the unified range nothing is written. A write of all 64 bytes without poison clears the line's poison; one that carries poison
marks it; any other leaves it (R255). -/
def lineWrite (s : State) (o : Obs) (a : Nat) (bytes : List Byte) (poison : Bool) : State :=
  if bytes.isEmpty || inMirror s a || decide (s.uBytes ≤ a) then s
  else
    let l := a / 64
    let whole := decide (bytes.length = 64)
    let s := recallOthers s o l
    let s := { s with
      mem := memPut s.mem a bytes
      stale := put [] s.stale l (frameLine s l)
      poison := if poison then nIns l s.poison else if whole then nDel l s.poison else s.poison
      recovering := if whole then nDel l s.recovering else s.recovering }
    tdLog (if holdsDirty s o l then s else frameWrite (homeTouch s l true) l (a % 64) bytes.length) o a bytes poison

/-- CRC-32C of some bytes, as the Castagnoli polynomial is commonly applied: bits reflected, all ones in and out
(PRESUMED, log entry 127). -/
def crc32c (l : List Byte) : BitVec 32 :=
  ~~~ (l.foldl (fun c b => (List.range 8).foldl (fun c _ =>
    if c.getLsbD 0 then (c >>> 1) ^^^ 0x82F63B78#32 else c >>> 1) (c ^^^ b.zeroExtend 32)) 0xFFFFFFFF#32)

/-- The pieces of a range line by line: address and number of bytes. -/
def linePieces (a n : Nat) : List (Nat × Nat) :=
  (linesOf a n).map (fun l => let lo := max a (l * 64); (lo, min (a + n) (l * 64 + 64) - lo))

/-- Writes bytes to the unified range (R209, R210, R255). -/
def memWrite (s : State) (o : Obs) (a : Nat) (bytes : List Byte) (poison : Bool) : State :=
  forAll (linePieces a bytes.length) (fun p s => lineWrite s o p.1 ((bytes.drop (p.1 - a)).take p.2) poison) s

/-- Writes bytes of which line `l` is poisoned where `f l` holds. -/
def memWriteBy (s : State) (o : Obs) (a : Nat) (bytes : List Byte) (f : Nat → Bool) : State :=
  forAll (linePieces a bytes.length)
    (fun p s => lineWrite s o p.1 ((bytes.drop (p.1 - a)).take p.2) (f (p.1 / 64))) s

/-- Writes a little-endian 64-bit word. -/
def memWrite64 (s : State) (o : Obs) (a : Nat) (w : Word) : State := memWrite s o a (leBytes 8 w.toNat) false

/-- The 64-bit word at an address. -/
def memRead64 (s : State) (a : Nat) : Word := BitVec.ofNat 64 (leNat (memRead s a 8))

/-- A read reaches the homes of a range's lines (R293). -/
def memTouch (s : State) (a n : Nat) : State := forAll (linesOf a n) (fun l s => homeTouch s l false) s

/-- Whether an engine or a core holds a line dirty. -/
def heldDirty (s : State) (l : Nat) : Bool :=
  s.engines.any (fun g => look 0 g.2.sc l == 2) || s.harts.any (fun g => look 0 g.2.cache l == 2)

/-- An access with PBMT NC is performed at the home and leaves no copy in any hart or engine cache; a dirty one is written
back first (R296). -/
def uncache (s : State) (a n : Nat) : State :=
  forAll (linesOf a n) (fun l s => dropCopies (if heldDirty s l then homeTouch s l true else s) l) s

/-- The write-combining entry of a line is written out, or discarded where the whole line is written (R276). -/
def entryOut (s : State) (l : Nat) (whole : Bool) : State :=
  match slotOfPa s (l * 64) with
  | none => s
  | some (ch, slot) =>
    let mine (w : WcbEntry) : Bool := w.line == 32 * slot + l % 32
    if !(s.chan ch).wcb.any mine then s
    else if whole then s.modChan ch (fun c => { c with wcb := c.wcb.filter (fun w => !mine w) })
    else evictIf s ch mine

/-- Writes a line's current value to its frame, through its home and the line's write-combining entry, leaving cached copies
clean, or dropped with `drop` (R299). -/
def cleanLine (s : State) (l : Nat) (drop : Bool) : State :=
  let s := if heldDirty s l then homeTouch s l true else s
  let s := entryOut s l (look 0 (s.pc (home (l * 64))).lines l != 0 && look 0 (s.pc (home (l * 64))).lines l % 2 == 0)
  let f : Tab Nat → Tab Nat := fun t => if drop then tabDel l t else if look 0 t l = 2 then tabIns l 1 t else t
  let s := { s with stale := put [] s.stale l [] }
  let s := { s with
    engines := tabMapD {} s.engines (fun _ g => { g with sc := f g.sc })
    harts := tabMapD {} s.harts (fun _ g => if drop then g.drop l else { g with cache := f g.cache }) }
  let cc := home (l * 64)
  let s := ccEvent cc 0x03 (if look 0 (s.pc cc).lines l != 0 && look 0 (s.pc cc).lines l % 2 == 0 then 1 else 0) s
  s.modPc cc (fun c =>
    match look 0 c.lines l with
    | 0 => c
    | v => { c with lines := if drop then tabDel l c.lines else tabIns l (2 * ((v - 1) / 2) + 1) c.lines })

/-! ### Store buffers (R38, R213, R215) -/

/-- The value of a byte as the owner of a store buffer reads it: its latest buffered store, else memory. -/
def fwdByte (s : State) (buf : List Store) (a : Nat) : Byte :=
  buf.foldl (fun v st => if st.pa ≤ a ∧ a < st.pa + st.bytes.length then st.bytes.getD (a - st.pa) 0 else v) (memByte s a)

/-- The bytes of a range through a store buffer. -/
def fwdRead (s : State) (buf : List Store) (a n : Nat) : List Byte := (List.range n).map (fun i => fwdByte s buf (a + i))

/-- A byte of memory as an observer's load returns it: as memory holds it, or, where the observer has not accessed the
aligned 8-byte word since, as memory held it at an earlier moment (R211, R215). `n` is a fresh number. -/
def pastByte (s : State) (x : Option Earlier) (n a : Nat) : Byte :=
  match x with
  | some y => if !nHas (a / 8) y.since && Config.freeBool n (a / 8) && !inMirror s a then look 0 y.mem a else memByte s a
  | none => memByte s a

/-- The bytes of a range as the owner of a store buffer loads them. -/
def loadBytes (s : State) (x : Option Earlier) (n : Nat) (buf : List Store) (a len : Nat) : List Byte :=
  (List.range len).map (fun i => buf.foldl (fun v st =>
    if st.pa ≤ a + i ∧ a + i < st.pa + st.bytes.length then st.bytes.getD (a + i - st.pa) 0 else v) (pastByte s x n (a + i)))

/-- The observer has accessed the aligned 8-byte words of physical pieces. -/
def Earlier.touch (l : List (Nat × Nat)) (x : Earlier) : Earlier :=
  { x with since := l.foldl (fun t p => (List.range ((p.1 + p.2 + 7) / 8 - p.1 / 8)).foldl (fun t i => nIns (p.1 / 8 + i) t) t) x.since }

/-- The present moment, as one at which a load may have been performed in part. -/
def State.moment (s : State) : Option Earlier := some { mem := s.mem }

/-- Whether a buffered store must wait at its home. -/
def storesWait (s : State) (buf : List Store) : Bool := buf.any (fun st => memWaits s st.pa st.bytes.length)

/-- Whether a hart's buffered store must wait: at its home, or for the link to it (R247, R322). -/
def hartStoresWait (s : State) (h : Nat) (buf : List Store) : Bool :=
  storesWait s buf || buf.any (fun st => hostHeld s (h / 64) (home st.pa))

/-- Whether two stores write a common byte. -/
def storesMeet (x y : Store) : Bool :=
  decide (x.pa < y.pa + y.bytes.length) && decide (y.pa < x.pa + x.bytes.length)

/-- Makes buffered stores visible in the order given. -/
def performStores (s : State) (o : Obs) (l : List Store) : State :=
  forAll l (fun st s => memWrite (if st.nc then uncache s st.pa st.bytes.length else s) o st.pa st.bytes st.poison) s

/-- The store that leaves a buffer next: any, but none before an earlier one to a common byte (R213, R215). -/
def pickStore (n : Nat) (buf : List Store) : Nat :=
  let i := Config.orderPick n buf.length % max 1 buf.length
  match buf[i]? with
  | some st => if (buf.take i).any (storesMeet st) then 0 else i
  | none => 0

/-- The stores of an engine that are not visible to other observers, oldest first. -/
def Engine.own (g : Engine) : List Store := g.near ++ g.stores

/-- Takes store `i` off an engine's stores. -/
def Engine.dropStore (g : Engine) (i : Nat) : Engine :=
  if i < g.near.length then { g with near := g.near.eraseIdx i } else { g with stores := g.stores.eraseIdx (i - g.near.length) }

/-- Whether a write by an observer waits at an engine window (R63, R227). -/
def holdsWrite (s : State) (o : Obs) : Bool := s.engines.any (fun p => p.2.heldCtrl.any (fun w => w.by_ == o))

/-- Drains an engine's store buffer. -/
def drainEngine (s : State) (e : Nat) : State :=
  (performStores s (.engine e) (s.eng e).own).modEng e (fun g => { g with near := [], stores := [] })

/-- Drains a hart's store buffer. -/
def drainHart (s : State) (h : Nat) : State :=
  (performStores s (.hart h) (s.hart h).stores).modHart h (fun g => { g with stores := [] })

/-- Takes one store out of an engine's buffer and performs it, unless it must wait at its home (R247). -/
def drainOneEngine (e : Nat) (s : State) : State :=
  let buf := (s.eng e).own
  if buf.isEmpty then s
  else
    let p := s.fresh
    let i := pickStore p.1 buf
    let one := (buf.drop i).take 1
    if storesWait s one then p.2
    else (performStores p.2 (.engine e) one).modEng e (fun g => g.dropStore i)

/-- Takes one store out of a hart's buffer and performs it, unless it must wait at its home (R247). -/
def drainOneHart (h : Nat) (s : State) : State :=
  let g := s.hart h
  if g.stores.isEmpty then s
  else
    let p := s.fresh
    let i := pickStore p.1 g.stores
    let one := (g.stores.drop i).take 1
    if hartStoresWait s h one then p.2
    else (performStores p.2 (.hart h) one).modHart h (fun g => { g with stores := g.stores.eraseIdx i })

/-- The naturally aligned 8-byte words that a range touches: address and number of bytes (R211). -/
def wordPieces (a n : Nat) : List (Nat × Nat) :=
  if n = 0 then []
  else (List.range ((a + n - 1) / 8 + 1 - a / 8)).map (fun i =>
    let lo := max a ((a / 8 + i) * 8)
    (lo, min (a + n) ((a / 8 + i) * 8 + 8) - lo))

/-- The pieces in which a store may become visible: one for each aligned 8-byte word, unless it makes a poisoned line good
as a whole (R211, R255). -/
def storePieces (s : State) (st : Store) : List Store :=
  if nHas (st.pa / 64) s.poison then [st]
  else (wordPieces st.pa st.bytes.length).map (fun p => { st with pa := p.1, bytes := (st.bytes.drop (p.1 - st.pa)).take p.2 })

/-- Takes one store, or one piece of a store, out of a Cupola unit's buffer and performs it, unless it must wait at its home
(R211, R221). -/
def drainOneUnit (u : Nat) (s : State) : State :=
  let g := s.unit u
  if g.stores.isEmpty then s
  else
    let p := s.fresh
    let i := pickStore p.1 g.stores
    let whole := (g.stores.drop i).take 1
    let pieces := if Config.freeBool p.1 0 then whole.flatMap (storePieces s) else whole
    let j := Config.orderPick p.1 pieces.length % max 1 pieces.length
    let one := (pieces.drop j).take 1
    if storesWait s one then p.2
    else (performStores p.2 .other one).modUnit u (fun g => { g with
      stores := g.stores.take i ++ pieces.eraseIdx j ++ g.stores.drop (i + 1) })

end Sys2Proof.Machine
end

