-- ==== Sys2Proof/Machine/Translate.lean ====
section
/-! DEFINITION. Translation by the Booking units: the address-space table, page walks, permissions, attribute delivery
and translation caches (R242–R245, R252, R256–R261). -/

namespace Sys2Proof.Machine

/-- The accesses that a translation is asked for (R258, R262). -/
inductive Acc where
  | r | w | x | a
deriving DecidableEq, Repr

/-- The ACCESS byte of a Siding entry (R262). -/
def Acc.code : Acc → Nat
  | .r => 1 | .w => 2 | .x => 4 | .a => 8

/-- Whether an access writes, so that D is set (R259). -/
def Acc.writes : Acc → Bool
  | .w | .a => true
  | _ => false

/-- A translation, or the reason there is none: REASON, PTE and LEVEL of R261, R262. A walk waits for a table line in a
locked tile (R249, R260). -/
inductive XRes where
  | ok (x : Xlat)
  | fault (reason pte level : Nat)
  | wait
deriving DecidableEq, Repr

/-- Levels of an address space by its MODE (R256). -/
def modeLevels (ent : Word) : Option Nat :=
  match fld ent 63 60 with
  | 0x9 => some 4
  | 0xA => some 5
  | _ => none

/-- Reading an address-space table entry: the entry, the REASON it cannot be read, or a wait. -/
inductive AstRes where
  | ok (ent : Word)
  | stop (reason : Nat)
  | wait
deriving DecidableEq, Repr

/-- The address-space table entry of an ASN, cached at a Concourse once it has been read through its home (R256, R260). -/
def astEntry (s : State) (cc asn : Nat) : State × AstRes :=
  let key := cc * 2 ^ 20 + asn
  let c := look 0 s.astCache key
  if c ≠ 0 then (s, .ok c)
  else
    let pa := s.astBase + 8 * asn
    if region s pa ≠ .unified then (s, .stop 0x04)
    else if memWaits s pa 8 then (s, .wait)
    else if memPoisoned s pa 8 then (s, .stop 0x06)
    else
      let w := memRead64 s pa
      let s := memTouch s pa 8
      (if (modeLevels w).isSome then { s with astCache := put 0 s.astCache key w } else s, .ok w)

/-- The privilege domain of an ASN; system where its entry cannot be read (R261, R262). -/
def domainOf (s : State) (cc asn : Nat) : Nat :=
  match (astEntry s cc asn).2 with
  | .ok w => if (modeLevels w).isSome then fld w 45 44 else 0
  | _ => 0

/-- Where a walk ends: at a leaf with its level, address and entry, with a fault, or waiting. -/
inductive WalkEnd where
  | leaf (level ptePa : Nat) (pte : Word) (g : Bool)
  | stop (reason pte level : Nat)
  | wait
deriving DecidableEq, Repr

/-- Whether an entry holds a reserved encoding at any level (R242, R261). -/
def pteReserved (pte : Word) : Bool :=
  fld pte 60 58 != 0 || fld pte 62 61 == 3 || (bit pte 2 && !bit pte 1)

/-- The walk from a table at a level down (R257). `g` is set once a non-leaf entry above had G. -/
def walkFrom (s : State) (va : Nat) : Nat → Nat → Bool → WalkEnd
  | lvl, table, g =>
    let ptePa := table + 8 * bitsN va (20 + 9 * lvl) (12 + 9 * lvl)
    if region s ptePa ≠ .unified then .stop 0x04 0 0xFF
    else if memWaits s ptePa 8 then .wait
    else if memPoisoned s ptePa 8 then .stop 0x06 0 0xFF
    else
      let pte := memRead64 s ptePa
      if !bit pte 0 then .stop 0x01 pte.toNat lvl
      else if pteReserved pte then .stop 0x03 pte.toNat lvl
      else if bit pte 1 || bit pte 3 then .leaf lvl ptePa pte (g || bit pte 5)
      else if fld pte 63 54 ≠ 0 ∨ bit pte 4 ∨ bit pte 6 ∨ bit pte 7 then .stop 0x03 pte.toNat lvl
      else match lvl with
        | 0 => .stop 0x03 pte.toNat 0
        | l + 1 => walkFrom s va l (fld pte 53 10 * 4096) (g || bit pte 5)

/-- The entries that a walk reads. -/
def walkReads (s : State) (va : Nat) : Nat → Nat → List Nat
  | lvl, table =>
    let ptePa := table + 8 * bitsN va (20 + 9 * lvl) (12 + 9 * lvl)
    let pte := memRead64 s ptePa
    if region s ptePa ≠ .unified then []
    else if memPoisoned s ptePa 8 || !bit pte 0 || bit pte 1 || bit pte 3 then [ptePa]
    else match lvl with
      | 0 => [ptePa]
      | l + 1 => ptePa :: walkReads s va l (fld pte 53 10 * 4096)

/-- The translation a leaf gives, or its reserved encoding (R242, R257, R261). -/
def leafXlat (asn va lvl : Nat) (pte : Word) (g : Bool) : Option Xlat :=
  let ppn := fld pte 53 10
  let napot := bit pte 63
  if ppn % 2 ^ (9 * lvl) ≠ 0 then none
  else if napot && (lvl != 0 || ppn % 16 != 8) then none
  else
    let size := if napot then 65536 else 2 ^ (12 + 9 * lvl)
    let ppn := if napot then ppn - 8 else ppn
    some { asn := asn, vbase := va / size * size, size := size, pbase := ppn * 4096, r := bit pte 1, w := bit pte 2,
           x := bit pte 3, u := bit pte 4, d := bit pte 7, global_ := g, pbmt := fld pte 62 61,
           place := fld pte 57 56, layout := b2n (bit pte 55) }

/-- The physical address of a virtual one under a translation. -/
def Xlat.pa (x : Xlat) (va : Nat) : Nat := x.pbase + (va - x.vbase)

/-- Whether a translation covers an address of an ASN. -/
def Xlat.covers (x : Xlat) (asn va : Nat) : Bool :=
  (x.asn == asn || x.global_) && decide (x.vbase ≤ va) && decide (va < x.vbase + x.size)

/-- 0 where R258 permits the access, else the REASON. `dev` is set for requesters that may reach the MMIO range; the Ticket
window and the diagnostic windows are targets of no translation by a Booking unit (R237, R261). -/
def xlatCheck (s : State) (dom : Nat) (x : Xlat) (va : Nat) (acc : Acc) (dev : Bool) : Nat :=
  let perm := match acc with
    | .r => x.r
    | .w | .a => x.r && x.w
    | .x => x.x
  if !perm || (dom != 0 && !x.u) then 0x02
  else match region s (x.pa va) with
    | .unified => if x.pbmt ≤ 1 then 0 else 0x04
    | .mmio => if dev && x.pbmt == 2 then 0 else 0x04
    | _ => 0x04

/-- Frames of the duplicate pool: the last D bytes of the slow tier (R252). -/
def poolFirst (s : State) : Nat := (s.pkg.slowBytes - s.pkg.dupPool) / 65536

/-- A free frame of the duplicate pool for a tile, on another device than a slow primary where there are several
(R252). -/
def poolFrame (s : State) (t : Nat) : Option Nat :=
  let used := s.tiles.filterMap (fun p => match p.2.dup with | some (.slow n) => some n | _ => none)
  let bad (n : Nat) : Bool := match frameOf s t with
    | .slow k => decide (1 < s.pkg.slowDevs.length) && deviceOf s.pkg.slowDevs n == deviceOf s.pkg.slowDevs k
    | .hbm _ => false
  ((List.range (s.pkg.dupPool / 65536)).map (fun i => poolFirst s + i)).find?
    (fun n => !used.contains n && !bad n)

/-- The pin limit in frames (R245, R268). -/
def pinLimit (s : State) : Nat := s.hFrames * Nat.min 75 s.pkg.pinLimit / 100

/-- A delivery of attributes to one tile (R243–R245, R252). -/
def deliver (place layout : Nat) (dup : Bool) (t : Nat) (s : State) : State :=
  let old := s.tile t
  let pinned := countIf (fun p : Nat × Tile => p.2.place == 1 && p.1 != t) s.tiles
  let past := decide (place = 1) && decide (pinLimit s ≤ pinned)
  let place := if past then 4 else place
  let dup := dup && s.feat 9
  let new := if dup && old.dup.isNone then poolFrame s t else none
  let short := dup && old.dup.isNone && new.isNone && !old.dupReq
  let cc := home (t * 65536)
  let s := s.setTile t { old with
    place := place, layout := layout, dupReq := dup
    dup := if dup then (match old.dup with | some f => some f | none => new.map Frame.slow) else none }
  s.modTt cc (fun k => { k with
    pinOver := if past && old.place != 4 then satN 0xFFFF (k.pinOver + 1) else k.pinOver
    dupShort := if short then satN 0xFFFF (k.dupShort + 1) else k.dupShort })

/-- The delivery of a leaf's attributes to every tile that the page covers in the unified range (R243). -/
def deliverLeaf (s : State) (x : Xlat) (dup : Bool) : State :=
  if region s x.pbase ≠ .unified then s
  else
    let first := x.pbase / 65536
    let last := (Nat.min (x.pbase + x.size) s.uBytes - 1) / 65536
    if x.place = 0 ∧ x.layout = 0 ∧ !dup then
      forAll (s.tiles.map Prod.fst)
        (fun t s => if first ≤ t ∧ t ≤ last then deliver 0 0 false t s else s) s
    else iter (last + 1 - first) (fun i s => deliver x.place x.layout dup (first + i) s) s

/-- Entries of a translation cache: a Booking unit's, a Cupola die's, and an engine's, whose size the spec does not give
(R177, R260; log entry 142). -/
def tlbSize (k : Nat) : Nat := if k < 16 then 16384 else if k < 64 then 1024 else 64

/-- Loads a translation into caches, in place of those of the same page and space. An entry leaves a full cache; which one
is a free choice (log entry 142). -/
def cacheXlat (s : State) (keys : List Nat) (x : Xlat) : State :=
  forAll keys (fun k s =>
    let rest := (look [] s.tlb k).filter (fun y => !(y.covers x.asn x.vbase))
    if rest.length < tlbSize k then { s with tlb := put [] s.tlb k (x :: rest) }
    else
      let p := s.fresh
      { p.2 with tlb := put [] s.tlb k (x :: rest.eraseIdx (Config.orderPick p.1 rest.length % rest.length)) }) s

/-- A walk for one access: A is set, and D for a write, before use (R259); the translation enters the caches `keys`. -/
def walk (s : State) (cc : Nat) (keys : List Nat) (asn va : Nat) (ent : Word) (acc : Acc) (dev : Bool) :
    State × XRes :=
  match modeLevels ent with
  | none => (s, .fault 0x05 ent.toNat 0xFF)
  | some n =>
    let s := ccEvent cc 0x0B 1 s
    let top := 12 + 9 * n
    let high := va / 2 ^ (top - 1)
    if high ≠ 0 ∧ high ≠ 2 ^ (65 - top) - 1 then (s, .fault 0x01 0 0xFF)
    else
      let w := walkFrom s va (n - 1) (fld ent 43 0 * 4096) false
      let s := if w = .wait then s else forAll (walkReads s va (n - 1) (fld ent 43 0 * 4096)) (fun a s => memTouch s a 8) s
      match w with
      | .wait => (s, .wait)
      | .stop r p l => (s, .fault r p l)
      | .leaf lvl ptePa pte g =>
        match leafXlat asn va lvl pte g with
        | none => (s, .fault 0x03 pte.toNat lvl)
        | some x =>
          let s := deliverLeaf s x (bit pte 54)
          match xlatCheck s (fld ent 45 44) x va acc dev with
          | 0 =>
            let pte' := pte ||| 0x40 ||| (if acc.writes then 0x80 else 0)
            let s := if pte' = pte then s else memWrite64 s .other ptePa pte'
            let x := { x with d := x.d || acc.writes }
            (cacheXlat s keys x, .ok x)
          | r => (s, .fault r pte.toNat lvl)

/-- The Booking unit of Concourse `cc` translates an address, through the caches `keys` in that order (R256–R260). A
cached translation that does not permit the access is walked again. -/
def translate (s : State) (cc : Nat) (keys : List Nat) (asn va : Nat) (acc : Acc) (dev : Bool) : State × XRes :=
  match astEntry s cc asn with
  | (s, .wait) => (s, .wait)
  | (s, .stop r) => (s, .fault r 0 0xFF)
  | (s, .ok ent) =>
    if (modeLevels ent).isNone then (s, .fault 0x05 ent.toNat 0xFF)
    else
      let hit := keys.findSome? (fun k => (look [] s.tlb k).find? (fun x => x.covers asn va &&
        (!acc.writes || x.d) && xlatCheck s (fld ent 45 44) x va acc dev == 0))
      match hit with
      | some x => (cacheXlat (ccEvent cc 0x09 1 s) keys x, .ok x)
      | none => walk (ccEvent cc 0x0A 1 s) cc keys asn va ent acc dev

/-- The pieces of a virtual range page by page, wrapping at 2^64. -/
def pagePieces (va n : Nat) : List (Nat × Nat) :=
  if n = 0 then []
  else (List.range ((va + n - 1) / 4096 + 1 - va / 4096)).map (fun i =>
    let lo := max va ((va / 4096 + i) * 4096)
    (lo % 2 ^ 64, min (va + n) ((va / 4096 + i) * 4096 + 4096) - lo))

/-- A translated range: physical pieces in order, the first fault and the address it names, or a wait. -/
inductive RangeRes where
  | ok (l : List (Nat × Nat × Xlat))
  | fault (va reason pte level : Nat)
  | wait
deriving DecidableEq, Repr

/-- Translates a virtual range piece by piece in ascending order; the first fault ends it. -/
def translateRange (s : State) (cc : Nat) (keys : List Nat) (asn va n : Nat) (acc : Acc) (dev : Bool) :
    State × RangeRes :=
  (pagePieces va n).foldl (fun st p =>
    match st.2 with
    | .fault _ _ _ _ | .wait => st
    | .ok l =>
      match translate st.1 cc keys asn p.1 acc dev with
      | (s, .wait) => (s, .wait)
      | (s, .ok x) => (s, .ok (l ++ [(x.pa p.1, p.2, x)]))
      | (s, .fault r pte lv) => (s, .fault p.1 r pte lv)) (s, .ok [])

end Sys2Proof.Machine
end

