-- ==== Sys2Proof/Machine/Faults.lean ====
section
/-! DEFINITION. Sidings: recording faults, batches, the parked list, held faults and back-pressure (R261–R264). -/

namespace Sys2Proof.Machine

/-- The key of a recorded fault: its Siding and its FAULT_ID. -/
def faultKey (sd id : Nat) : Nat := sd * 2 ^ 32 + id

/-- Whether the ring of a Siding has room for its closed batch (R263). -/
def sdRoom (d : Siding) : Bool :=
  match d.closed with
  | none => true
  | some b => d.enable &&
      decide (b.entries.length + 1 + (d.producer + 2 ^ 32 - d.consumer) % 2 ^ 32 ≤ 2 ^ d.log2n)

/-- Closes the open batch when it is full, or on catch-up (R263). -/
def sdClose (d : Siding) : Siding :=
  if d.closed.isSome || d.open_.isEmpty then d
  else if 64 ≤ d.open_.length then { d with closed := some ⟨d.open_.take 64, 1⟩, open_ := d.open_.drop 64 }
  else if d.consumer = d.producer then { d with closed := some ⟨d.open_, 2⟩, open_ := [] }
  else d

/-- Faults of a domain in a Booking unit's parked list. -/
def parkedOf (b : Booking) (d : Nat) : Nat := countIf (fun p : Nat × FaultEnt => p.1 == d) b.parked

/-- Whether the parked list has a place that a domain may use (R264). -/
def parkRoom (b : Booking) (d : Nat) : Bool :=
  decide (parkedOf b d < 32) ||
  decide ((List.range 4).foldl (fun n i => n + (parkedOf b i - 32)) 0 < 128)

/-- Whether faults of a domain are held at their requesters (SD_STATUS.HELD). -/
def heldDom (b : Booking) (d : Nat) : Bool := b.heldFaults.any (fun p => p.1 == d)

/-- Whether submissions of an ASN wait, at every shunter and ring: a fault of it is held at some Booking unit (R147,
R264). -/
def backPressured (s : State) (asn : Nat) : Bool :=
  (List.range 4).any (fun cc => (s.book cc).heldFaults.any (fun p => p.2.asn == asn))

/-- Puts a fault into the parked list (R264). -/
def enterParked (s : State) (cc d : Nat) (f : FaultEnt) : State :=
  (s.modBook cc (fun b => { b with parked := b.parked ++ [(d, f)] })).modSiding (4 * cc + d)
    (fun x => { x with overflow := satN 0xFFF (x.overflow + 1) })

/-- An identifier that no unanswered fault of the Siding has. -/
def freeId (d : Siding) : Nat :=
  match firstBelow (d.unanswered.length + 1) (fun i => !nHas ((d.nextId + i) % 2 ^ 32) d.unanswered) with
  | some i => (d.nextId + i) % 2 ^ 32
  | none => d.nextId

/-- Records a fault in the Siding of the translating Concourse for the ASN's domain (R261–R264), and gives its key. -/
def recordFault (s : State) (cc asn : Nat) (f : FaultEnt) : State × Nat :=
  let d := domainOf s cc asn
  let k := 4 * cc + d
  let id := freeId (s.siding k)
  let q := bumpSeq s (siteCC cc)
  let s := ucEvent cc 0x0C (fun qual => qual.testBit d) 1 q.2
  let f := { f with id := id, asn := asn, seq := q.1, born := s.faultNo }
  let s := ({ s with faultNo := s.faultNo + 1 } : State).modSiding k (fun x => { x with nextId := (id + 1) % 2 ^ 32, unanswered := nIns id x.unanswered })
  let b := s.book cc
  let x := s.siding k
  let s :=
    if sdRoom x && decide (x.open_.length < 64) && parkedOf b d == 0 && !heldDom b d then
      s.modSiding k (fun x => sdClose { x with open_ := x.open_ ++ [f] })
    else if parkRoom b d && !heldDom b d then enterParked s cc d f
    else s.modBook cc (fun b => { b with heldFaults := b.heldFaults ++ [(d, f)] })
  (s, faultKey k id)

/-- A Siding fault entry of 64 bytes (R262). -/
def faultBytes (f : FaultEnt) : List Byte :=
  leBytes 4 f.id ++ leBytes 1 1 ++ leBytes 1 f.reason ++ leBytes 1 f.access ++
  leBytes 1 (b2n f.parked + 2 * b2n f.noAnswer) ++ leBytes 8 f.va ++ leBytes 4 f.asn ++ leBytes 1 f.kind ++
  leBytes 1 f.unit ++ leBytes 2 f.engine ++ leBytes 8 f.reqSeq ++ leBytes 4 f.channel ++ leBytes 4 f.car ++
  leBytes 8 f.pte ++ leBytes 1 f.level ++ leBytes 7 0 ++ leBytes 8 f.seq

/-- The batch notice of a Siding (R263 step 4). -/
def batchNotice (s : State) (cc d : Nat) : List Byte :=
  leBytes 4 (s.siding (4 * cc + d)).producer ++ leBytes 1 d ++ leBytes 1 cc ++ leBytes 58 0

/-- Sends the batch notice. At most one is outstanding: one that waits will carry the new PRODUCER, one that has left
is followed by another when it has been placed (R263). -/
def sdNotify (s : State) (cc d : Nat) : State :=
  let k := 4 * cc + d
  let x := s.siding k
  if !x.notifyEn then s
  else if x.notice then
    let left := (s.ep x.endpoint).inflight.any (fun t => t.sender == epDoorbell cc && t.payload.getD 4 0 == BitVec.ofNat 8 d)
    s.modSiding k (fun x => { x with noticeDue := x.noticeDue || left })
  else if epAccepts s x.endpoint 0 (batchNotice s cc d) then
    queueTicket (s.modSiding k (fun x => { x with notice := true })) (epDoorbell cc) 0 x.endpoint (batchNotice s cc d)
  else s

/-- Moves the parked faults of a domain into the open batch, in order of arrival and marked (R264). -/
def unpark (s : State) (cc d : Nat) : State :=
  let b := s.book cc
  let mine := b.parked.filter (fun p => p.1 == d)
  let n := 64 - (s.siding (4 * cc + d)).open_.length
  let moved := (mine.take n).map (fun p => { p.2 with parked := true })
  let rest := (mine.drop n)
  let s := s.modBook cc (fun b => { b with parked := b.parked.filter (fun p => p.1 != d || rest.contains p) })
  s.modSiding (4 * cc + d) (fun x => { x with open_ := x.open_ ++ moved })

/-- Admits held faults to the parked list, in order of arrival within each domain (R264). -/
def admitHeld (s : State) (cc : Nat) : State :=
  forAll (s.book cc).heldFaults (fun p s =>
    let b := s.book cc
    match b.heldFaults.find? (fun q => q.1 == p.1) with
    | some q =>
      if q = p ∧ parkRoom b p.1 then
        enterParked (s.modBook cc (fun b => { b with heldFaults := b.heldFaults.erase p })) cc p.1 p.2
      else s
    | none => s) s

/-- Parked faults of a domain whose closed batch has been published move into its open batch (R264). -/
def settleParked (s : State) (cc : Nat) : State :=
  forAll [0, 1, 2, 3] (fun d s =>
    if (s.siding (4 * cc + d)).closed.isNone && parkedOf (s.book cc) d != 0 then (unpark s cc d).modSiding (4 * cc + d) sdClose
    else s) s

/-- Publishes the closed batch when the ring has room (R263), then moves parked faults in (R264). -/
def publishBatch (s : State) (cc d : Nat) : State :=
  let k := 4 * cc + d
  let x := s.siding k
  match x.closed with
  | none => s
  | some b =>
    if !sdRoom x then s
    else
      let n := b.entries.length
      let addr (i : Nat) : Nat := x.base + ((x.producer + i) % 2 ^ x.log2n) * 64
      let s := forAll b.entries.zipIdx (fun p s => memWrite s .other (addr (p.2 + 1)) (faultBytes p.1) false) s
      let q := bumpSeq s (siteCC cc)
      let no := (x.batchNo + 1) % 2 ^ 32
      let header := leBytes 4 no ++ leBytes 1 0x80 ++ leBytes 1 n ++ leBytes 1 b.close ++
        leBytes 1 (countIf (fun f : FaultEnt => f.parked) b.entries) ++ leBytes 8 q.1 ++ leBytes 4 x.overflow ++
        leBytes 2 (parkedOf (s.book cc) d) ++ leBytes 42 0
      let s := memWrite q.2 .other (addr 0) header false
      let s := s.modSiding k (fun x =>
        { x with closed := none, batchNo := no, producer := (x.producer + n + 1) % 2 ^ 32 })
      let s := unpark (sdNotify s cc d) cc d
      settleParked (admitHeld (s.modSiding k sdClose) cc) cc

/-- A placed Ticket of a Siding lets the next notice go (R263). -/
def batchNoticePlaced (s : State) (t : Ticket) : State :=
  if epKind t.sender = 6 ∧ t.payload.getD 26 0 ≠ 0x11 then
    let cc := epIdx t.sender
    let d := (t.payload.getD 4 0).toNat
    let due := (s.siding (4 * cc + d)).noticeDue
    let s := s.modSiding (4 * cc + d) (fun x => { x with notice := false, noticeDue := false })
    if due then sdNotify s cc d else s
  else s

end Sys2Proof.Machine
end

