-- ==== Sys2Proof/Machine/Operands.lean ====
section
/-! DEFINITION. The Melza instruction word: its fields, which words are defined encodings (R67, R68, R92, R104–R110,
R113–R119), the queues a word enters (R38, R81) and the registers it reads and writes (R41). -/

namespace Sys2Proof.Machine

def wOpc (w : Word) : Nat := fld w 63 56
def wCls (w : Word) : Nat := fld w 55 53
def wDst (w : Word) : Nat := fld w 52 48
def wS1 (w : Word) : Nat := fld w 47 43
def wS2 (w : Word) : Nat := fld w 42 38
def wPred (w : Word) : Nat := fld w 37 35
def wImm (w : Word) : Nat := fld w 34 0

/-- IMM[34:0] sign-extended to 64 bits (R72, R75). -/
def wImmS (w : Word) : Word := (w.extractLsb' 0 35).signExtend 64

/-- The word of an operation code and class with the operands of a row (R67). -/
def mkWord (opc cls : Nat) (o : MOp) : Word :=
  BitVec.ofNat 8 opc ++ BitVec.ofNat 3 cls ++ o.dst ++ o.src1 ++ o.src2 ++ o.pred ++ o.imm

/-- As `mkWord`, with the top bits of IMM fixed by the row (COND of R78, SCOPE of R85). -/
def mkWordTop (opc cls lo v : Nat) (o : MOp) : Word :=
  mkWord opc cls { o with imm := BitVec.ofNat 35 (o.imm.toNat % 2 ^ lo + v * 2 ^ lo) }

/-! ### Element types and formats -/

/-- Kinds of vector element types (R113). -/
inductive TyKind where
  | fp | fp8 | sint | uint
deriving DecidableEq, Repr

/-- Width and kind of a TYPE code (R113). -/
def vType : Nat → Option (Nat × TyKind)
  | 0x0 => some (64, .fp) | 0x1 => some (32, .fp) | 0x2 => some (16, .fp) | 0x3 => some (16, .fp)
  | 0x4 => some (8, .fp8) | 0x5 => some (8, .fp8) | 0x6 => some (8, .sint) | 0x7 => some (8, .uint)
  | 0x8 => some (16, .sint) | 0x9 => some (32, .sint) | 0xA => some (64, .sint)
  | _ => none

def TyKind.isInt : TyKind → Bool
  | .sint | .uint => true
  | _ => false

/-- Types of the ordering instructions (R113). -/
def orderingType (t : Nat) : Bool := t ≤ 3 || t == 8 || t == 9 || t == 0xA

/-- IMM sub-fields of the vector class (R114). -/
def iType (imm : Nat) : Nat := bitsN imm 34 31
def iRm (imm : Nat) : Nat := bitsN imm 30 28
def iZm (imm : Nat) : Bool := imm.testBit 27
def iSat (imm : Nat) : Bool := imm.testBit 26
def iSrc3 (imm : Nat) : Nat := bitsN imm 25 21
def iOpx (imm : Nat) : Nat := bitsN imm 20 0

/-- QMASK of a sync word (R81). -/
def wQmask (w : Word) : Nat := bitsN (wImm w) 28 23

/-- What an entry uses: DST, SRC1, SRC2 and the bits of IMM. -/
structure Uses where
  d : Bool
  a : Bool
  b : Bool
  imm : Nat
deriving DecidableEq, Repr

def immAll : Nat := 2 ^ 35 - 1
def immMask (hi lo : Nat) : Nat := 2 ^ (hi + 1) - 2 ^ lo

/-- Scalar class (R72, R75). -/
def usesScalar (o : Nat) : Option Uses :=
  if o ≤ 0x17 then some ⟨true, true, true, 0⟩
  else if o = 0x20 ∨ o = 0x21 ∨ o = 0x22 ∨ o = 0x23 ∨ o = 0x27 then some ⟨true, true, false, immAll⟩
  else if 0x24 ≤ o ∧ o ≤ 0x26 then some ⟨true, true, false, immMask 5 0⟩
  else if o = 0x28 ∨ o = 0x2A then some ⟨true, false, false, immAll⟩
  else if o = 0x29 then some ⟨true, true, false, immMask 31 0⟩
  else if (0x40 ≤ o ∧ o ≤ 0x46) ∨ (0x50 ≤ o ∧ o ≤ 0x56) then some ⟨true, true, false, immAll⟩
  else if (0x48 ≤ o ∧ o ≤ 0x4B) ∨ (0x58 ≤ o ∧ o ≤ 0x5B) then some ⟨false, true, true, immAll⟩
  else none

/-- Control class (R78). -/
def usesControl (o : Nat) : Option Uses :=
  match o with
  | 0x00 => some ⟨false, false, false, immMask 31 0⟩
  | 0x01 => some ⟨false, true, true, immAll⟩
  | 0x02 => some ⟨false, true, false, immAll⟩
  | 0x03 | 0x06 => some ⟨true, false, false, immMask 31 0⟩
  | 0x04 => some ⟨true, true, false, 0⟩
  | 0x05 => some ⟨false, true, false, immAll⟩
  | 0x07 | 0x08 => some ⟨false, false, false, 0⟩
  | _ => none

/-- Transfer class (R89). -/
def usesTransfer (o : Nat) : Option Uses :=
  match o with
  | 0x00 => some ⟨false, true, false, immMask 34 34⟩
  | 0x01 => some ⟨false, true, false, immMask 34 34 + immMask 21 0⟩
  | 0x02 => some ⟨false, true, false, immMask 34 27 + immMask 21 0⟩
  | _ => none

/-- Near-memory class (R89). -/
def usesNear (o : Nat) : Option Uses :=
  match o with
  | 0x00 => some ⟨false, true, false, immMask 21 0⟩
  | 0x01 => some ⟨true, true, true, immAll⟩
  | _ => none

/-- Sync class (R82). -/
def usesSync (o : Nat) : Option Uses :=
  match o with
  | 0x00 | 0x01 | 0x02 | 0x03 => some ⟨false, true, false, immAll⟩
  | 0x08 => some ⟨false, false, false, immMask 34 33⟩
  | 0x09 => some ⟨false, true, false, immMask 34 28⟩
  | 0x0A => some ⟨false, true, true, 0⟩
  | 0x0B => some ⟨false, true, true, immMask 34 29⟩
  | _ => none

/-- System class (R93). -/
def usesSystem (o : Nat) : Option Uses :=
  match o with
  | 0x00 => some ⟨false, true, true, immMask 21 0⟩
  | 0x01 | 0x02 | 0x03 => some ⟨false, true, false, immAll⟩
  | 0x04 => some ⟨false, false, false, immMask 4 0⟩
  | _ => none

/-- Vector class: register fields and IMM bits used (R114–R119). -/
def usesVector (o : Nat) : Option Uses :=
  let el := immMask 34 26
  match o with
  | 0x00 | 0x01 | 0x02 | 0x03 | 0x05 | 0x06 => some ⟨true, true, true, el⟩
  | 0x04 | 0x07 | 0x08 => some ⟨true, true, false, el⟩
  | 0x09 | 0x0A | 0x0B => some ⟨true, true, true, el + immMask 25 21⟩
  | 0x0C | 0x0D | 0x0E | 0x0F | 0x10 | 0x11 => some ⟨true, true, true, el⟩
  | 0x18 | 0x19 => some ⟨true, true, true, el + immMask 2 0⟩
  | 0x1A => some ⟨true, true, false, el⟩
  | 0x1B => some ⟨true, false, false, el⟩
  | 0x1C => some ⟨true, true, true, el⟩
  | 0x1D => some ⟨true, true, false, el + immMask 6 0⟩
  | 0x20 => some ⟨true, true, false, immMask 34 31 + immMask 21 0⟩
  | 0x21 => some ⟨true, true, false, immMask 34 24 + immMask 21 0⟩
  | 0x22 | 0x24 => some ⟨true, true, true, immMask 34 31 + immMask 21 0⟩
  | 0x23 | 0x25 => some ⟨true, true, true, immMask 34 24 + immMask 21 0⟩
  | 0x30 | 0x31 | 0x32 | 0x33 => some ⟨true, true, true, 0⟩
  | 0x35 | 0x36 => some ⟨true, true, false, 0⟩
  | 0x40 | 0x41 => some ⟨true, true, false, immMask 34 28 + immMask 5 0⟩
  | 0x42 | 0x44 => some ⟨true, true, false, immMask 34 28 + immMask 6 3⟩
  | 0x43 => some ⟨true, true, false, immMask 34 28 + immMask 15 8 + immMask 6 3⟩
  | 0x45 => some ⟨true, true, false, immMask 34 27⟩
  | _ => none

/-- Matrix class (R104). -/
def usesMatrix (o : Nat) : Option Uses :=
  match o with
  | 0x00 => some ⟨true, true, true, immMask 34 10⟩
  | 0x01 => some ⟨true, true, true, immMask 34 31 + immMask 25 10⟩
  | 0x08 => some ⟨true, false, false, 0⟩
  | 0x09 => some ⟨true, true, true, immMask 34 31 + immMask 25 19 + immMask 16 10⟩
  | 0x0A => some ⟨true, true, true, immMask 34 30 + immMask 25 19 + immMask 17 10⟩
  | 0x0B | 0x0C => some ⟨true, true, false, immMask 7 0⟩
  | _ => none

/-- What a word's entry uses; none where its OPC is not listed for its CLASS. -/
def usesOf (w : Word) : Option Uses :=
  match wCls w with
  | 0 => usesScalar (wOpc w)
  | 1 => usesControl (wOpc w)
  | 2 => usesVector (wOpc w)
  | 3 => usesMatrix (wOpc w)
  | 4 => usesTransfer (wOpc w)
  | 5 => usesNear (wOpc w)
  | 6 => usesSync (wOpc w)
  | _ => usesSystem (wOpc w)

/-- Whether every field the entry does not use is zero (R68). -/
def fieldsOk (u : Uses) (w : Word) : Bool :=
  (u.d || wDst w == 0) && (u.a || wS1 w == 0) && (u.b || wS2 w == 0) &&
  (List.range 35).all (fun i => u.imm.testBit i || !(wImm w).testBit i)

/-- AOP and SIZE combinations of CUPA, AMO and remote atomics (R92). -/
def aopOk (aop size : Nat) : Bool :=
  match size with
  | 0 => aop == 1
  | 1 => decide (aop ≤ 7)
  | 2 => decide (aop ≤ 8)
  | _ => false

/-- RM of an elementwise word (R114): `fp` when the instruction rounds, `sr` when it may round stochastically. -/
def rmOk (feat : Nat) (imm : Nat) (fp sr : Bool) : Bool :=
  let rm := iRm imm
  rm == 0 || (fp && (decide (rm ≤ 4) || (rm == 5 && sr && feat.testBit 3)))

/-- Checks of the vector class beyond unused fields (R113–R119). -/
def vectorOk (feat : Nat) (w : Word) : Bool :=
  let o := wOpc w
  let imm := wImm w
  let opx := iOpx imm
  if 0x30 ≤ o ∧ o ≤ 0x36 then
    wPred w == 0 &&
    (if o = 0x35 then decide (wDst w ≤ 7)
     else if o = 0x36 then decide (wS1 w ≤ 7)
     else decide (wDst w ≤ 7) && decide (wS1 w ≤ 7) && decide (wS2 w ≤ 7))
  else
    match vType (iType imm) with
    | none => false
    | some (width, kind) =>
      let n := 2048 / width
      let fp := kind == .fp
      let int := kind.isInt
      match o with
      | 0x00 | 0x01 | 0x07 | 0x08 => (fp || int) && rmOk feat imm fp false && (int || !iSat imm)
      | 0x02 | 0x05 | 0x06 => (fp || int) && rmOk feat imm fp false && !iSat imm
      | 0x03 | 0x04 | 0x09 | 0x0A | 0x0B => fp && rmOk feat imm true false && !iSat imm
      | 0x0C | 0x0D | 0x0E | 0x0F | 0x10 | 0x11 | 0x1B => int && iRm imm == 0 && !iSat imm
      | 0x18 => (fp || int) && rmOk feat imm fp false && !iSat imm && decide (wDst w ≤ 7)
      | 0x19 | 0x1A | 0x1C => rmOk feat imm (!int) false && !iSat imm
      | 0x1D =>
        (match vType (opx % 16) with
         | none => false
         | some (dw, dk) =>
           let part := opx / 16 % 8
           let dfp := !dk.isInt
           let narrowFp := decide (dw < width) && (opx % 16 == 2 || opx % 16 == 3 || opx % 16 == 4 || opx % 16 == 5)
           decide (part < Nat.max dw width / Nat.min dw width) && rmOk feat imm (!int || dfp) narrowFp)
      | 0x40 => (int || (fp && decide (opx % 8 ≤ 2))) && decide (opx % 8 ≤ 5) && rmOk feat imm fp false
      | 0x41 => (int || fp) && decide (opx % 8 ≤ 2) && rmOk feat imm fp false
      | 0x42 | 0x44 => orderingType (iType imm) && wDst w % 2 == 0 && rmOk feat imm (!int) false
      | 0x43 => orderingType (iType imm) && wDst w % 2 == 0 && rmOk feat imm (!int) false && decide (1 ≤ opx / 256) && decide (opx / 256 ≤ n)
      | 0x45 => rmOk feat imm (!int) false
      | _ => true

/-- Checks of the matrix class beyond unused fields (R104–R110). -/
def matrixOk (feat : Nat) (w : Word) : Bool :=
  let o := wOpc w
  let imm := wImm w
  let f := bitsN imm 34 31
  let rnd := imm.testBit 17
  match o with
  | 0x00 | 0x01 =>
    decide (wDst w ≤ 7) && decide (f ≤ 0xC) && (!(f == 7 || f == 8) || feat.testBit 2) &&
    (!rnd || (!(f == 3 || f == 4) && feat.testBit 3)) && (o == 0 || feat.testBit 1)
  | 0x08 => decide (wDst w ≤ 7)
  | 0x09 => decide (wDst w ≤ 7) && decide (f ≤ 1)
  | 0x0A => decide (wDst w ≤ 7) && decide (f ≤ 7) && (!rnd || (!(f == 0 || f == 7) && feat.testBit 3))
  | 0x0B => decide (wS1 w ≤ 7) && wPred w == 0
  | _ => decide (wDst w ≤ 7) && wPred w == 0

/-- Sub-field checks of the other classes (R68, R74, R78, R81, R85, R87, R90, R92). -/
def subfieldsOk (feat : Nat) (w : Word) : Bool :=
  let o := wOpc w
  let imm := wImm w
  match wCls w with
  | 0 => !(o == 0x2A) || decide (imm ≤ 4)
  | 1 => (!(o == 0x01) || decide (imm / 2 ^ 32 ≤ 5)) && (!(o == 0x02) || (decide (imm / 2 ^ 32 ≤ 2) && decide (wS1 w ≤ 7)))
  | 2 => vectorOk feat w
  | 3 => matrixOk feat w
  | 4 => !(o == 0x00) || decide (wS1 w ≤ 16)
  | 5 => !(o == 0x01) || aopOk (bitsN imm 34 31) (bitsN imm 30 29)
  | 6 => (!(decide (o ≤ 3)) || wQmask w != 0) && (!(o == 0x08) || decide (imm / 2 ^ 33 ≤ 2)) && (!(o == 0x0A) || feat.testBit 3)
  | _ => true

/-- Whether an engine word is a defined encoding under a package feature level (R68). -/
def wordDefined (feat : Nat) (w : Word) : Bool :=
  match usesOf w with
  | none => false
  | some u => fieldsOk u w && subfieldsOk feat w

/-! ### Queues (R38, R68, R81) -/

/-- The queues a word enters, by QUEUE code; 1 where the dispatcher itself holds a sync word, none for control words. -/
def wordQueues (w : Word) : List Nat :=
  match wCls w with
  | 0 | 7 => [0]
  | 1 => []
  | 2 => [2]
  | 3 => [3]
  | 4 => [4]
  | 5 => [5]
  | _ =>
    let o := wOpc w
    if o ≤ 3 then
      let qs := [0, 2, 3, 4, 5].filter (fun q => (wQmask w).testBit q)
      if qs.isEmpty then [1] else qs
    else if o = 0x0A then [2, 3]
    else if o = 0x0B then [4]
    else [0]

/-- Credits of each queue (R38). -/
def queueDepth (q : Nat) : Nat :=
  match q with
  | 0 => 16 | 1 => 1 | 2 | 3 => 64 | _ => 32

/-- Whether the dispatcher raises the undefined encoding itself (R68). -/
def dispatcherRaises (feat : Nat) (w : Word) : Bool :=
  match wCls w with
  | 1 => !wordDefined feat w
  | 6 =>
    (usesOf w).isNone || (decide (wOpc w ≤ 3) && (wQmask w == 0 || (wQmask w == 2 && !wordDefined feat w)))
  | _ => false

/-- Whether dispatch is held from this word until it completes (R81, R85, R86). -/
def holdsDispatch (w : Word) : Bool :=
  wCls w == 6 && (wOpc w == 8 || wOpc w == 9 || (decide (wOpc w ≤ 3) && (wQmask w).testBit 1))

/-! ### Register use (R41) -/

/-- Registers of the S, P, V and A files. -/
inductive Reg where
  | s (n : Nat) | p (n : Nat) | v (n : Nat) | a (n : Nat)
deriving DecidableEq, Repr

/-- The number of one register whose writes are not discarded. -/
def regS (n : Nat) : List Reg := if n = 0 then [] else [.s n]
def regP (n : Nat) : List Reg := if n = 0 then [] else [.p n]

/-- S registers read at dispatch (R40, R41, R90, R92). -/
def readsAtDispatch (w : Word) : List Reg :=
  let o := wOpc w
  let d := regS (wDst w)
  let a := regS (wS1 w)
  let b := regS (wS2 w)
  match wCls w with
  | 1 =>
    if o = 1 then a ++ b else if o = 4 ∨ o = 5 then a else if o = 6 then d else []
  | 2 =>
    if o = 0x1A ∨ o = 0x20 ∨ o = 0x21 ∨ o = 0x24 ∨ o = 0x25 ∨ o = 0x35 then a
    else if o = 0x22 ∨ o = 0x23 then a ++ b else []
  | 3 => if o = 0 ∨ o = 1 ∨ o = 9 ∨ o = 0xA then a ++ b else []
  | 4 => if o = 0 then ((List.range 16).map (fun i => wS1 w + i)).flatMap regS else a
  | 5 => if o = 1 then d ++ a ++ b else a
  | 6 => if o = 8 then [] else if o = 0xA ∨ o = 0xB then a ++ b else a
  | _ => []

/-- S registers a word writes (R41). -/
def writesS (w : Word) : List Reg :=
  let o := wOpc w
  match wCls w with
  | 0 => if o ≤ 0x2A ∨ (0x40 ≤ o ∧ o ≤ 0x46) ∨ (0x50 ≤ o ∧ o ≤ 0x56) then regS (wDst w) else []
  | 1 => if o = 3 ∨ o = 4 ∨ o = 6 then regS (wDst w) else []
  | _ => []

/-- S registers that a scalar-queue word reads when it executes. -/
def readsS (w : Word) : List Reg :=
  match wCls w with
  | 0 | 7 => regS (wS1 w) ++ regS (wS2 w)
  | _ => []

/-- P, V and A registers a word reads at the head of its queue (R41). -/
def readsPVA (w : Word) : List Reg :=
  let o := wOpc w
  let d := wDst w
  let a := wS1 w
  let b := wS2 w
  let imm := wImm w
  let guard := if wCls w = 3 ∧ (o = 0xB ∨ o = 0xC) then [] else regP (wPred w)
  guard ++
  (match wCls w with
   | 1 => if o = 2 then regP a else []
   | 2 =>
     if o ≤ 0x11 ∨ (0x19 ≤ o ∧ o ≤ 0x1D) then
       (if o = 0x1A ∨ o = 0x1B then [] else [.v a]) ++
       (if o = 4 ∨ o = 7 ∨ o = 8 ∨ o = 0x1A ∨ o = 0x1B ∨ o = 0x1D then [] else [.v b]) ++
       (if o = 9 ∨ o = 0xA ∨ o = 0xB then [.v (iSrc3 imm)] else []) ++
       (if o = 0x19 then regP (bitsN imm 2 0) else []) ++
       (if !iZm imm ∨ o = 0x1D then [.v d] else [])
     else if o = 0x18 then [.v a, .v b] ++ (if iZm imm then [] else regP d)
     else if 0x20 ≤ o ∧ o ≤ 0x25 then
       [.v d] ++ (if o = 0x24 ∨ o = 0x25 then [.v b] else [])
     else if 0x30 ≤ o ∧ o ≤ 0x33 then regP a ++ regP b
     else if o = 0x36 then regP a
     else if 0x40 ≤ o ∧ o ≤ 0x44 then [.v a] ++ regP (bitsN imm 5 3)
     else if o = 0x45 then [.v a]
     else []
   | 3 =>
     if o = 0xB then [.a a] else if o = 0xC then [.v a, .a d] else [.a d]
   | _ => [])

/-- P, V and A registers a word writes (R41). -/
def writesPVA (w : Word) : List Reg :=
  let o := wOpc w
  let d := wDst w
  match wCls w with
  | 2 =>
    if o = 0x18 ∨ (0x30 ≤ o ∧ o ≤ 0x35) then regP d
    else if o = 0x21 ∨ o = 0x23 ∨ o = 0x25 then []
    else if 0x42 ≤ o ∧ o ≤ 0x44 then [.v d, .v (d + 1)]
    else [.v d]
  | 3 => if o = 0xA then [] else if o = 0xB then [.v d] else [.a d]
  | _ => []

/-- Whether two lists of registers have one in common. -/
def regsMeet (x y : List Reg) : Bool := x.any (fun r => y.contains r)

end Sys2Proof.Machine
end

