-- ==== Sys2Proof/Machine/Engine.lean ====
section
/-! DEFINITION. The engine: registers, the tile store, tile counters, queues, exceptions, parking and resuming
(chapter 02). -/

namespace Sys2Proof.Machine

/-! ### Registers (R44) -/

/-- S[n]; S0 reads as zero. -/
def Engine.sReg (g : Engine) (n : Nat) : Word := if n = 0 then 0 else look 0 g.s n
/-- Writes S[n]; a write to S0 is discarded. -/
def Engine.putS (g : Engine) (n : Nat) (v : Word) : Engine := if n = 0 then g else { g with s := put 0 g.s n v }
/-- P[n]; P0 reads as all-true. -/
def Engine.pReg (g : Engine) (n : Nat) : PReg := if n = 0 then BitVec.allOnes 256 else look 0 g.p n
/-- Writes P[n]; a write to P0 is discarded. -/
def Engine.putP (g : Engine) (n : Nat) (v : PReg) : Engine := if n = 0 then g else { g with p := put 0 g.p n v }
/-- V[n]. -/
def Engine.vReg (g : Engine) (n : Nat) : VReg := look 0 g.v n
/-- Poison marks of V[n], one a byte (R100). -/
def Engine.vMarks (g : Engine) (n : Nat) : BitVec 256 := look 0 g.vp n
/-- Writes V[n] with its poison marks. -/
def Engine.putV (g : Engine) (n : Nat) (v : VReg) (m : BitVec 256) : Engine :=
  { g with v := put 0 g.v n v, vp := put 0 g.vp n m }

/-! ### The tile store (R45–R49) -/

/-- Bytes of the tile store. -/
def tsSize : Nat := 0x400000

/-- Bytes of a tile-store range. -/
def Engine.tsRead (g : Engine) (a n : Nat) : List Byte := (List.range n).map (fun i => look 0 g.ts (a + i))

/-- Whether a range touches a poisoned row (R47). -/
def Engine.tsPois (g : Engine) (a n : Nat) : Bool := (linesOf a n).any (fun r => nHas r g.tsPoison)

/-- One contiguous write of an instruction to the tile store. -/
structure TsWrite where
  addr   : Nat
  bytes  : List Byte
  poison : Bool := false
deriving DecidableEq, Repr

/-- The bytes of each row that a list of writes covers, one bit a byte. -/
def rowMasks (l : List TsWrite) : Tab Nat :=
  l.foldl (fun m w => (linesOf w.addr w.bytes.length).foldl (fun m r =>
    let lo := max w.addr (r * 64) - r * 64
    let hi := min (w.addr + w.bytes.length) (r * 64 + 64) - r * 64
    tabIns r (look 0 m r ||| (2 ^ hi - 2 ^ lo)) m) m) []

/-- The writes of one instruction, car, WAITT or CUPA return: a row that is written whole without poison loses its
mark, a row that receives poison is marked (R47). -/
def Engine.tsWrite (g : Engine) (l : List TsWrite) : Engine :=
  let masks := rowMasks l
  let bad := (l.filter TsWrite.poison).flatMap (fun w => linesOf w.addr w.bytes.length)
  let whole := (masks.filter (fun p => decide (p.2 = 2 ^ 64 - 1))).map Prod.fst
  { g with
    ts := l.foldl (fun m w => memPut m w.addr w.bytes) g.ts
    tsPoison := bad.foldl (fun t r => nIns r t) (whole.foldl (fun t r => nDel r t) g.tsPoison)
    tsLatent := whole.foldl (fun t r => tabDel r t) g.tsLatent }

/-- A read finds the errors of the rows it touches: corrected ones are counted, uncorrectable ones poison the row
(R47). -/
def senseTs (s : State) (e a n : Nat) : State :=
  forAll ((linesOf a n).filter (fun r => look 0 (s.eng e).tsLatent r ≠ 0)) (fun r s =>
    let one := decide (look 0 (s.eng e).tsLatent r = 1)
    let s := s.modEng e (fun g => { g with
      tsLatent := tabDel r g.tsLatent
      lastErr := r * 64
      ceCount := if one then satN 0xFFFF (g.ceCount + 1) else g.ceCount
      ueCount := if one then g.ueCount else satN 0xFFFF (g.ueCount + 1)
      tsPoison := if one then g.tsPoison else nIns r g.tsPoison })
    if one then pmEvent e 0x0F 0xFF 1 none s else s) s

/-! ### Queues (R38) -/

/-- The entries of a queue, by QUEUE code. -/
def Engine.queue (g : Engine) (q : Nat) : List Entry :=
  match q with
  | 0 => g.q0 | 1 => g.q1 | 2 => g.q2 | 3 => g.q3 | 4 => g.q4 | _ => g.q5

/-- Changes every queue. -/
def Engine.mapQueues (g : Engine) (f : List Entry → List Entry) : Engine :=
  { g with q0 := f g.q0, q1 := f g.q1, q2 := f g.q2, q3 := f g.q3, q4 := f g.q4, q5 := f g.q5 }

/-- Appends an entry to a queue. -/
def Engine.push (g : Engine) (q : Nat) (en : Entry) : Engine :=
  match q with
  | 0 => { g with q0 := g.q0 ++ [en] }
  | 1 => { g with q1 := g.q1 ++ [en] }
  | 2 => { g with q2 := g.q2 ++ [en] }
  | 3 => { g with q3 := g.q3 ++ [en] }
  | 4 => { g with q4 := g.q4 ++ [en] }
  | _ => { g with q5 := g.q5 ++ [en] }

/-- All entries of all queues. -/
def Engine.entries (g : Engine) : List Entry := g.q0 ++ g.q1 ++ g.q2 ++ g.q3 ++ g.q4 ++ g.q5

/-- Whether every queue is empty. -/
def Engine.queuesEmpty (g : Engine) : Bool := g.entries.isEmpty

/-- Whether DSN `a` was dispatched before `b` (R37: the DSN wraps). -/
def Engine.older (g : Engine) (a b : Nat) : Bool :=
  decide ((g.dsn + 2 ^ 32 - b) % 2 ^ 32 < (g.dsn + 2 ^ 32 - a) % 2 ^ 32)

/-- Whether no earlier instruction of another queue still reads or writes a register in a way that R41 orders. An
instruction that waits at its heads has read its guard (R71). -/
def Engine.hazardFree (g : Engine) (en : Entry) : Bool :=
  g.entries.all (fun x => !(g.older x.dsn en.dsn) ||
    (!regsMeet (writesPVA x.word) (readsPVA en.word ++ writesPVA en.word) &&
     (x.waits || !regsMeet (readsPVA x.word) (writesPVA en.word))))

/-- The entry with word `w` that stands at the head of every queue the word names (R82). -/
def Engine.atHeads (g : Engine) (w : Word) : Option Entry :=
  match wordQueues w with
  | [] => none
  | q :: qs =>
    match (g.queue q).head? with
    | none => none
    | some en =>
      if en.word = w ∧ qs.all (fun q => decide (((g.queue q).head?.map Entry.dsn) = some en.dsn)) then some en else none

/-- Whether the engine lets an instruction be executed: it runs, or it is parking and the instruction was under way when
that began (R58 step 2). -/
def Engine.executes (g : Engine) (en : Entry) : Bool :=
  (g.state == .running || (g.state == .parking && nHas en.dsn g.finishing)) && g.migrating.isNone && !g.unplaced

/-- The entry that stands at the head of every queue its word names, where the engine may execute it (R41, R82). -/
def headEntry (s : State) (e : Nat) (w : Word) : Option Entry :=
  ((s.eng e).atHeads w).filter (fun en => (s.eng e).executes en && (s.eng e).hazardFree en)

/-- The instruction leaves every queue that holds it, and dispatch held for it continues (R39, R81). -/
def Engine.pop (g : Engine) (dsn : Nat) : Engine :=
  { g.mapQueues (fun l => l.filter (fun en => en.dsn != dsn)) with hold := if g.hold = some dsn then none else g.hold }

/-- Changes an entry wherever it is held. -/
def Engine.modEntry (g : Engine) (dsn : Nat) (f : Entry → Entry) : Engine :=
  g.mapQueues (fun l => l.map (fun en => if en.dsn = dsn then f en else en))

/-- An entry as a sample records it. -/
def Entry.sampled (en : Entry) (q : Nat) : Sampled := ⟨en.addr, en.dsn, q⟩

/-- Classifies an entry's slot, once (R419). -/
def slotEntry (s : State) (e : Nat) (en : Entry) (retired : Nat) : State :=
  if en.counted then s
  else slotDone (slotTotal (s.modEng e (fun g => g.modEntry en.dsn (fun x => { x with counted := true }))) e) e retired

/-- An instruction completes: its slot is classified and it leaves its queues. -/
def finish (s : State) (e : Nat) (en : Entry) (retired : Nat) : State :=
  (slotEntry s e en retired).modEng e (fun g => g.pop en.dsn)

/-- Lane 0 of an entry's guard (R70). -/
def Engine.guardOf (g : Engine) (w : Word) : Bool := (g.pReg (wPred w)).getLsbD 0

/-! ### Tile counters (R50, R51) -/

/-- A counter's value. -/
def Engine.tcVal (g : Engine) (k : Nat) : BitVec 32 := look 0 g.tc k

/-- c reaches at least v (R51). -/
def tcReaches (c v : BitVec 32) : Bool := decide ((c - v).toNat < 2 ^ 31)

/-- The counter and value that a TCWAIT, TCADD or TCSET names (R83). -/
def syncTc (w : Word) : Nat := bitsN (wImm w) 34 29
def syncX (en : Entry) : BitVec 32 := BitVec.ofNat 32 (en.s1.toNat + bitsN (wImm en.word) 22 0)

/-- Waiting TCWAITs whose counter has reached their value are released for good (R51). -/
def Engine.release (g : Engine) (k : Nat) : Engine :=
  g.mapQueues (fun l => l.map (fun en =>
    if en.waits && wOpc en.word == 0 && syncTc en.word == k && tcReaches (g.tcVal k) (syncX en)
    then { en with released := true } else en))

/-- One update applied to a counter: an addition, or a value put in place. -/
def Engine.tcApply (g : Engine) (set : Bool) (k v : Nat) : Engine :=
  let c := if set then BitVec.ofNat 32 v else g.tcVal k + BitVec.ofNat 32 v
  ({ g with tc := put 0 g.tc k c }).release k

/-- An update of a counter; during a migration, while the engine is unplaced and while its Spire is in drowse, it is held and applied afterwards
(R62 step 5, R362). What a drowsing engine is sent waits in one queue, where an update stands as an offset past the
window (R394). -/
def tcUpdate (s : State) (e : Nat) (set : Bool) (k v : Nat) : State :=
  s.modEng e (fun g =>
    if g.migrating.isSome || g.unplaced then { g with heldTc := g.heldTc ++ [(b2n set, k, v)] }
    else if asleep s e then { g with heldCtrl := g.heldCtrl ++ [{ off := 0x20000 + 64 * b2n set + k, value := BitVec.ofNat 64 v }] }
    else g.tcApply set k v)

/-- An increment of a counter. -/
def tcAdd (s : State) (e k n : Nat) : State := tcUpdate s e false k n

/-! ### Exceptions and parking (R55–R60) -/

def EngState.code : EngState → Nat
  | .idle => 0 | .running => 1 | .parking => 2 | .parked => 3 | .resetting => 4

def ParkCause.code : ParkCause → Nat
  | .none => 0 | .software => 1 | .fault => 2 | .halt => 3 | .keeper => 4

/-- ENG_EXC (R66). -/
def excWord (g : Engine) : Word :=
  match g.exc with
  | some x => pack [(32, 32, x.dsn), (15, 1, 1), (14, 1, b2n g.multi), (13, 1, b2n x.partial_), (8, 4, x.queue), (0, 8, x.code)]
  | none => pack [(32, 32, g.lastExc.dsn), (14, 1, b2n g.multi), (13, 1, b2n g.lastExc.partial_), (8, 4, g.lastExc.queue),
      (0, 8, g.lastExc.code)]

/-- The exception whose address and data the registers hold. -/
def Engine.excShown (g : Engine) : Exc := g.exc.getD g.lastExc

/-- The DSNs of the instructions that may be under way: those at their heads that no earlier one holds back. A TCWAIT or
WAITT that waits has not started (R58 step 2). -/
def Engine.underWay (g : Engine) : NSet :=
  ([g.q0, g.q1, g.q2, g.q3, g.q4, g.q5].filterMap List.head?).foldl (fun t en =>
    if !en.waits && (g.atHeads en.word).isSome && g.hazardFree en then nIns en.dsn t else t) []

/-- The engine begins to park; an exception makes the cause fault (R58, R59). -/
def Engine.park (g : Engine) (c : ParkCause) : Engine :=
  match g.state with
  | .running => { g with state := .parking, cause := c, finishing := g.underWay }
  | .parking => if c = .fault then { g with cause := .fault } else g
  | _ => g

/-- A queue records an exception, at most one (R56, R59), and stops (R58 step 2). A completion exception's instruction has
completed. -/
def raiseExc (s : State) (e q code : Nat) (en : Entry) (data : Nat) (part : Bool) : State :=
  let s := if part then s else slotEntry s e en 128
  s.modEng e (fun g =>
    let g := if g.excs.any (fun x => x.queue == q) then g
      else { g with excs := g.excs ++ [⟨q, code, en.dsn, en.addr, data, part⟩] }
    let g := g.park .fault
    { g with finishing := (g.queue q).foldl (fun t x => nDel x.dsn t) g.finishing })

/-- Raises the undefined encoding of a word that stands at the head of its queues and is no defined encoding of any
row (R68). That a word with several queues is decoded at the head of them all is DESIGN CHOICE (log entry 133). -/
def settleHead (q : Nat) (e : Nat) (s : State) : State :=
  match ((s.eng e).queue q).head? with
  | none => s
  | some en =>
    if wordDefined s.pkg.feature en.word then s
    else match (s.eng e).atHeads en.word with
      | some en => if (wordQueues en.word).headD 0 == q && (s.eng e).executes en then raiseExc s e q 0x01 en 0 false else s
      | none => s

/-- Every queue decodes the word at its head. -/
def settle (s : State) (e : Nat) : State := forAll [0, 1, 2, 3, 4, 5] (fun q s => settleHead q e s) s

/-- An instruction completes, and the queues decode what now stands at their heads. -/
def complete (s : State) (e : Nat) (en : Entry) (retired : Nat) : State := settle (finish s e en retired) e

/-- The exception with the lowest DSN, the one dispatched first (R59). -/
def Engine.firstExc (g : Engine) : Option Exc :=
  g.excs.foldl (fun a x => match a with
    | none => some x
    | some y => if g.older x.dsn y.dsn then some x else some y) none

/-- The fault notice of an engine (R60). -/
def faultNotice (s : State) (e : Nat) : List Byte :=
  let g := s.eng e
  leBytes 8 (excWord g).toNat ++ leBytes 8 g.excShown.addr ++ leBytes 8 g.excShown.data ++ leBytes 2 e ++
    leBytes 1 g.cause.code ++ leBytes 5 0 ++ leBytes 4 g.asn ++ leBytes 4 0 ++
    leBytes 8 (s.ident (siteSP (spireOf e))).seq ++ leBytes 16 0

/-- Sends the fault notice when NOTIFY_EN is 1 (R58 step 5). The notice is a record of the engine's Spire (R31). -/
def sendFaultNotice (s : State) (e : Nat) : State :=
  let g := s.eng e
  if !g.notifyEn then s
  else
    let s := (bumpSeq s (siteSP (spireOf e))).2
    sendNotice s (epEngine e) g.asn g.ownerEp (faultNotice s e)

/-- A TSEND that waited for a credit gives its place up when the engine parks: it has not been performed and may be
skipped (DESIGN CHOICE, log entry 132). -/
def dropSendRequests (s : State) (e : Nat) : State :=
  { s with eps := tabMapD {} s.eps (fun _ p =>
      { p with waiting := p.waiting.filter (fun t => t.auto || t.sender != epEngine e) }) }

/-- The engine reports the exception recorded first and stands PARKED (R58 steps 3–5, R59). -/
def parkNow (s : State) (e : Nat) : State :=
  let s := dropSendRequests (drainEngine s e) e
  let g := s.eng e
  let x := g.firstExc
  let g := { g with
    state := .parked
    finishing := []
    exc := x
    lastExc := x.getD g.lastExc
    multi := decide (1 < g.excs.length) }
  let s := s.setEng e g
  if !g.quiet ∧ (g.cause = .fault ∨ g.cause = .halt) then sendFaultNotice s e else s

/-- Whether a recorded exception's instruction still stands in its queue. -/
def Engine.holds (g : Engine) (x : Exc) : Bool := (g.queue x.queue).any (fun en => en.dsn == x.dsn)

/-- RESUME (R60, R69): leaves PARKED, skipping the reported instruction with mode 1. Another recorded exception parks
the engine again at once. -/
def resumeEngine (s : State) (e mode : Nat) : State :=
  let g := s.eng e
  if g.state ≠ .parked ∨ g.unplaced then s
  else
    let skip := decide (mode = 1)
    let g := match g.exc with
      | none => g
      | some x =>
        let g := { g with excs := g.excs.filter (fun y => y.queue != x.queue) }
        if !skip || x.partial_ then g
        else if g.holds x then g.pop x.dsn
        else if x.queue == 1 && x.code == 0x01 then { g with pc := (g.pc + 8) % 2 ^ 64 }
        else g
    let g := { g with exc := none, state := .running, cause := .none, multi := false, earlier := none }
    let s := s.setEng e g
    if g.excs.isEmpty then s
    else parkNow (s.modEng e (fun g => { g with state := .parking, cause := .fault })) e

/-- The supply that a Spire's responses leave (R401). -/
def SpirePwr.settle (p : SpirePwr) : SpirePwr :=
  { p with mv := if p.drowse then p.mv else max 550 (750 - p.powerCut - p.dieCut - p.stackCut) }

/-! ### The scalar cache (R53) -/

/-- Writes an engine's dirty lines to their homes and empties its scalar cache (R61, R62, R307). -/
def cleanScalar (s : State) (e : Nat) : State :=
  let s := drainEngine s e
  let dirty := ((s.eng e).sc.filter (fun p => decide (p.2 = 2))).map Prod.fst
  forAll dirty (fun l s => homeTouch s l true) (s.modEng e (fun g => { g with sc := [], scMiss := none, scHeld := false }))

/-- The engine's translation caches: its own, then its Concourse's Booking unit (R260). -/
def engKeys (e : Nat) : List Nat := [64 + e, ccOfEngine e]

/-- Records an engine scalar access or fetch fault in the Siding (R57, R262). -/
def scalarFault (s : State) (e : Nat) (asn va kind dsn : Nat) (acc : Acc) (reason pte level : Nat) : State :=
  (recordFault s (ccOfEngine e) asn
    { id := 0, reason := reason, access := acc.code, noAnswer := true, va := va, asn := asn, kind := kind, engine := e,
      reqSeq := dsn, pte := pte, level := level }).1

end Sys2Proof.Machine
end

