-- ==== Sys2Proof/Machine/Issue.lean ====
section
/-! DEFINITION. Fetching and dispatching: the slots of an engine, its instruction cache, holds, and the control class
that the dispatcher executes itself (R37–R40, R43, R52, R68, R69, R78–R80). -/

namespace Sys2Proof.Machine

/-- The dispatcher reports an exception against the address at which it stands; nothing is dispatched (R69). The slot
counts as front-starved where fetch gave no instruction, and else as back-starved (R43; DESIGN CHOICE, log entry 131). -/
def raiseDispatch (s : State) (e code data : Nat) : State :=
  (if code = 0x10 ∨ code = 0x20 then slotFront s e else slotAdd (slotTotal s e) e 4 128).modEng e (fun g =>
    Engine.park { g with excs := g.excs ++ [Exc.mk 1 code g.dsn g.pc data false] } .fault)

/-- A line leaves a full instruction cache of 512 lines; which one, the undocumented replacement decides. A line may
leave sooner, as `refill` says (R44). -/
def icRoom (s : State) (e line : Nat) : State :=
  let held := (s.eng e).icache.filter (fun x => x.1 != line)
  if held.length < 512 then s
  else
    let p := s.fresh
    match held[Config.orderPick p.1 held.length % held.length]? with
    | none => p.2
    | some x => p.2.modEng e (fun g => { g with icache := put [] g.icache x.1 [] })

/-- The word at ENG_PC through the instruction cache, filling its line on a miss, or with `refill` after an eviction.
A fault or poison is reported and gives no word (R52, R69), nor does a wait at the home (R249). -/
def fetchWord (s : State) (e : Nat) (refill : Bool) : State × Option Word :=
  let g := s.eng e
  let line := g.pc / 64
  let held := look [] g.icache line
  if !refill && !held.isEmpty then (s, some (w64At held (g.pc % 64)))
  else
    let s := pmEvent e 0x08 0xFF 1 none s
    match translate s (ccOfEngine e) (engKeys e) g.asn g.pc .x false with
    | (s, .wait) => (slotFront s e, none)
    | (s, .fault r pte l) =>
      (raiseDispatch (scalarFault s e g.asn g.pc 0x0A g.dsn .x r pte l) e 0x10 g.pc, none)
    | (s, .ok x) =>
      let pa := x.pa g.pc / 64 * 64
      if memWaits s pa 64 then (slotFront s e, none)
      else if memPoisoned s pa 64 then (raiseDispatch s e 0x20 g.pc, none)
      else
        let bytes := memRead s pa 64
        let s := icRoom (memTouch s pa 64) e line
        (s.modEng e (fun g => { g with icache := put [] g.icache line bytes }), some (w64At bytes (g.pc % 64)))

/-- Whether an engine offers slots (R37, R43). -/
def Engine.runs (g : Engine) : Bool := g.state == .running && g.migrating.isNone && !g.unplaced

/-- The instruction dispatched takes the sample that waits for it (R424). -/
def Engine.sampleDispatch (g : Engine) (q : Nat) : Engine :=
  match g.samplePend with
  | some k => { takeSample g k ⟨g.pc, g.dsn, q⟩ with samplePend := none }
  | none => g

/-- One instruction has been dispatched into the queues `mask` (R37, R421). -/
def dispatched (s : State) (e q mask : Nat) : State :=
  let s := if (s.eng e).samplePend.isSome then (bumpSeq s (siteSP (spireOf e))).2 else s
  let s := s.modEng e (fun g => { g.sampleDispatch q with dsn := (g.dsn + 1) % 2 ^ 32 })
  pmEvent e 0x01 mask 1 none s

/-- What a control instruction does: where it goes, and what it links (R78, R79). -/
structure CtlRes where
  target : Option Word := none          -- a branch or jump target
  jump   : Bool := false                -- the target is a register's and is checked for alignment
  link   : Option (Nat × Word) := none  -- S register written
deriving DecidableEq, Repr

/-- The target of a relative branch: 8 × the signed 32-bit offset from the branch (R78). -/
def relTarget (addr w : Word) : Word := addr + ((w.extractLsb' 0 32).signExtend 64 <<< 3)

/-- The comparisons of R78. -/
def branchCond (c : Nat) (a b : Word) : Bool :=
  match c with
  | 0 => a == b
  | 1 => a != b
  | 2 => a.slt b
  | 3 => !(a.slt b)
  | 4 => a.ult b
  | _ => !(a.ult b)

/-- The control class over register reads; `lanes` is the number of predicate lanes (R78, R79, R193). -/
def control (rd : Nat → Word) (pr : Nat → PReg) (lanes : Nat) (addr w : Word) : CtlRes :=
  let rel := some (relTarget addr w)
  match wOpc w with
  | 0x00 => { target := rel }
  | 0x01 => if branchCond (wImm w / 2 ^ 32) (rd (wS1 w)) (rd (wS2 w)) then { target := rel } else {}
  | 0x02 =>
    let p := (pr (wS1 w)).setWidth lanes
    let taken := match wImm w / 2 ^ 32 with
      | 0 => p != 0
      | 1 => p == BitVec.allOnes lanes
      | _ => p == 0
    if taken then { target := rel } else {}
  | 0x03 => { target := rel, link := some (wDst w, addr + 8) }
  | 0x04 => { target := some (rd (wS1 w)), jump := true, link := some (wDst w, addr + 8) }
  | 0x05 => { target := some (rd (wS1 w) + wImmS w), jump := true }
  | 0x06 =>
    let v := rd (wDst w) - 1
    { target := if v ≠ 0 then rel else none, link := some (wDst w, v) }
  | _ => {}

/-- Whether a control word must wait for registers of queued instructions (R40, R41). -/
def Engine.controlHeld (g : Engine) (w : Word) : Bool :=
  g.q0.any (fun x => regsMeet (writesS x.word) (readsAtDispatch w ++ writesS w) || regsMeet (readsS x.word) (writesS w)) ||
  g.entries.any (fun x => regsMeet (writesPVA x.word) (readsPVA w))

/-- The dispatcher executes a control word, or counts the slot in which it is held (R40, R78–R80). -/
def dispatchControl (s : State) (e : Nat) (w : Word) : State :=
  let g := s.eng e
  if g.controlHeld w then slotBack s e 1 2
  else
    let on := g.guardOf w
    if on && wOpc w == 7 && !g.queuesEmpty then slotBack s e 3 2
    else
      let r := if on then control g.sReg g.pReg 256 (BitVec.ofNat 64 g.pc) w else {}
      if r.jump && (r.target.getD 0).toNat % 8 != 0 then raiseDispatch s e 0x04 (r.target.getD 0).toNat
      else
        let s := slotDone (slotTotal s e) e (if on then 128 else 0)
        let s := dispatched s e 1 2
        s.modEng e (fun g =>
          let g := match r.link with
            | some (n, v) => g.putS n v
            | none => g
          let g := { g with pc := match r.target with
            | some t => t.toNat
            | none => (g.pc + 8) % 2 ^ 64 }
          if on && wOpc w == 7 then g.park .halt else g)

/-- Queue bits of a word, for the events of R421. -/
def queueMask (w : Word) : Nat := (wordQueues w).foldl (fun m q => m ||| 2 ^ q) 0

/-- The word enters its queues with its captured operands (R38, R41, R90), and is decoded where it stands at their heads
(R68). -/
def enqueue (s : State) (e : Nat) (w : Word) : State :=
  let g := s.eng e
  let regs : List Word := if wCls w = 4 ∧ wOpc w = 0 then (List.range 16).map (fun i => g.sReg (wS1 w + i)) else []
  let en : Entry := { dsn := g.dsn, addr := g.pc, word := w, regs := regs, s1 := g.sReg (wS1 w), s2 := g.sReg (wS2 w), sd := g.sReg (wDst w) }
  let s := dispatched s e ((wordQueues w).headD 1) (queueMask w)
  let s := s.modEng e (fun g =>
    let g := (wordQueues w).foldl (fun g q => g.push q en) g
    { g with pc := (g.pc + 8) % 2 ^ 64, hold := if holdsDispatch w then some en.dsn else g.hold })
  if wordDefined s.pkg.feature w then s else settle s e

/-- Dispatches a fetched word, reports it, or counts the slot in which it is held (R37, R39–R41, R68). -/
def dispatchWord (s : State) (e : Nat) (w : Word) : State :=
  let g := s.eng e
  if dispatcherRaises s.pkg.feature w then raiseDispatch s e 0x01 0
  else if wCls w = 1 then dispatchControl s e w
  else if (wordQueues w).any (fun q => decide (queueDepth q ≤ (g.queue q).length)) then slotBack s e 0 (queueMask w)
  else if g.q0.any (fun x => regsMeet (writesS x.word) (readsAtDispatch w)) then slotBack s e 1 (queueMask w)
  else enqueue s e w

/-- Cause of a hold by a dispatched instruction: a sync instruction, or a drain (R421). -/
def holdCause (g : Engine) (dsn : Nat) : Nat :=
  match g.entries.find? (fun en => en.dsn == dsn) with
  | some en => if wOpc en.word ≤ 3 then 2 else 3
  | none => 3

/-- One slot of an engine (R37, R43, R419). `ready` is false where fetch has no instruction ready. -/
def dispatchSlot (s : State) (e : Nat) (ready refill : Bool) : State :=
  let g := s.eng e
  let s := if g.runs && g.scHeld then pmEvent e 0x07 0xFF 1 none s else s
  if !g.runs then s
  else if !ready then slotFront s e
  else match g.hold with
    | some d => slotBack s e (holdCause g d) (queueMask (w64At (look [] g.icache (g.pc / 64)) (g.pc % 64)))
    | none =>
      match fetchWord s e refill with
      | (s, none) => s
      | (s, some w) => dispatchWord s e w

/-- A control row of an engine: the dispatcher executes it where it is the word at ENG_PC. -/
def controlRow (s : State) (e : Nat) (w : Word) : State :=
  let g := s.eng e
  if !g.runs || g.hold.isSome then s
  else match fetchWord s e false with
    | (t, some x) => if x = w ∧ wordDefined s.pkg.feature w then dispatchControl t e w else s
    | (_, none) => s

end Sys2Proof.Machine
end

