-- ==== Sys2Proof/Machine/Descriptor.lean ====
section
/-! DEFINITION. The transfer descriptor: its fields (R148), the checks at submission (R149, R151, R152, R157), the
cutting into cars (R153) and what a car reads and writes (R149–R151, R128–R132, R167). -/

namespace Sys2Proof.Machine

/-! ### Fields (R148) -/

/-- The fields of a descriptor's words. -/
structure DescF where
  opc : Nat
  xform : Nat
  sfmt : Nat
  dfmt : Nat
  guard : Bool
  prio : Nat
  rnd : Bool
  sat : Bool
  relAbort : Bool
  srcLocal : Bool
  dstLocal : Bool
  ndim : Nat
  remote : Bool
  esize : Nat
  asn : Nat
  src : Nat
  dst : Nat
  carBytes : Nat
  raw : List Nat           -- DIM0–DIM4 as given
  ctInc : Nat
  ctTc : Nat
  ctEn : Bool
  ctEngine : Nat
  dstPkg : Nat
  ss : List Int            -- SRC_STRIDE1–4
  ds : List Int            -- DST_STRIDE1–4
  record : Nat
  xbase : Nat
  zerosOk : Bool           -- the fields that R148 gives as zero
deriving DecidableEq, Repr

/-- Word `j` of a structure copied at acceptance. -/
def wordAt (l : List Word) (j : Nat) : Word := l.getD j 0

/-- The 16 words of 128 bytes, or the words of any structure's bytes (R5). -/
def wordsOf (bs : List Byte) (n : Nat) : List Word := (List.range n).map (fun j => w64At bs (8 * j))

/-- Reads the fields of a descriptor (R148). -/
def descF (l : List Word) : DescF :=
  let c := wordAt l 0
  let w (j : Nat) : Word := wordAt l j
  let st (j : Nat) : Int := (w j).toInt
  { opc := fld c 63 56, xform := fld c 55 52, sfmt := fld c 51 48, dfmt := fld c 47 44, guard := bit c 43,
    prio := fld c 42 41, rnd := bit c 40, sat := bit c 39, relAbort := bit c 38, srcLocal := bit c 37,
    dstLocal := bit c 36, ndim := fld c 35 33 + 1, remote := bit c 32, esize := fld c 31 30, asn := fld c 19 0,
    src := (w 1).toNat, dst := (w 2).toNat, carBytes := fld (w 3) 63 48,
    raw := [fld (w 3) 23 0, fld (w 3) 47 24, fld (w 4) 23 0, fld (w 4) 47 24, fld (w 5) 23 0],
    ctInc := fld (w 5) 63 56, ctTc := fld (w 5) 55 50, ctEn := bit (w 5) 49, ctEngine := fld (w 5) 47 40,
    dstPkg := fld (w 5) 39 24, ss := [st 6, st 7, st 8, st 9], ds := [st 10, st 11, st 12, st 13],
    record := (w 14).toNat, xbase := (w 15).toNat,
    zerosOk := fld c 29 20 == 0 && fld (w 4) 63 48 == 0 && !bit (w 5) 48 }

/-- The size of dimension `k`; an unused dimension acts as 1 (R149). -/
def DescF.dim (f : DescF) (k : Nat) : Nat := if k < f.ndim then natAt f.raw k else 1

/-- Stride `k` (1–4) of a list of four. -/
def strideOf (l : List Int) (k : Nat) : Int := l.getD (k - 1) 0

/-- Bits of an element of a transform format code (R148). -/
def fmtBits (c : Nat) : Nat :=
  match c with
  | 0x0 | 0x8 => 32
  | 0x1 | 0x2 => 16
  | 0x7 | 0xD => 4
  | 0xB | 0xC => 6
  | 0xF => 64
  | _ => 8

/-- MX codes. -/
def fmtIsMx (c : Nat) : Bool := decide (9 ≤ c) && decide (c ≤ 0xE)

/-- Element format of a code where it is FP32, BF16, FP16, FP8, an 8-bit integer or an MX format. -/
def fmtEl (c : Nat) : ElFmt :=
  match c with
  | 0x0 => .fp .fp32 | 0x1 => .fp .bf16 | 0x2 => .fp .fp16 | 0x3 => .fp .e4m3 | 0x4 => .fp .e5m2
  | 0x5 => .i8 | 0x6 => .u8
  | 0x9 => .mx .e4m3 | 0xA => .mx .e5m2 | 0xB => .mx .e2m3 | 0xC => .mx .e3m2 | 0xD => .mx .e2m1
  | 0xE => .mxi8
  | _ => .fp .fp64

/-- The floating-point format of a code; none for the integers. -/
def fmtFp (c : Nat) : Option FpFmt :=
  match fmtEl c with
  | .fp g => if c = 0x7 ∨ c = 0x8 then none else some g
  | _ => none

/-- Signedness of an integer code. -/
def fmtSigned (c : Nat) : Bool := c != 0x6

/-- Bits of a source element. -/
def DescF.sw (f : DescF) : Nat := if f.xform ≤ 1 then 8 * 2 ^ f.esize else fmtBits f.sfmt
/-- Bits of a destination element. -/
def DescF.dw (f : DescF) : Nat := if f.xform ≤ 1 then 8 * 2 ^ f.esize else fmtBits f.dfmt

def DescF.isMbst (f : DescF) : Bool := f.xform == 5 || f.xform == 6

/-- Whether the transform has a scale array. -/
def DescF.hasScale (f : DescF) : Bool := f.xform == 3 || f.xform == 4 || (f.isMbst && fmtIsMx f.sfmt)

/-- Whether the scale array is local: when the dense side is (R151). -/
def DescF.scaleLocal (f : DescF) : Bool := if f.xform = 3 ∨ f.xform = 5 then f.srcLocal else f.dstLocal

/-! ### Cars (R153) -/

/-- Elements of a car before rows are counted. -/
def DescF.carE (f : DescF) : Nat :=
  let e := 8 * f.carBytes / max f.sw f.dw
  if f.xform = 3 ∨ f.xform = 4 then e / 32 * 32
  else if f.sw = 4 ∨ f.dw = 4 then e / 2 * 2
  else e

/-- Rows of a full car. -/
def DescF.carK (f : DescF) : Nat := if f.dim 0 ≤ f.carE then min (f.carE / f.dim 0) (f.dim 1) else 1

/-- Cars of one sweep of dimensions 0 and 1. -/
def DescF.sweep (f : DescF) : Nat :=
  if f.dim 0 ≤ f.carE then (f.dim 1 + f.carK - 1) / f.carK
  else f.dim 1 * ((f.dim 0 + f.carE - 1) / f.carE)

/-- Cars of the descriptor. -/
def DescF.cars (f : DescF) : Nat :=
  let outer := f.dim 2 * f.dim 3 * f.dim 4
  if f.isMbst then 16 * (f.dim 1 * outer) else f.sweep * outer

/-- The index of a car's first element, the elements it takes of a row, and its rows. -/
structure CarAt where
  ix   : List Nat
  n    : Nat
  rows : Nat
deriving DecidableEq, Repr

/-- Where car `j` lies (R153). -/
def DescF.carAt (f : DescF) (j : Nat) : CarAt :=
  if f.isMbst then
    let t := j / 16
    { ix := [1024 * (j % 16), t % f.dim 1, t / f.dim 1 % f.dim 2, t / f.dim 1 / f.dim 2 % f.dim 3,
        t / f.dim 1 / f.dim 2 / f.dim 3], n := 1024, rows := 1 }
  else
    let c := j % f.sweep
    let r := j / f.sweep
    let hi := [r % f.dim 2, r / f.dim 2 % f.dim 3, r / f.dim 2 / f.dim 3]
    if f.dim 0 ≤ f.carE then
      { ix := 0 :: (c * f.carK) :: hi, n := f.dim 0, rows := min f.carK (f.dim 1 - c * f.carK) }
    else
      let per := (f.dim 0 + f.carE - 1) / f.carE
      { ix := (c % per * f.carE) :: (c / per) :: hi, n := min f.carE (f.dim 0 - c % per * f.carE), rows := 1 }

/-- The progress vector of the first car not counted; the end of the descriptor once all are (R153, R167). -/
def DescF.progress (f : DescF) (j : Nat) : List Nat :=
  if f.cars ≤ j then (List.range 5).map (fun k => if k + 1 = f.ndim then f.dim k else 0) else (f.carAt j).ix

/-! ### Addresses (R149) -/

/-- The offset that indices 1–4 give under the strides. -/
def strideSum (l : List Int) (ix : List Nat) : Int :=
  (List.range 4).foldl (fun a k => a + (natAt ix (k + 1) : Int) * strideOf l (k + 1)) 0

/-- The address of the element at an index, on a side with `w`-bit elements. -/
def elemAddr (base w : Nat) (l : List Int) (ix : List Nat) : Nat :=
  wrapN 64 ((base : Int) + (w * natAt ix 0 / 8 : Nat) + strideSum l ix)

/-- The rows of a car: the index of the first element of each. -/
def CarAt.rowIx (c : CarAt) : List (List Nat) :=
  (List.range c.rows).map (fun r => setAt c.ix 1 (natAt c.ix 1 + r))

/-- Bytes of `n` elements of `w` bits. -/
def elBytes (w n : Nat) : Nat := (w * n + 7) / 8

/-- The linear index of a row (R151). -/
def DescF.rowNo (f : DescF) (ix : List Nat) : Nat :=
  natAt ix 1 + f.dim 1 * (natAt ix 2 + f.dim 2 * (natAt ix 3 + f.dim 3 * natAt ix 4))

/-- Where the scales of a run of blocks of a row lie. -/
def DescF.scaleAddr (f : DescF) (ix : List Nat) : Nat :=
  (f.xbase + f.rowNo ix * f.dim 0 / 32 + natAt ix 0 / 32) % 2 ^ 64

/-! ### MBST tiles (R131, R132) -/

/-- Bytes of one 8 × 8 block. -/
def blockBytes (fmt : Nat) : Nat := 8 * fmtBits fmt

/-- Whether a block of a tile's map is present. -/
def mapHas (m b : Nat) : Bool := m.testBit b

/-- Present blocks of a block row. -/
def mapRow (m br : Nat) : List Nat := (List.range 16).filter (fun bc => mapHas m (16 * br + bc))

/-- Bytes of a block row record. -/
def recBytes (fmt m br : Nat) : Nat :=
  let n := (mapRow m br).length
  if n = 0 then 0 else (if fmtIsMx fmt then 32 else 0) + n * blockBytes fmt

/-- Offset of a block row record in its tile. -/
def recOff (fmt m br : Nat) : Nat := (List.range br).foldl (fun a r => a + recBytes fmt m r) 32

/-- The addresses of a tile on both sides: its first byte, without the block row. -/
def DescF.tileSrc (f : DescF) (c : CarAt) : Nat := elemAddr f.src f.sw f.ss (setAt c.ix 0 0)
def DescF.tileDst (f : DescF) (c : CarAt) : Nat := elemAddr f.dst f.dw f.ds (setAt c.ix 0 0)

/-! ### Checks at submission (R152) -/

/-- Check 0x21, and NDIM_M1 above 4 (log entry 140). -/
def DescF.fieldsOk (f : DescF) : Bool :=
  f.zerosOk && decide (f.ndim ≤ 5) && (f.opc == 1 || f.opc == 2) && decide (f.xform ≤ 6) &&
  (f.opc == 1 || (f.xform == 0 && !f.srcLocal && f.ss.all (fun x => x == 0))) &&
  (match f.xform with
   | 0 | 1 => f.sfmt == 0 && f.dfmt == 0
   | 2 => f.esize == 0 && !fmtIsMx f.sfmt && !fmtIsMx f.dfmt
   | 3 => f.esize == 0 && decide (f.sfmt ≤ 2) && fmtIsMx f.dfmt
   | 4 => f.esize == 0 && fmtIsMx f.sfmt && decide (f.dfmt ≤ 2)
   | _ => f.esize == 0 && f.sfmt == f.dfmt && (decide (f.sfmt ≤ 6) || fmtIsMx f.sfmt)) &&
  (f.hasScale || f.xbase == 0)

/-- Check 0x22. -/
def DescF.featOk (f : DescF) (feat : Nat) : Bool :=
  (!f.guard || feat.testBit 5) && (!f.rnd || feat.testBit 3) && (!f.isMbst || feat.testBit 1) &&
  (feat.testBit 2 || !(f.sfmt == 0xB || f.sfmt == 0xC || f.dfmt == 0xB || f.dfmt == 0xC))

/-- Check 0x23 but for the number of cars. -/
def DescF.dimsOk (f : DescF) : Bool :=
  (List.range 5).all (fun k =>
    if k < f.ndim then natAt f.raw k != 0
    else natAt f.raw k == 0 && (k == 0 || (strideOf f.ss k == 0 && strideOf f.ds k == 0)))

/-- Check 0x24. -/
def DescF.carOk (f : DescF) : Bool :=
  if f.isMbst then f.carBytes == 0
  else f.carBytes != 0 && decide (f.carBytes ≤ 16384) && 8 * f.carBytes % max f.sw f.dw == 0 && f.carE != 0

/-- The page bound of one side: `k` rows of `b` bytes at stride `st` (R157). -/
def pageBound (k b : Nat) (st : Int) : Nat :=
  let span := (k - 1) * (if k = 1 then b else st.natAbs) + b
  min (k * ((b + 4095) / 4096 + 1)) ((span + 4095) / 4096 + 1)

/-- Bytes of one side of a car of `n` elements, in the bound of R157. -/
def DescF.sideBytes (f : DescF) (dstSide : Bool) (n : Nat) : Nat :=
  let w := if dstSide then f.dw else f.sw
  if f.isMbst && (dstSide == (f.xform == 5)) then
    (if fmtIsMx f.sfmt then 64 else 32) + 16 * blockBytes f.sfmt
  else elBytes w n

/-- Pages that a car of `k` rows of `n` elements may need (R157). -/
def DescF.carPages (f : DescF) (k n : Nat) : Nat :=
  (if f.opc = 2 ∨ f.srcLocal then 0 else pageBound k (f.sideBytes false n) (strideOf f.ss 1)) +
  (if f.dstLocal || f.remote || f.xform == 1 then 0 else pageBound k (f.sideBytes true n) (strideOf f.ds 1)) +
  (if f.hasScale && !f.scaleLocal then 2 else 0)

/-- Check 0x25: every shape of car of the descriptor. -/
def DescF.pagesOk (f : DescF) : Bool :=
  if f.isMbst then decide (f.carPages 1 1024 ≤ 16)
  else if f.dim 0 ≤ f.carE then
    decide (f.carPages f.carK (f.dim 0) ≤ 16) &&
    (f.dim 1 % f.carK == 0 || decide (f.carPages (f.dim 1 % f.carK) (f.dim 0) ≤ 16))
  else
    decide (f.carPages 1 f.carE ≤ 16) && (f.dim 0 % f.carE == 0 || decide (f.carPages 1 (f.dim 0 % f.carE) ≤ 16))

/-- Whether a local side stays within the tile store: base, contiguous bytes, and (size, stride) of the rest. -/
def spanLocal (base contig : Nat) (l : List (Nat × Int)) : Bool :=
  let lo := l.foldl (fun a p => a + min 0 (((p.1 - 1 : Nat) : Int) * p.2)) (base : Int)
  let hi := l.foldl (fun a p => a + max 0 (((p.1 - 1 : Nat) : Int) * p.2)) ((base : Int) + contig - 1)
  decide (0 ≤ lo) && decide (hi ≤ 0x3FFFFF)

/-- Bytes of a local row: the whole of the largest tile on the compressed side of an MBST transform. -/
def DescF.rowBytes (f : DescF) (dstSide : Bool) : Nat :=
  if f.isMbst && (dstSide == (f.xform == 5)) then
    32 + (if fmtIsMx f.sfmt then 512 else 0) + 256 * blockBytes f.sfmt
  else elBytes (if dstSide then f.dw else f.sw) (f.dim 0)

/-- Every local byte that the descriptor reaches lies in the tile store (R149). -/
def DescF.localOk (f : DescF) : Bool :=
  let dims (l : List Int) : List (Nat × Int) := [1, 2, 3, 4].map (fun k => (f.dim k, strideOf l k))
  (!(f.srcLocal && f.opc == 1) || spanLocal f.src (f.rowBytes false) (dims f.ss)) &&
  (!f.dstLocal ||
    (if f.xform = 1 then spanLocal f.dst (elBytes f.dw (f.dim 1)) ((f.dim 0, strideOf f.ds 1) :: (dims f.ds).drop 1)
     else spanLocal f.dst (f.rowBytes true) (dims f.ds))) &&
  (!(f.hasScale && f.scaleLocal) ||
    (let n := f.dim 1 * f.dim 2 * f.dim 3 * f.dim 4
     spanLocal f.xbase (if f.isMbst then n * 512 else n * f.dim 0 / 32) []))

/-- Check 0x26. -/
def DescF.placesOk (f : DescF) (engine : Bool) : Bool :=
  (engine || (!f.srcLocal && !f.dstLocal)) && !(f.remote && f.dstLocal) && f.localOk

/-- Check 0x27: the alignment of an element. That an MBST tile starts 64-byte aligned (R131) is not checked (log entry
139). -/
def DescF.alignOk (f : DescF) : Bool :=
  (f.opc == 2 || f.src % max 1 (f.sw / 8) == 0) && f.dst % max 1 (f.dw / 8) == 0

/-- Check 0x2A. -/
def DescF.xformOk (f : DescF) (engine : Bool) : Bool :=
  (f.xform != 1 || f.dstLocal) &&
  (!f.rnd || (engine && ((f.xform == 2 && decide (1 ≤ f.dfmt) && decide (f.dfmt ≤ 4) && decide (f.dw < f.sw)) || f.xform == 3))) &&
  (!(f.xform == 3 || f.xform == 4) || f.dim 0 % 32 == 0) && (!f.isMbst || f.dim 0 == 16384)

/-- The check code of a descriptor, 0 where it is accepted (R152). `ctOk` says that its counter target is valid. A local
range that leaves the tile store is refused here, with 0x26, and raises no 0x02 of R45 (log entry 141). -/
def descCheck (f : DescF) (feat asn : Nat) (engine ctOk : Bool) : Nat :=
  if asn ≠ 0 ∧ f.asn ≠ asn then 0x2B
  else if !f.fieldsOk then 0x21
  else if !f.featOk feat then 0x22
  else if !f.dimsOk || decide (2 ^ 32 ≤ f.cars) then 0x23
  else if !f.carOk then 0x24
  else if !f.pagesOk then 0x25
  else if !f.placesOk engine then 0x26
  else if !f.alignOk then 0x27
  else if f.ctEn && (f.ctInc == 0 || !ctOk) then 0x28
  else if f.record % 32 ≠ 0 then 0x29
  else if !f.xformOk engine then 0x2A
  else 0

/-! ### What a car touches -/

/-- A range that a car reaches in memory: the CAUSE of its fault, address, bytes and access. -/
structure CarNeed where
  cause : Nat
  va    : Nat
  len   : Nat
  acc   : Acc
deriving DecidableEq, Repr

/-- The ranges in memory of car `j`; `m` is the tile's map for the MBST transforms (R157, R158). -/
def DescF.needs (f : DescF) (m j : Nat) : List CarNeed :=
  let c := f.carAt j
  if f.isMbst then
    let br := j % 16
    let dense (base w : Nat) : Nat := base + w * 1024 * br / 8
    let rec_ (base : Nat) : List (Nat × Nat) :=
      (if br = 0 then [(base, 32)] else []) ++
      (if recBytes f.sfmt m br = 0 then [] else [(base + recOff f.sfmt m br, recBytes f.sfmt m br)])
    let srcs := if f.xform = 5 then [(dense (f.tileSrc c) f.sw, elBytes f.sw 1024)] else rec_ (f.tileSrc c)
    let dsts := if f.xform = 5 then rec_ (f.tileDst c) else [(dense (f.tileDst c) f.dw, elBytes f.dw 1024)]
    (if f.srcLocal then [] else srcs.map (fun p => ⟨1, p.1, p.2, .r⟩)) ++
    (if f.dstLocal || f.remote then [] else dsts.map (fun p => ⟨2, p.1, p.2, .w⟩)) ++
    (if f.hasScale && !f.scaleLocal then
      [⟨3, f.xbase + 512 * f.rowNo c.ix + 32 * br, 32, if f.xform = 5 then .r else .w⟩] else [])
  else
    c.rowIx.flatMap (fun ix =>
      (if f.opc = 2 ∨ f.srcLocal then [] else [⟨1, elemAddr f.src f.sw f.ss ix, elBytes f.sw c.n, .r⟩]) ++
      (if f.dstLocal || f.remote then [] else [⟨2, elemAddr f.dst f.dw f.ds ix, elBytes f.dw c.n, .w⟩]) ++
      (if f.hasScale && !f.scaleLocal then
        [⟨3, f.scaleAddr ix, c.n / 32, if f.xform = 3 then .w else .r⟩] else []))

/-! ### What a car writes -/

/-- A byte and whether it is poisoned. -/
abbrev PByte := Byte × Bool

/-- Reads bytes for a car: from the tile store when the first argument is true. -/
abbrev CarRd := Bool → Nat → Nat → List PByte

/-- One contiguous write of a car. -/
structure CarWrite where
  loc   : Bool
  addr  : Nat
  data  : List PByte
  scale : Bool := false          -- a write of the scale array at XBASE, which is never remote (R170)
deriving DecidableEq, Repr

/-- A write at the destination. -/
def DescF.dstWrite (f : DescF) (a : Nat) (data : List PByte) : CarWrite := { loc := f.dstLocal, addr := a, data := data }

/-- A write of the scale array. -/
def DescF.scaleWrite (f : DescF) (a : Nat) (data : List PByte) : CarWrite :=
  { loc := f.scaleLocal, addr := a, data := data, scale := true }

/-- Elements of a run of bytes, with their poison: every element any of whose bytes is poisoned counts (R167). -/
def elsOf (w n : Nat) (bs : List PByte) : List (Nat × Bool) :=
  let v := leNat (bs.map Prod.fst)
  (List.range n).map (fun i =>
    (packedEl w v i, ((bs.drop (w * i / 8)).take ((w * i + w + 7) / 8 - w * i / 8)).any Prod.snd))

/-- Elements packed into bytes; a byte is poisoned when any element in it is. -/
def pack_els (w : Nat) (l : List (Nat × Bool)) : List PByte :=
  let bytes := packBytes w (l.map Prod.fst)
  bytes.zipIdx.map (fun p =>
    (p.1, (List.range l.length).any (fun i =>
      decide (w * i < 8 * p.2 + 8) && decide (8 * p.2 < w * i + w) && (l.getD i (0, false)).2)))

/-- One element under CONVERT (R151). -/
def convertEl (f : DescF) (rm : RMode) (x : Nat) : Nat :=
  match fmtFp f.sfmt, fmtFp f.dfmt with
  | some a, some b => (fpConv a b rm f.sat x).1
  | some a, none => (fpToInt a .rne (fmtSigned f.dfmt) f.dw x).1
  | none, some b => (intToFp b rm f.sat (if fmtSigned f.sfmt then sextN f.sw x else (x % 2 ^ f.sw : Nat))).1
  | none, none =>
    intToInt (fmtSigned f.dfmt) f.dw f.sat (if fmtSigned f.sfmt then sextN f.sw x else (x % 2 ^ f.sw : Nat))

/-- The rounding of element `i` of a car whose draws have key `k`. -/
def carMode (f : DescF) (k i : Nat) : RMode := if f.rnd then .sr (Config.srDraw k i).toNat else .rne

/-- The blocks of 32 of a list. -/
def blocksOf (l : List α) : List (List α) := (List.range (l.length / 32)).map (fun q => (l.drop (32 * q)).take 32)

/-- Writes of one row of a car that is not of an MBST transform. `o` is the row's first element in the car. -/
def DescF.rowWrites (f : DescF) (rd : CarRd) (k o n : Nat) (ix : List Nat) : List CarWrite :=
  let sa := elemAddr f.src f.sw f.ss ix
  let da := elemAddr f.dst f.dw f.ds ix
  if f.opc = 2 then
    [f.dstWrite da (((List.range n).flatMap (fun _ => leBytes (2 ^ f.esize) f.src)).map (fun b => (b, false)))]
  else
    let bs := rd f.srcLocal sa (elBytes f.sw n)
    match f.xform with
    | 0 => [f.dstWrite da bs]
    | 1 =>
      let eb := 2 ^ f.esize
      (List.range n).map (fun i =>
        let ix' := setAt (setAt ix 0 (natAt ix 1)) 1 (natAt ix 0 + i)
        f.dstWrite (elemAddr f.dst f.dw f.ds ix') ((bs.drop (i * eb)).take eb))
    | 2 =>
      let els := elsOf f.sw n bs
      [f.dstWrite da (pack_els f.dw (els.zipIdx.map (fun p => (convertEl f (carMode f k (o + p.2)) p.1.1, p.1.2))))]
    | 3 =>
      let out := (blocksOf (elsOf f.sw n bs)).zipIdx.map (fun p =>
        let bad := p.1.any Prod.snd
        let r := mxEncode (fmtEl f.dfmt) (fun i => carMode f k (o + 32 * p.2 + i)) f.sat
          (p.1.map (fun e => elValue (fmtEl f.sfmt) e.1))
        ((BitVec.ofNat 8 r.1, bad), r.2.1.map (fun e => (e, bad))))
      [f.dstWrite da (pack_els f.dw (out.flatMap Prod.snd)), f.scaleWrite (f.scaleAddr ix) (out.map Prod.fst)]
    | _ =>
      let sc := rd f.scaleLocal (f.scaleAddr ix) (n / 32)
      let out := (elsOf f.sw n bs).zipIdx.map (fun p =>
        let s := sc.getD (p.2 / 32) (0, false)
        ((fpConvVal ((fmtFp f.dfmt).getD .fp32) .rne f.sat (mxValue (fmtEl f.sfmt) s.1.toNat p.1.1)).1, p.1.2 || s.2))
      [f.dstWrite da (pack_els f.dw out)]

/-- The value of an element of a tile under its scale. -/
def tileVal (fmt scale w : Nat) : FVal := if fmtIsMx fmt then mxValue (fmtEl fmt) scale w else elValue (fmtEl fmt) w

/-- The map of a dense tile: element (r, k) at `128 r + k`, scales four a row; bit 256 marks poison (R131, R132). -/
def tileMap (fmt : Nat) (els : List (Nat × Bool)) (scales : List PByte) : Nat :=
  let bad := els.any Prod.snd || scales.any Prod.snd
  let present (b : Nat) : Bool :=
    (List.range 64).any (fun i =>
      let r := 8 * (b / 16) + i / 8
      let k := 8 * (b % 16) + i % 8
      let v := tileVal fmt (scales.getD (4 * r + k / 32) (0, false)).1.toNat (els.getD (128 * r + k) (0, false)).1
      !v.isZero)
  (List.range 256).foldl (fun m b => if present b then m + 2 ^ b else m) 0 + (if bad then 2 ^ 256 else 0)

/-- Where a dense tile's map is read from, and the whole tile's and its scales' ranges. -/
def DescF.denseSrc (f : DescF) (c : CarAt) : Nat × Nat := (f.tileSrc c, elBytes f.sw 16384)

/-- The map of a tile from the source (R153): formed from the dense tile, or read from the compressed one. -/
def DescF.readMap (f : DescF) (rd : CarRd) (c : CarAt) : Nat :=
  if f.xform = 5 then
    let sc := if fmtIsMx f.sfmt then rd f.scaleLocal (f.xbase + 512 * f.rowNo c.ix) 512 else []
    tileMap f.sfmt (elsOf f.sw 16384 (rd f.srcLocal (f.tileSrc c) (elBytes f.sw 16384))) sc
  else
    let bs := rd f.srcLocal (f.tileSrc c) 32
    leNat (bs.map Prod.fst) + (if bs.any Prod.snd then 2 ^ 256 else 0)

/-- The ranges that reading a tile's map needs. -/
def DescF.mapNeeds (f : DescF) (c : CarAt) : List CarNeed :=
  (if f.srcLocal then [] else [⟨1, f.tileSrc c, if f.xform = 5 then elBytes f.sw 16384 else 32, .r⟩]) ++
  (if f.xform = 5 && f.hasScale && !f.scaleLocal then [⟨3, f.xbase + 512 * f.rowNo c.ix, 512, .r⟩] else [])

/-- Marks a run of bytes. -/
def markAll (bad : Bool) (l : List Byte) : List PByte := l.map (fun b => (b, bad))

/-- Writes of a car of MBST_COMPRESS (R131, R132, R153): the map with the first car, and the block row's record. -/
def DescF.compressWrites (f : DescF) (rd : CarRd) (m j : Nat) : List CarWrite :=
  let c := f.carAt j
  let br := j % 16
  let bad := m.testBit 256
  let base := f.tileDst c
  let els := elsOf f.sw 1024 (rd f.srcLocal (f.tileSrc c + f.sw * 1024 * br / 8) (elBytes f.sw 1024))
  let head := if br = 0 then [f.dstWrite base (markAll bad (leBytes 32 (m % 2 ^ 256)))] else []
  if recBytes f.sfmt m br = 0 then head
  else
    let sc := if fmtIsMx f.sfmt then rd f.scaleLocal (f.xbase + 512 * f.rowNo c.ix + 32 * br) 32 else []
    let body := (mapRow m br).flatMap (fun bc =>
      (List.range 64).map (fun i => (els.getD (128 * (i / 8) + 8 * bc + i % 8) (0, false)).1))
    head ++ [f.dstWrite (base + recOff f.sfmt m br) (markAll bad (sc.map Prod.fst ++ packBytes f.sw body))]

/-- Writes of a car of MBST_DECOMPRESS (R131, R132, R167). -/
def DescF.decompressWrites (f : DescF) (rd : CarRd) (m j : Nat) : List CarWrite :=
  let c := f.carAt j
  let br := j % 16
  let n := recBytes f.sfmt m br
  let rec_ := if n = 0 then [] else rd f.srcLocal (f.tileSrc c + recOff f.sfmt m br) n
  let bad := m.testBit 256 || rec_.any Prod.snd
  let mx := fmtIsMx f.sfmt
  let row := mapRow m br
  let body := leNat ((rec_.drop (if mx then 32 else 0)).map Prod.fst)
  let el (r k : Nat) : Nat :=
    match row.findIdx? (fun bc => bc == k / 8) with
    | some p => packedEl f.sw body (64 * p + 8 * r + k % 8)
    | none => 0
  let dense := (List.range 1024).map (fun i => el (i / 128) (i % 128))
  let scales := (List.range 32).map (fun i =>
    if row.any (fun bc => bc / 4 == i % 4) then (rec_.getD i (0, false)).1 else 0)
  f.dstWrite (f.tileDst c + f.dw * 1024 * br / 8) (markAll bad (packBytes f.dw dense)) ::
    (if mx then [f.scaleWrite (f.xbase + 512 * f.rowNo c.ix + 32 * br) (markAll bad scales)] else [])

/-- The writes of car `j`; `k` keys its stochastic draws. -/
def DescF.writes (f : DescF) (rd : CarRd) (k m j : Nat) : List CarWrite :=
  match f.xform with
  | 5 => f.compressWrites rd m j
  | 6 => f.decompressWrites rd m j
  | _ =>
    let c := f.carAt j
    c.rowIx.zipIdx.flatMap (fun p => f.rowWrites rd k (p.2 * c.n) c.n p.1)

end Sys2Proof.Machine
end

