-- ==== Sys2Proof/Machine/Frames.lean ====
section
/-! DEFINITION. Mainline paths: which Terminus and port carry a frame, numbering, GUARD frames held at the sender, and
acknowledgement (R336–R340). -/

namespace Sys2Proof.Machine

/-- ML_ID.PKG_ID. -/
def State.pkgId (s : State) : Nat := fld s.mlId 15 0

/-- A valid package ID (R336). -/
def pkgIdOk (p : Nat) : Bool := p != 0 && p != 0xFFFF

/-- Whether a port is up. -/
def State.portUp (s : State) (p : Nat) : Bool := (s.port p).state == 2

/-- Whether a Terminus has failed electrically (R363). -/
def termFailed (s : State) (t : Nat) : Bool := s.sig.failedDies.testBit (siteTM t)

/-- Ports of a Terminus that are up. -/
def upPorts (s : State) (t : Nat) : List Nat := [4 * t, 4 * t + 1, 4 * t + 2, 4 * t + 3].filter s.portUp

/-- The Terminus that owns the path to a package (R338). -/
def pathTm (s : State) (pkg : Nat) : Nat :=
  if (upPorts s (pkg % 2)).isEmpty && !(upPorts s (1 - pkg % 2)).isEmpty then 1 - pkg % 2 else pkg % 2

/-- A port for a frame of a path, chosen by load: a free choice (R338). None while no port is up. -/
def pickPort (s : State) (pkg n : Nat) : Option Nat :=
  let ps := upPorts s (pathTm s pkg)
  ps[Config.orderPick n ps.length % max 1 ps.length]?

/-- Whether the package refuses Mainline operations locally: it is ISOLATED, or the destination is unreachable (R340,
R359). -/
def opsRefused (s : State) (pkg : Nat) : Bool := s.td.state == 0x0A || (s.path pkg).unreachable

/-- ACK_PSN: the highest PSN up to which every frame has been received. -/
def Path.ackPsn (p : Path) : Nat := (p.rxAck + 2 ^ 32 - 1) % 2 ^ 32

/-- The 32-byte header of a frame and its payload, which the CRC covers (R337). -/
def frameBytes (f : Frame337) : List Byte :=
  leBytes 4 (1 + 2 ^ 8 * (f.type % 2 ^ 8) + 2 ^ 16 * (f.flags % 2 ^ 8) + 2 ^ 24 * (f.prio % 4)) ++ leBytes 2 f.src ++
    leBytes 2 f.dst ++ leBytes 4 f.psn ++ leBytes 4 f.ackPsn ++ leBytes 2 f.stream ++ leBytes 2 f.payload.length ++
    leBytes 4 f.opTag ++ leBytes 8 f.addr ++ f.payload

/-- Whether a frame has arrived whole: its FCS holds and so does its CRC (R337). -/
def frameSound (f : Frame337) (c : FrameCheck) : Bool := c.fcsOk && c.crc == crc32c (frameBytes f)

/-- The MAC address of a port of a package, under this package's prefix (R336). -/
def macOf (s : State) (pkg port : Nat) : BitVec 48 :=
  BitVec.ofNat 48 (fld s.mlId 63 40 * 2 ^ 24 + pkg % 2 ^ 16 * 2 ^ 8 + port)

/-- The destination port of a frame: the one with the sending port's index where the latest probe response reported it
up, else one of those reported (R338). -/
def destPort (p : Path) (port n : Nat) : Nat :=
  let ups := (List.range 8).filter p.peerPorts.testBit
  if ups.contains port then port else ups.getD (Config.orderPick n ups.length % max 1 ups.length) port

/-- A frame as it leaves a port (R336–R338). -/
def onWire (s : State) (f : Frame337) (port n : Nat) : WireFrame :=
  { port := port, dmac := macOf s f.dst (destPort (s.path f.dst) port n), smac := macOf s s.pkgId port,
    tag := if bit s.mlId 27 then some (BitVec.ofNat 16 (fld s.mlId 39 28 + 2 ^ 13 * (2 * (f.prio % 4)))) else none,
    frame := f, crc := crc32c (frameBytes f) }

/-- Hands a frame to a port, without acknowledgement: acknowledgements, probes and their responses. None leaves while no
port is up. -/
def sendPlain (s : State) (f : Frame337) : State :=
  if !pkgIdOk s.pkgId then s
  else
    let n := s.fresh
    let s := n.2
    let f := { f with src := s.pkgId, ackPsn := (s.path f.dst).ackPsn }
    match pickPort s f.dst n.1 with
    | some k => { s with sent := onWire s f k (n.1 + 1) :: s.sent }
    | none => s

/-- Numbers a frame on its path, keeps it until it is acknowledged, and hands it to a port (R338). -/
def sendNow (s : State) (u : Unacked) : State :=
  let n := s.fresh
  let s := n.2
  let dst := u.frame.dst
  let p := s.path dst
  let port := pickPort s dst n.1
  let f := { u.frame with src := s.pkgId, psn := p.txPsn, ackPsn := p.ackPsn }
  let s := s.setPath dst { p with
    txPsn := (p.txPsn + 1) % 2 ^ 32, unacked := p.unacked ++ [{ u with frame := f, port := port.getD 0 }] }
  match port with
  | some k => { s with sent := onWire s f k (n.1 + 1) :: s.sent }
  | none => s

/-- A write frame. -/
def isWrite (f : Frame337) : Bool := f.type == 1 || f.type == 2

/-- Whether a GUARD write must wait for earlier writes of its stream (R339). -/
def guardBlocked (p : Path) (stream : Nat) : Bool :=
  p.unacked.any (fun u => isWrite u.frame && u.frame.stream == stream)

/-- Sends one frame; a GUARD write is held at the sender while an earlier write of its stream to the same package is
not acknowledged (R339). -/
def sendFrame (s : State) (u : Unacked) : State :=
  let p := s.path u.frame.dst
  if !pkgIdOk s.pkgId then s
  else if u.frame.type = 2 ∧ (guardBlocked p u.frame.stream || p.guarded.any (fun g => g.frame.stream == u.frame.stream)) then
    s.modPath u.frame.dst (fun p => { p with guarded := p.guarded ++ [u] })
  else sendNow s u

/-- Releases the held GUARD frames of a path, in order, whose streams have no earlier write unacknowledged. -/
def releaseGuarded (s : State) (pkg : Nat) : State :=
  (s.path pkg).guarded.foldl (fun s u =>
    if guardBlocked (s.path pkg) u.frame.stream then s
    else sendNow (s.modPath pkg (fun p => { p with guarded := p.guarded.erase u })) u) s

/-- An operation identifier for a new operation (R337). -/
def newTag (s : State) : Nat × State :=
  (s.opTag % 2 ^ 32, { s with opTag := s.opTag + 1 })

end Sys2Proof.Machine
end

