-- ==== Sys2Proof/Machine/Shunter.lean ====
section
/-! DEFINITION. Shunters: accepting descriptors, segments, cars, increments, completion records, pause, resume and abort
(R146–R170, R259, R264). -/

namespace Sys2Proof.Machine

/-! ### Streams (R146, R339) -/

/-- The engine of an engine shunter. -/
def streamEngine (st : Nat) : Option Nat := if st < 512 then some (st / 2) else none
/-- The Concourse whose Booking unit translates for a stream (R157). -/
def streamCc (st : Nat) : Nat := if st < 512 then ccOfEngine (st / 2) else (st - 512) / 16 % 4
/-- The observer as which a stream writes. -/
def streamObs (st : Nat) : Obs := if st < 512 then .submit (st / 2) else .other
/-- Descriptor slots (R146). -/
def streamSlots (st : Nat) : Nat := if st < 512 then 8 else 16

/-- Cars in flight that a stream may have: 8, or 4 on a Spire at stepping A2 under WA-02 (R146). -/
def streamLimit (s : State) (st : Nat) : Nat :=
  match streamEngine st with
  | some e =>
    if s.sig.wa.testBit 2 && (s.ident (siteSP (physSlot s e / 36))).stepping == 0x0A02 then 4 else 8
  | none => 8

/-- Cars in flight of a stream. -/
def Stream.inFlight (t : Stream) : Nat := t.slots.foldl (fun n d => n + d.inflight.length) 0

/-- Cars of a descriptor. -/
def Desc.total (d : Desc) : Nat := (descF d.words).cars

/-- Whether every car is complete. -/
def Desc.complete (d : Desc) : Bool := decide (d.total ≤ d.counted)

/-- Changes the descriptor in slot `i` of a stream. -/
def modDesc (s : State) (st i : Nat) (f : Desc → Desc) : State :=
  s.modStream st (fun t => { t with slots := t.slots.modify i f })

/-- Accepts a descriptor into a free slot with the next sequence number (R146, R147). -/
def acceptDesc (s : State) (st : Nat) (words : List Word) : State :=
  ({ s with nextKey := s.nextKey + 1 } : State).modStream st (fun t => { t with
    lastSeq := (t.lastSeq + 1) % 2 ^ 64
    slots := t.slots ++ [{ seq := (t.lastSeq + 1) % 2 ^ 64, words := words, born := s.nextKey }] })

/-! ### Records (R167) -/

/-- Bytes of a completion record. -/
def recordBytes (seq status cause flags cars : Nat) (progress : List Nat) : List Byte :=
  leBytes 8 seq ++ leBytes 1 status ++ leBytes 1 cause ++ leBytes 1 flags ++ leBytes 1 0 ++ leBytes 4 cars ++
    progress.flatMap (leBytes 3) ++ leBytes 1 0

/-- Writes a 32-byte record as two halves, bytes 16–31 first (R167). -/
def putRecord (s : State) (o : Obs) (pa : Nat) (bs : List Byte) : State :=
  memWrite (memWrite s o (pa + 16) (bs.drop 16) false) o pa (bs.take 16) false

/-- A record write: performed, waiting at its home or for its walk, or the fault's REASON, PTE and LEVEL. -/
inductive RecRes where
  | done
  | waits
  | fault (reason pte level : Nat)
deriving DecidableEq, Repr

/-- Translates a record's address and writes it. -/
def tryRecord (s : State) (cc asn va : Nat) (o : Obs) (bs : List Byte) : State × RecRes :=
  match translate s cc [cc] asn va .w false with
  | (s, .wait) => (s, .waits)
  | (s, .fault r p l) => (s, .fault r p l)
  | (s, .ok x) => if memWaits s (x.pa va) 32 then (s, .waits) else (putRecord s o (x.pa va) bs, .done)

/-- FLAGS of a descriptor's record. -/
def Desc.flags (d : Desc) (released : Bool) : Nat :=
  b2n d.poison + 2 * b2n d.resumed + 4 * b2n d.rewritten + 8 * b2n released

/-- The Siding entry of a descriptor's fault. -/
def descFault (st : Nat) (d : Desc) (kind reason access va car pte level : Nat) : FaultEnt :=
  { id := 0, reason := reason, access := access, va := va, asn := (descF d.words).asn, kind := kind,
    unit := if st < 512 then st % 2 else (st - 512) % 16, engine := (streamEngine st).getD 0xFFFF, reqSeq := d.seq,
    car := car, pte := pte, level := level }

/-- REQ_KIND of a descriptor's own faults. -/
def streamKind (st : Nat) : Nat := if st < 512 then 1 else 2

/-- Writes a descriptor's record, if it has one. A fault holds the record write and enters the Siding (R159). The
Boolean says that the record needs no further wait. -/
def descRecord (s : State) (st i status cause : Nat) (released : Bool) : State × Bool :=
  match (s.stream st).slots[i]? with
  | none => (s, false)
  | some d =>
    let f := descF d.words
    if f.record = 0 then (s, true)
    else
      let prog := f.progress (if status = 1 then f.cars else d.counted)
      let bs := recordBytes d.seq status cause (d.flags released) d.counted prog
      match tryRecord s (streamCc st) f.asn f.record (streamObs st) bs with
      | (s, .done) => (s, true)
      | (s, .waits) => (s, false)
      | (s, .fault r p l) =>
        let q := recordFault s (streamCc st) f.asn (descFault st d 4 r 2 f.record 0 p l)
        (modDesc q.1 st i (fun d => { d with recFault := some q.2 }), false)

/-! ### Counters (R155) -/

/-- `n` increments of a descriptor's counter. -/
def descInc (s : State) (f : DescF) (n : Nat) : State :=
  if f.ctEn then iter n (fun _ s => tcAdd s f.ctEngine f.ctTc f.ctInc) s else s

/-- The number of cars of the contiguous completed prefix from `k` on. -/
def prefixLen (done : NSet) (k : Nat) : Nat :=
  (List.range (done.length + 1)).foldl (fun n i => if n = i && nHas (k + i) done then n + 1 else n) 0

/-- Counts the contiguous completed prefix and applies its increments; the last car's waits for the record (R155,
R156). -/
def advanceDesc (s : State) (st i : Nat) : State :=
  match (s.stream st).slots[i]? with
  | none => s
  | some d =>
    let n := prefixLen d.done d.counted
    let total := d.total
    let inc := if total ≤ d.counted + n then n - 1 else n
    let s := modDesc s st i (fun d => { d with
      counted := d.counted + n
      done := d.done.filter (fun j => decide (d.counted + n ≤ j))
      maps := d.maps.filter (fun p => decide (d.counted + n < 16 * (p.1 + 1))) })
    descInc s (descF d.words) inc

/-! ### Segments (R157–R159) -/

/-- The slots after one more address is translated, that they are full or the walk waits, or the fault. -/
inductive SlotRes where
  | ok (l : List Xlat)
  | full
  | fault (va reason pte level : Nat)
deriving DecidableEq, Repr

/-- Translates one address into the slots, unless a slot holds it. -/
def slotXlat (s : State) (cc asn va : Nat) (acc : Acc) (l : List Xlat) : State × SlotRes :=
  let dom := domainOf s cc asn
  if l.any (fun x => x.covers asn va && (!acc.writes || x.d) && xlatCheck s dom x va acc false == 0) then (s, .ok l)
  else match translate s cc [cc] asn va acc false with
    | (s, .wait) => (s, .full)
    | (s, .fault r p lv) => (s, .fault va r p lv)
    | (s, .ok x) =>
      let rest := l.filter (fun y => !(y.vbase == x.vbase && y.size == x.size))
      if 16 ≤ rest.length then (s, .full) else (s, .ok (rest ++ [{ x with asn := asn }]))

/-- Translates what a car needs into the slots. -/
def slotNeeds (s : State) (cc asn : Nat) (needs : List CarNeed) (l : List Xlat) : State × SlotRes × Nat × Nat :=
  needs.foldl (fun st n => (pagePieces n.va n.len).foldl (fun st p =>
    match st.2.1 with
    | .ok l => let r := slotXlat st.1 cc asn p.1 n.acc l; (r.1, r.2, n.cause, n.acc.code)
    | _ => st) st) (s, .ok l, 0, 0)

/-- Bytes of memory with their poison, by physical pieces, as a reader who sees the stores `buf` finds them. -/
def memPB (s : State) (l : List (Nat × Nat)) (buf : List Store := []) : List PByte :=
  l.flatMap (fun p => (List.range p.2).map (fun i => (fwdByte s buf (p.1 + i), nHas ((p.1 + i) / 64) s.poison)))

/-- The stores that a stream sees before other observers: those of its engine that FENCE.LOC has performed (R210). -/
def streamNear (s : State) (st : Nat) : List Store :=
  match streamEngine st with
  | some e => (s.eng e).near
  | none => []

/-- Bytes of a tile store with their poison. -/
def tsPB (g : Engine) (a n : Nat) : List PByte :=
  (List.range n).map (fun i => (look 0 g.ts (a + i), nHas ((a + i) / 64) g.tsPoison))

/-- The physical pieces of a range under a list of translations; none where one is missing. -/
def slotPieces (l : List Xlat) (asn va n : Nat) : Option (List (Nat × Nat)) :=
  (pagePieces va n).mapM (fun p => (l.find? (fun x => x.covers asn p.1)).map (fun x => (x.pa p.1, p.2)))

/-- A car's reads: the engine's tile store, or memory through the translations given. -/
def carRd (s : State) (st asn : Nat) (l : List Xlat) : CarRd := fun loc a n =>
  if loc then tsPB (s.eng ((streamEngine st).getD 0)) a n else memPB s ((slotPieces l asn a n).getD []) (streamNear s st)

/-- Bringing in a tile's map: done, waiting at a home or for a walk, or a fault. -/
inductive MapRes where
  | ok
  | waits
  | fault (pf : PendFault)
deriving DecidableEq, Repr

/-- Brings in the map of the tile of car `j` where the descriptor does not hold it, through translations of its own
(R153, R158). -/
def ensureMap (s : State) (st : Nat) (f : DescF) (maps : Tab Nat) (j : Nat) : State × Tab Nat × MapRes :=
  let cc := streamCc st
  if !f.isMbst || look 0 maps (j / 16) != 0 then (s, maps, .ok)
  else
    let r := (f.mapNeeds (f.carAt j)).foldl (fun (a : State × List Xlat × MapRes) n =>
      (pagePieces n.va n.len).foldl (fun a p =>
        if a.2.2 ≠ .ok then a
        else match translate a.1 cc [cc] f.asn p.1 n.acc false with
          | (s, .wait) => (s, a.2.1, .waits)
          | (s, .fault r pte l) => (s, a.2.1, .fault ⟨j, n.cause, p.1, n.acc.code, r, pte, l⟩)
          | (s, .ok x) =>
            if memWaits s (x.pa p.1) p.2 then (s, a.2.1, .waits)
            else (memTouch s (x.pa p.1) p.2, { x with asn := f.asn } :: a.2.1, .ok)) a) (s, [], .ok)
    match r.2.2 with
    | .ok => (r.1, tabIns (j / 16) (f.readMap (carRd r.1 st f.asn r.2.1) (f.carAt j) + 1) maps, .ok)
    | w => (r.1, maps, w)

/-- A segment being formed. -/
structure Seg where
  hi    : Nat
  xlats : List Xlat
  maps  : Tab Nat
  fault : Option PendFault := none
deriving DecidableEq, Repr

/-- Extends a segment car by car while the slots hold every translation (R158). -/
def growSeg (st : Nat) (f : DescF) : Nat → State → Seg → State × Seg
  | 0, s, g => (s, g)
  | n + 1, s, g =>
    match ensureMap s st f g.maps g.hi with
    | (s, _, .waits) => (s, g)
    | (s, _, .fault pf) => (s, { g with fault := some pf })
    | (s, maps, .ok) =>
      match slotNeeds s (streamCc st) f.asn (f.needs (look 0 maps (g.hi / 16) - 1) g.hi) g.xlats with
      | (s, .ok l, _, _) => growSeg st f n s { hi := g.hi + 1, xlats := l, maps := maps }
      | (s, .full, _, _) => (s, { g with maps := maps })
      | (s, .fault va r p lv, c, a) => (s, { g with maps := maps, fault := some ⟨g.hi, c, va, a, r, p, lv⟩ })

/-- The segment that starts at car `j`. -/
def formSegment (s : State) (st : Nat) (d : Desc) (j : Nat) : State × Seg :=
  let f := descF d.words
  growSeg st f (f.cars - j) s { hi := j, xlats := [], maps := d.maps }

/-! ### Pause (R161, R166) -/

/-- Whether a pause applies to a descriptor: it runs and has a car that is not complete. -/
def Desc.canPause (d : Desc) : Bool :=
  d.phase == .running && d.ended.isNone && !decide (d.total ≤ d.counted + prefixLen d.done d.counted)

/-- Step 1 of R161: a descriptor that can pause stops issuing, and with it every later one that has issued a car. -/
def pauseAt (s : State) (st i cause : Nat) : State :=
  s.modStream st (fun t =>
    if (t.slots[i]?.map Desc.canPause).getD false then
      { t with slots := t.slots.mapIdx (fun k d =>
          if k = i then { d with phase := .pausing cause }
          else if i < k ∧ d.canPause ∧ 0 < d.issued then { d with phase := .pausing 7 }
          else d) }
    else t)

/-- A stream is held. For a keeper hold every descriptor pauses (R166), for a migration every one in flight, which is one
that has issued a car (R62; log entry 43). -/
def pauseStream (s : State) (st cause bitNo : Nat) : State :=
  s.modStream st (fun t => { t with
    hold := t.hold ||| 2 ^ bitNo
    slots := t.slots.map (fun d =>
      if d.canPause ∧ (cause = 6 ∨ 0 < d.issued) then { d with phase := .pausing cause } else d) })

/-! ### Resume (R162) -/

/-- The descriptor after a resume: it starts again at its first car not counted. -/
def Desc.restart (d : Desc) : Desc :=
  { d with phase := .running, segHi := d.counted, issued := d.counted, redo := d.done.foldl (fun t j => nIns j t) d.redo,
           done := [], landed := [], xlats := [], faultAt := none, fault := none, resumed := true }

/-- Forms the next segment of a running descriptor; a fault at its first car pauses it there (R158, R159). -/
def nextSegment (s : State) (st i : Nat) : State :=
  match (s.stream st).slots[i]? with
  | none => s
  | some d =>
    let r := formSegment s st d d.segHi
    let s := modDesc r.1 st i (fun d => { d with segHi := r.2.hi, xlats := r.2.xlats, maps := r.2.maps, faultAt := r.2.fault })
    match r.2.fault with
    | some pf => if pf.car = d.segHi then pauseAt s st i pf.cause else s
    | none => s

/-- Resumes a paused descriptor: a new first segment is formed; a fault at its first car keeps it paused and enters the
Siding (R162). -/
def resumeDesc (s : State) (st i : Nat) : State :=
  match (s.stream st).slots[i]? with
  | none => s
  | some d =>
    if d.complete then s
    else
      let r := formSegment s st d d.counted
      match r.2.fault with
      | some pf =>
        if pf.car = d.counted then
          let q := recordFault r.1 (streamCc st) (descF d.words).asn
            (descFault st d (streamKind st) pf.reason pf.access pf.va pf.car pf.pte pf.level)
          modDesc q.1 st i (fun d => { d with fault := some q.2, maps := r.2.maps })
        else modDesc r.1 st i (fun d => { d.restart with segHi := r.2.hi, xlats := r.2.xlats, maps := r.2.maps, faultAt := some pf })
      | none => modDesc r.1 st i (fun d => { d.restart with segHi := r.2.hi, xlats := r.2.xlats, maps := r.2.maps })

/-- Whether a descriptor stands in the way of later ones resuming: it is paused or pausing. -/
def Desc.stops (d : Desc) : Bool :=
  match d.phase with
  | .paused _ | .pausing _ => true
  | _ => false

/-- Paused descriptors whose cause has ended resume, in acceptance order: CAUSE 0x05 and 0x06 once nothing holds the
shunter, 0x07 once every earlier descriptor runs (R162). -/
def wakeStream (s : State) (st : Nat) : State :=
  if (s.stream st).hold ≠ 0 then s
  else iter (s.stream st).slots.length (fun i s =>
    let ds := (s.stream st).slots
    match ds[i]? with
    | none => s
    | some d =>
      if d.fault.isSome || d.recFault.isSome then s
      else match d.phase with
        | .paused 5 | .paused 6 => resumeDesc s st i
        | .paused 7 => if (ds.take i).any Desc.stops then s else resumeDesc s st i
        | _ => s) s

/-! ### The end of a descriptor (R156, R163) -/

/-- A ring whose reset has ended: unaccepted entries are discarded and ENABLE is 0 (R173). -/
def Ring.cleared (r : Ring) : Ring :=
  { r with consumer := r.producer, enable := false, resetting := false, fault := none }

/-- The end of a bulk shunter's reset, once it holds no descriptor (R173). -/
def Stream.resetDone (t : Stream) : Stream :=
  if t.ring.resetting && t.slots.isEmpty then { t with ring := t.ring.cleared } else t

/-- What follows the final record: the last increment, or the release of an aborted descriptor's waiters, and the slot
is free. -/
def descOut (s : State) (st : Nat) (d : Desc) (status : Nat) : State :=
  let f := descF d.words
  let s := s.modStream st (fun t => Stream.resetDone { t with slots := t.slots.drop 1, endedSeq := d.seq })
  if status = 1 then descInc s f 1
  else if f.relAbort then descInc s f (d.total - d.counted)
  else s

/-- The first descriptor's end, once it has come to it: the record and then its counter. With `skip` the record write
was answered with an error (R265). -/
def endHead (s : State) (st : Nat) (skip : Bool) : State :=
  match (s.stream st).slots with
  | [] => s
  | d :: _ =>
    let e : Option (Nat × Nat) :=
      if d.recFault.isSome then none
      else match d.ended with
        | some e => some e
        | none =>
          match d.phase with
          | .aborting c => if d.inflight.isEmpty then some (if d.complete then (1, 0) else (3, c)) else none
          | .running => if d.complete then some (1, 0) else none
          | _ => none
    match e with
    | none => s
    | some (status, cause) =>
      let s := modDesc s st 0 (fun d => { d with ended := some (status, cause) })
      let rel := status == 3 && (descF d.words).relAbort && (descF d.words).ctEn
      if skip then descOut s st d status
      else match descRecord s st 0 status cause rel with
        | (s, true) => descOut s st d status
        | (s, false) => s

/-- Ends descriptors in acceptance order as far as they have come (R147), and wakes what waited for them. -/
def settleStream (s : State) (st : Nat) : State :=
  wakeStream (iter (s.stream st).slots.length (fun _ s => endHead s st false) s) st

/-- A descriptor is to end ABORTED: it issues no car, and ends once its cars in flight are complete (R163). One whose
cars are all complete, or become so, ends DONE (R61, R156). -/
def abortDesc (s : State) (st i cause : Nat) : State :=
  let s := advanceDesc s st i
  modDesc s st i (fun d =>
    if d.ended.isSome || d.complete then d
    else match d.phase with
      | .aborting _ => d
      | _ => { d with phase := .aborting cause, fault := none })

/-- Every descriptor of a stream that has not come to its end aborts (R61, R173). -/
def abortStream (s : State) (st cause : Nat) : State :=
  settleStream (iter (s.stream st).slots.length (fun i s => abortDesc s st i cause) s) st

/-! ### Cars (R149–R156, R167) -/

/-- The rest of a byte run at an address: splits it where the address leaves a 64-byte line. -/
def lineRuns (a : Nat) (bs : List PByte) : List (Nat × List PByte) :=
  (linePieces a bs.length).map (fun p => (p.1, (bs.drop (p.1 - a)).take p.2))

/-- A car's bytes of one line, by offset in the line. -/
abbrev LineBytes := Tab PByte

/-- All bytes of a car's memory writes gathered by line, so that a line which a car covers whole is written whole
(R255). -/
def gatherLines (l : List (Nat × List PByte)) : Tab LineBytes :=
  l.foldl (fun t r => (lineRuns r.1 r.2).foldl (fun t q =>
    tabIns (q.1 / 64) ((q.2.zipIdx).foldl (fun b p => tabIns (q.1 % 64 + p.2) p.1 b) (look [] t (q.1 / 64))) t) t) []

/-- The maximal runs of consecutive offsets. -/
def offRuns : List (Nat × PByte) → List (Nat × List PByte)
  | [] => []
  | (o, b) :: t =>
    match offRuns t with
    | (o', bs) :: r => if o' = o + 1 then (o, b :: bs) :: r else (o, [b]) :: (o', bs) :: r
    | [] => [(o, [b])]

/-- Writes gathered lines; `keep` says which of their aligned 8-byte elements, by element address, are written (R232). A
line that receives a poisoned byte is poisoned whole (R167). -/
def writeLines (s : State) (o : Obs) (t : Tab LineBytes) (keep : Nat → Bool) : State :=
  forAll t (fun p s =>
    let bytes := p.2.filter (fun b => keep (8 * p.1 + b.1 / 8))
    let bad := bytes.any (fun b => b.2.2)
    forAll (offRuns bytes) (fun r s => lineWrite s o (p.1 * 64 + r.1) (r.2.map Prod.fst) bad) s) s

/-- The physical pieces of a car's memory write. -/
def carPieces (l : List Xlat) (asn : Nat) (w : CarWrite) : List (Nat × List PByte) :=
  (pagePieces w.addr w.data.length).foldl (fun (a : List (Nat × List PByte) × List PByte) p =>
    match l.find? (fun x => x.covers asn p.1) with
    | some x => (a.1 ++ [(x.pa p.1, a.2.take p.2)], a.2.drop p.2)
    | none => (a.1, a.2.drop p.2)) ([], w.data) |>.1

/-- The key of a car's stochastic draws: the same for a car that is rewritten (R162). -/
def carKey (st : Nat) (d : Desc) (j : Nat) : Nat := 2 ^ 64 * (((st + 1) * 2 ^ 64 + d.seq) * 2 ^ 32 + j)

/-- The writes of car `j` of a descriptor in the present state. -/
def carOut (s : State) (st : Nat) (d : Desc) (j : Nat) : List CarWrite :=
  let f := descF d.words
  f.writes (carRd s st f.asn d.xlats) (carKey st d j) (look 0 d.maps (j / 16) - 1) j

/-- Tile-store reads of a car sense the rows they touch (R47). -/
def senseCar (s : State) (st : Nat) (f : DescF) (j : Nat) : State :=
  match streamEngine st with
  | none => s
  | some e =>
    if !f.srcLocal || f.opc == 2 then s
    else
      let c := f.carAt j
      if f.isMbst then senseTs s e (elemAddr f.src f.sw f.ss c.ix) (elBytes f.sw c.n)
      else forAll c.rowIx (fun ix s => senseTs s e (elemAddr f.src f.sw f.ss ix) (elBytes f.sw c.n)) s

/-- A car reads its source: rows of the tile store are sensed, and lines of memory are read through their homes (R47, R293). -/
def readCar (s : State) (st : Nat) (d : Desc) (j : Nat) : State :=
  let f := descF d.words
  forAll ((f.needs (look 0 d.maps (j / 16) - 1) j).filter (fun n => n.acc == .r)) (fun n s =>
    forAll ((slotPieces d.xlats f.asn n.va n.len).getD []) (fun p s => memTouch s p.1 p.2) s) (senseCar s st f j)

/-- An aligned 8-byte element that a car writes, in memory or in its engine's tile store. -/
inductive Place where
  | mem (elem : Nat)
  | local (elem : Nat)
deriving DecidableEq, Repr

/-- A number for each place. -/
def Place.code : Place → Nat
  | .mem k => 2 * k
  | .local k => 2 * k + 1

/-- The runs of a gathered tile-store row that `keep` admits. -/
def rowStores (keep : Place → Bool) (p : Nat × LineBytes) : List TsWrite :=
  (offRuns (p.2.filter (fun b => keep (.local (8 * p.1 + b.1 / 8))))).map (fun r =>
    { addr := p.1 * 64 + r.1, bytes := r.2.map Prod.fst, poison := r.2.any Prod.snd })

/-- Stores of its engine that a stream sees take their place in the coherence order before a write of the stream to the same
bytes (R209, R210). -/
def flushNear (s : State) (st : Nat) (l : List (Nat × List PByte)) : State :=
  match streamEngine st with
  | none => s
  | some e =>
    if (s.eng e).near.any (fun x => l.any (fun p => storesMeet x { pa := p.1, bytes := p.2.map Prod.fst })) then
      (performStores s (.engine e) (s.eng e).near).modEng e (fun g => { g with near := [] })
    else s

/-- Applies the elements that `keep` admits of a car's writes to the tile store and to memory. -/
def carApply (s : State) (st : Nat) (d : Desc) (ws : List CarWrite) (keep : Place → Bool) : State :=
  let f := descF d.words
  let loc := (gatherLines ((ws.filter CarWrite.loc).map (fun w => (w.addr, w.data)))).flatMap (rowStores keep)
  let s := if loc.isEmpty then s else s.modEng ((streamEngine st).getD 0) (fun g => g.tsWrite loc)
  let out := (ws.filter (fun w => !w.loc)).flatMap (carPieces d.xlats f.asn)
  writeLines (flushNear s st out) (streamObs st) (gatherLines out) (fun k => keep (.mem k))

/-- Whether an element of a car in flight has landed early. -/
def Desc.hasLanded (d : Desc) (j : Nat) (p : Place) : Bool :=
  (look [] d.landed j).any (fun n => Config.freeBool n p.code)

/-- Whether an element lands when its car completes: one that has not landed, and every one of a line or row that is
poisoned, which a whole write makes good (R255). -/
def Desc.landsNow (s : State) (st : Nat) (d : Desc) (j : Nat) (p : Place) : Bool :=
  !d.hasLanded j p ||
    (match p with
     | .mem k => nHas (k / 8) s.poison
     | .local k => nHas (k / 8) (s.eng ((streamEngine st).getD 0)).tsPoison)

/-- Whether any byte of a car's writes is poisoned. -/
def carBad (ws : List CarWrite) : Bool := ws.any (fun w => w.data.any Prod.snd)

/-- Whether a car's memory waits at its home (R165, R253). -/
def carWaits (s : State) (d : Desc) (j : Nat) : Bool :=
  let f := descF d.words
  (f.needs (look 0 d.maps (j / 16) - 1) j).any (fun n =>
    ((slotPieces d.xlats f.asn n.va n.len).getD []).any (fun p => memWaits s p.1 p.2))

/-- The first descriptor that may issue a car: every earlier one has issued all of its cars, and none is paused (R147,
R161). -/
def issuable (t : Stream) : Option Nat :=
  let i := (t.slots.takeWhile (fun d => d.phase == .running && decide (d.total ≤ d.issued))).length
  match t.slots[i]? with
  | some d => if d.phase == .running && decide (d.issued < d.segHi) then some i else none
  | none => none

/-- The frames of a remote car: runs of lines of one poison state, at most 4,096 bytes each (R170, R337). -/
def remoteRuns (w : CarWrite) : List (Nat × List PByte) :=
  (lineRuns w.addr w.data).foldl (fun acc r =>
    match acc.getLast? with
    | some (a, bs) =>
      if a + bs.length = r.1 ∧ bs.length + r.2.length ≤ 4096 ∧ bs.any Prod.snd = r.2.any Prod.snd then
        acc.dropLast ++ [(a, bs ++ r.2)]
      else acc ++ [r]
    | none => acc ++ [r]) []

/-- Sends the destination writes of a remote car (R170, R339). -/
def sendCar (s : State) (st : Nat) (d : Desc) (j : Nat) (ws : List CarWrite) : State × Nat :=
  let f := descF d.words
  let runs := (ws.filter (fun w => !w.scale)).flatMap remoteRuns
  let t := newTag s
  (forAll runs.zipIdx (fun p s => sendFrame s {
    frame := { type := if f.guard then 2 else 1, flags := 4 * b2n (p.1.2.any Prod.snd) + 8 * b2n (p.2 + 1 == runs.length),
               prio := f.prio, src := s.pkgId, dst := f.dstPkg, stream := st, opTag := t.1, addr := p.1.1,
               payload := p.1.2.map Prod.fst }
    seq := d.seq, car := j }) t.2, runs.length)

/-- The package on which a descriptor's destination lies (R168). -/
def destPkg (s : State) (f : DescF) : Nat := if f.remote then f.dstPkg else s.pkgId

/-- Whether a GUARD descriptor's writes must wait for an earlier descriptor that `p` admits, to the same package (R168). -/
def guardWaits (s : State) (t : Stream) (i : Nat) (p : DescF → Bool) : Bool :=
  match t.slots[i]? with
  | none => false
  | some d =>
    let f := descF d.words
    f.guard && (t.slots.take i).any (fun x =>
      let g := descF x.words
      p g && destPkg s g == destPkg s f && !decide (x.total ≤ x.counted + prefixLen x.done x.counted))

/-- Issues the next car of a stream (R153, R154, R158). A remote car reads its source and leaves at once; its scales land
at XBASE, on this package (R170). The sender's path orders it after earlier remote cars (R339). -/
def issueCar (s : State) (st : Nat) : State :=
  let t := s.stream st
  if t.hold ≠ 0 ∨ streamLimit s st ≤ t.inFlight then s
  else match issuable t with
    | none => s
    | some i =>
      match t.slots[i]? with
      | none => s
      | some d =>
        let f := descF d.words
        let j := d.issued
        if f.remote && opsRefused s f.dstPkg then settleStream (abortDesc s st i 0x0A) st
        else if f.remote && (!pkgIdOk s.pkgId || carWaits s d j || guardWaits s t i (fun g => !g.remote)) then s
        else
          let s := modDesc s st i (fun d => { d with issued := j + 1, inflight := nIns j d.inflight })
          let s :=
            if f.remote then
              let s := readCar s st d j
              let ws := carOut s st d j
              let s := carApply s st d (ws.filter CarWrite.scale) (fun _ => true)
              let r := sendCar s st d j ws
              modDesc r.1 st i (fun d => { d with sent := put 0 d.sent j r.2, poison := d.poison || carBad ws })
            else s
          match d.faultAt with
          | some pf => if pf.car = j + 1 then pauseAt s st i pf.cause else s
          | none => s

/-- Marks a car complete: the prefix is counted, and descriptors end as far as they have come (R155, R156). -/
def carDone (s : State) (st i j : Nat) (bad : Bool) : State :=
  let s := modDesc s st i (fun d => { d with
    inflight := nDel j d.inflight, done := nIns j d.done, sent := tabDel j d.sent, landed := tabDel j d.landed
    poison := d.poison || bad
    rewritten := d.rewritten || nHas j d.redo, redo := nDel j d.redo })
  let s := match streamEngine st with
    | some e => pmEvent e 0x09 (2 ^ (st % 2)) 1 none s
    | none => s
  let s := advanceDesc s st i
  let s := modDesc s st i (fun d => match d.phase with
    | .pausing _ => if d.complete then { d with phase := .running } else d
    | _ => d)
  settleStream s st

/-- Whether the writes of car `j` of slot `i` may reach the homes: its memory does not wait there (R165), nor do earlier
writes of other descriptors come first (R168). -/
def carMayLand (s : State) (st i j : Nat) (d : Desc) : Bool :=
  !guardWaits s (s.stream st) i (fun _ => true) && !carWaits s d j

/-- Car `j` of the descriptor in slot `i` completes: what has not landed of its bytes is written (R154). A remote car is
complete once every frame of it has been acknowledged (R170). -/
def completeCar (s : State) (st i j : Nat) : State :=
  match (s.stream st).slots[i]? with
  | none => s
  | some d =>
    let f := descF d.words
    if !nHas j d.inflight then s
    else if f.remote then (if look 0 d.sent j = 0 then carDone s st i j false else s)
    else if !carMayLand s st i j d then s
    else
      let s := readCar s st d j
      let ws := carOut s st d j
      carDone (carApply s st d ws (d.landsNow s st j)) st i j (carBad ws)

/-- Elements of a car in flight land while others do not yet: any subset may be visible before the car is complete (R156,
R218, R236). -/
def landSome (s : State) (st i j : Nat) : State :=
  match (s.stream st).slots[i]? with
  | none => s
  | some d =>
    if (descF d.words).remote || !carMayLand s st i j d then s
    else
      let n := s.fresh
      let s := senseCar n.2 st (descF d.words) j
      let ws := carOut s st d j
      let s := carApply s st d ws (fun p => Config.freeBool n.1 p.code && !d.hasLanded j p)
      modDesc s st i (fun d => { d with landed := put [] d.landed j (nIns n.1 (look [] d.landed j)), poison := d.poison || carBad ws })

/-- Elements of every car in flight of a stream land. -/
def landStream (s : State) (st : Nat) : State :=
  forAll (s.stream st).slots.zipIdx (fun p s => forAll p.1.inflight (fun j s => landSome s st p.2 j) s) s

/-! ### Pausing (R161, R164) -/

/-- Steps 3–5 of R161 for the first descriptor that is pausing and has nothing in flight. With `skip` the record write
was answered with an error. Causes 1–3 write their fault, cause 4 the fault of its re-translation. -/
def pausedRecord (s : State) (st i : Nat) (skip : Bool) : State :=
  match (s.stream st).slots[i]? with
  | none => s
  | some d =>
    match d.phase with
    | .pausing cause =>
      if !d.inflight.isEmpty || d.recFault.isSome then s
      else
        let r := if skip then (s, true) else descRecord s st i 2 cause false
        if !r.2 then r.1
        else
          let s := match streamEngine st with
            | some e => pmEvent e 0x0A 0xFF 1 none r.1
            | none => r.1
          let s := modDesc s st i (fun d => { d with phase := .paused cause, xlats := [], faultAt := none })
          let s := match (if cause ≤ 3 then d.faultAt else none) with
            | some pf =>
              let q := recordFault s (streamCc st) (descF d.words).asn
                (descFault st d (streamKind st) pf.reason pf.access pf.va pf.car pf.pte pf.level)
              modDesc q.1 st i (fun d => { d with fault := some q.2 })
            | none => s
          wakeStream s st
    | _ => s

/-- The first descriptor of a stream whose PAUSED record is due. -/
def pausedDue (t : Stream) : Option Nat :=
  t.slots.findIdx? (fun d => (match d.phase with | .pausing _ => true | _ => false) && d.inflight.isEmpty && d.recFault.isNone)

/-- An invalidation reaches a descriptor that holds a matching translation: cars in flight that use it are cancelled,
having written some of their elements or none, and the descriptor pauses with CAUSE 0x04 (R160, R161, R219). -/
def invalidateDesc (s : State) (st i : Nat) (p : Xlat → Bool) : State :=
  match (s.stream st).slots[i]? with
  | none => s
  | some d =>
    if !(d.xlats.any p) || d.phase != .running || d.ended.isSome then s
    else
      let f := descF d.words
      let uses (j : Nat) : Bool := (f.needs (look 0 d.maps (j / 16) - 1) j).any (fun n =>
        (pagePieces n.va n.len).any (fun q => d.xlats.any (fun x => p x && x.covers f.asn q.1)))
      let cut := if f.remote then [] else d.inflight.filter uses
      let s := forAll cut (fun j s =>
        if carMayLand s st i j d then landSome s st i j else s) s
      let s := modDesc s st i (fun d => { d with inflight := d.inflight.filter (fun j => !cut.contains j) })
      pauseAt s st i 4

/-- The descriptor whose next segment, or whose re-translation after an invalidation, is due (R158, R162). -/
def segmentDue (t : Stream) : Option Nat :=
  t.slots.findIdx? (fun d => d.ended.isNone && d.recFault.isNone && d.fault.isNone &&
    (match d.phase with
     | .running => d.faultAt.isNone && decide (d.segHi ≤ d.issued) && d.inflight.isEmpty && d.done.isEmpty &&
         decide (d.segHi < d.total)
     | .paused 4 => t.hold == 0
     | _ => false))

/-- Translates the segment that is due. -/
def translateSegment (s : State) (st : Nat) : State :=
  match segmentDue (s.stream st) with
  | none => s
  | some i =>
    match (s.stream st).slots[i]? with
    | some d => if d.phase == .paused 4 then wakeStream (resumeDesc s st i) st else nextSegment s st i
    | none => s

end Sys2Proof.Machine
end

