-- ==== Sys2Proof/Machine/Launch.lean ====
section
/-! DEFINITION. Cupola launches: descriptors and their checks, dealing, invocations, records, pause and abort (R177–R192,
R198, R202). -/

namespace Sys2Proof.Machine

/-! ### The launch descriptor (R179) -/

/-- The fields of a launch descriptor. -/
structure LaunchF where
  opc : Nat
  kernel : Nat
  prio : Nat
  relAbort : Bool
  asn : Nat
  base : Nat
  len : Nat
  ctInc : Nat
  ctTc : Nat
  ctEn : Bool
  ctEngine : Nat
  record : Nat
  args : List Word
  zerosOk : Bool
deriving DecidableEq, Repr

/-- Reads the fields of a launch descriptor. -/
def launchF (l : List Word) : LaunchF :=
  let w (j : Nat) : Word := wordAt l j
  { opc := fld (w 0) 63 56, kernel := fld (w 0) 55 44, prio := fld (w 0) 42 41, relAbort := bit (w 0) 40, asn := fld (w 0) 19 0,
    base := (w 1).toNat, len := (w 2).toNat, ctInc := fld (w 3) 63 56, ctTc := fld (w 3) 55 50, ctEn := bit (w 3) 49,
    ctEngine := fld (w 3) 47 40, record := (w 4).toNat, args := (List.range 8).map (fun i => w (8 + i)),
    zerosOk := !bit (w 0) 43 && fld (w 0) 39 20 == 0 && !bit (w 3) 48 && fld (w 3) 39 0 == 0 && w 5 == 0 && w 6 == 0 && w 7 == 0 }

/-- Argument `i`. -/
def LaunchF.arg (f : LaunchF) (i : Nat) : Nat := (wordAt f.args i).toNat

/-- Provided kernels (R202). -/
def providedKernels : List Nat := [0x001, 0x002, 0x003, 0x010, 0x011, 0x020, 0x030, 0x040, 0x050, 0x060, 0x070, 0x071, 0x072, 0x073, 0x080]

/-- Whether firmware component 3, the kernel loader with the provided kernels, failed its digest (R410). -/
def loaderFailed (s : State) : Bool := (s.fwOf 0).failed.testBit 2 || (s.fwOf 1).failed.testBit 2

/-- Check 0x42: the kernel is installed and may be launched (R180, R198, R410). -/
def kernelOk (s : State) (f : LaunchF) : Bool :=
  if loaderFailed s then false
  else if f.kernel < 0x100 then providedKernels.contains f.kernel && (!(f.kernel == 0x72 || f.kernel == 0x73) || s.feat 1)
  else if f.kernel < 0x140 then
    let k := s.kernel (f.kernel - 0x100)
    s.feat 4 && !k.code.isEmpty && (f.asn == 0 || k.owner == 0 || k.owner == f.asn)
  else false

/-- MX codes of R148 that the feature level allows. -/
def mxCodeOk (s : State) (c : Nat) : Bool := fmtIsMx c && (s.feat 2 || !(c == 0xB || c == 0xC))

/-- Bytes of an element of the formats of SCATTER and SEG_REDUCE. -/
def redBytes (c : Nat) : Nat :=
  match c with
  | 0x1 => 2
  | 0x0 | 0x8 => 4
  | _ => 8

/-- The static argument rules of the provided kernels (R202, R203). -/
def argsOk (s : State) (f : LaunchF) : Bool :=
  let a := f.arg
  let zeroFrom (n : Nat) : Bool := (f.args.drop n).all (fun w => w == 0)
  match f.kernel with
  | 0x001 =>
    (a 1 == 1 || a 1 == 2 || a 1 == 4 || a 1 == 8) && zeroFrom 2
  | 0x002 => a 0 % 64 == 0 && zeroFrom 1
  | 0x003 => a 0 % 8 == 0 && zeroFrom 1
  | 0x010 =>
    decide (8 ≤ a 1) && decide (a 1 ≤ 2048) && a 1 % 8 == 0 && decide (a 3 ≤ 1) && a 0 % 8 == 0 && zeroFrom 4
  | 0x011 =>
    let mode := a 4 % 4
    let fmt := a 4 / 16 % 16
    decide (8 ≤ a 1) && decide (a 1 ≤ 2048) && a 1 % 8 == 0 && decide (a 3 ≤ 1) && a 0 % 8 == 0 &&
      decide (mode ≤ 2) && a 4 / 4 % 4 == 0 && decide (a 4 < 256) &&
      (if mode = 0 then fmt == 0 else if mode = 1 then fmt == 0x8
       else fmt == 0x0 || fmt == 0x1 || fmt == 0xF) && (mode == 0 || a 2 % redBytes fmt == 0) && zeroFrom 5
  | 0x020 =>
    let fmt := a 2 % 16
    (fmt == 0x0 || fmt == 0x1 || fmt == 0x8 || fmt == 0xF || fmt == 0xA) && decide (a 2 / 16 ≤ 2) &&
      a 0 % 4 == 0 && a 1 % redBytes fmt == 0 && f.base % redBytes fmt == 0 && zeroFrom 3
  | 0x030 =>
    (a 2 == 0x0 || a 2 == 0xF) && f.base % 2048 == 0 && f.len % 2048 == 0 &&
      a 0 % (if a 2 = 0 then 4 else 8) == 0 && a 1 % (if a 2 = 0 then 4 else 8) == 0 && zeroFrom 3
  | 0x040 =>
    decide (1 ≤ a 1) && decide (a 1 ≤ 1024) && decide (a 2 ≤ 1) && a 0 % redBytes (a 2) == 0 && a 3 % 4 == 0 &&
      a 4 % redBytes (a 2) == 0 && zeroFrom 5
  | 0x050 => a 0 % 8 == 0 && decide (a 2 < 32) && a 3 % 8 == 0 && zeroFrom 4
  | 0x060 =>
    let k := a 2 % 256
    let ty := a 2 / 256 % 16
    decide (1 ≤ k) && decide (k ≤ 32) && (ty == 0 || ty == 1 || ty == 9 || ty == 0xA) && decide (a 2 < 2 ^ 13) &&
      a 0 % 4 == 0 && a 1 % 8 == 0 && a 3 % 8 == 0 && zeroFrom 4
  | 0x070 =>
    let sf := a 2 % 16
    decide (sf ≤ 2) && mxCodeOk s (a 2 / 16 % 16) && decide (a 2 < 512) && f.len % (4 * fmtBits sf) == 0 && zeroFrom 3
  | 0x071 =>
    let sf := a 2 % 16
    mxCodeOk s sf && decide (a 2 / 16 % 16 ≤ 2) && decide (a 2 < 512) && f.len % (4 * fmtBits sf) == 0 &&
      zeroFrom 3
  | 0x072 | 0x073 =>
    (decide (a 2 ≤ 6) || mxCodeOk s (a 2)) && (fmtIsMx (a 2) || a 1 == 0) && zeroFrom 3
  | 0x080 =>
    a 2 % 4 == 0 && a 3 % 32 == 0 && a 4 != 0 && mxCodeOk s (a 5) && zeroFrom 6
  | _ => true

/-- The check code of a launch descriptor, 0 where it is accepted (R180). -/
def launchCheck (s : State) (f : LaunchF) (asn : Nat) (ctOk : Bool) : Nat :=
  if asn ≠ 0 ∧ f.asn ≠ asn then 0x47
  else if !f.zerosOk || f.opc != 1 then 0x41
  else if !kernelOk s f then 0x42
  else if f.base % 64 ≠ 0 ∨ f.len % 64 ≠ 0 ∨ 2 ^ 40 ≤ f.len then 0x43
  else if f.ctEn && (f.ctInc == 0 || !ctOk) then 0x44
  else if f.record % 32 ≠ 0 then 0x45
  else if f.kernel < 0x100 ∧ !argsOk s f then 0x46
  else 0

/-! ### Held launches -/

/-- A held launch. -/
def findLaunch (s : State) (k : Nat) : Option Launch := (s.launches.find? (fun p => p.1 == k)).map Prod.snd

/-- Changes a held launch. -/
def modLaunch (s : State) (k : Nat) (f : Launch → Launch) : State :=
  { s with launches := s.launches.map (fun p => if p.1 = k then (k, f p.2) else p) }

/-- The observer as which a launch writes. -/
def launchObs (l : Launch) : Obs :=
  match l.engine with
  | some e => .submit e
  | none => .other

/-- Whether the keepers hold safe (R375). -/
def State.holding (s : State) : Bool := s.sig.keeper == .hold || s.sig.keeper == .holdRefused

/-- Whether the package stops its work for a warm reset or for standby (R390, R397). -/
def State.stopping (s : State) : Bool := s.pkg.pwr == .warmReset || s.pkg.pwr == .enteringStandby

/-- Whether nothing new is accepted (R375, R390). -/
def State.shut (s : State) : Bool := s.holding || s.stopping

/-- Whether a launch's record and counter wait for a migration's switch (R191). -/
def launchMigrates (s : State) (l : Launch) : Bool :=
  match l.engine with
  | some e => (s.eng e).migrating.isSome
  | none => false

/-- Bytes of a launch record (R185). -/
def launchRecord (l : Launch) (status cause : Nat) (released : Bool) : List Byte :=
  let f := launchF l.words
  leBytes 8 l.seq ++ leBytes 1 status ++ leBytes 1 cause ++
    leBytes 1 (b2n l.poison + 2 * b2n l.resumed + 8 * b2n released) ++ leBytes 1 0 ++ leBytes 4 l.ended ++
    leBytes 8 (if status = 1 then f.len else l.dealtTo) ++ leBytes 4 l.fetched ++ leBytes 4 l.faultUnit

/-- A launch's Siding entry. -/
def launchFault (l : Launch) (kind reason access va pte level unit : Nat) : FaultEnt :=
  { id := 0, reason := reason, access := access, va := va, asn := (launchF l.words).asn, kind := kind,
    unit := if l.engine.isSome then 0 else 0x10 + l.ring % 4, engine := l.engine.getD 0xFFFF, reqSeq := l.seq,
    channel := unit, pte := pte, level := level }

/-- Writes a launch's record where it has one; a fault holds the write (R184, R265). -/
def putLaunchRecord (s : State) (k status cause : Nat) (released : Bool) : State × Bool :=
  match findLaunch s k with
  | none => (s, false)
  | some l =>
    let f := launchF l.words
    if f.record = 0 then (s, true)
    else match tryRecord s l.cc f.asn f.record (launchObs l) (launchRecord l status cause released) with
      | (s, .done) => (s, true)
      | (s, .waits) => (s, false)
      | (s, .fault r p lv) =>
        let q := recordFault s l.cc f.asn (launchFault l 4 r 2 f.record p lv 0xFFFFFFFF)
        (modLaunch q.1 k (fun l => { l with recFault := some q.2 }), false)

/-- Writes a PAUSED record (R188–R191). -/
def pauseLaunch (s : State) (k cause unit : Nat) : State :=
  let s := modLaunch s k (fun l => { l with paused := some cause, faultUnit := unit })
  let s := match findLaunch s k with
    | some l => (match l.engine with | some e => pmEvent e 0x0A 0xFF 1 none s | none => s)
    | none => s
  let r := putLaunchRecord s k 2 cause false
  if r.2 then r.1
  else modLaunch r.1 k (fun l => { l with pauseRec := if l.recFault.isSome then none else some cause })

/-- A PAUSED record that waited for its line is tried again. -/
def pauseAgain (s : State) (k : Nat) : State :=
  match findLaunch s k with
  | none => s
  | some l =>
    match l.pauseRec with
    | none => s
    | some c =>
      let r := putLaunchRecord s k 2 c false
      if r.2 then modLaunch r.1 k (fun l => { l with pauseRec := none })
      else modLaunch r.1 k (fun l => { l with pauseRec := if l.recFault.isSome then none else some c })

/-- The launch goes on after a pause. -/
def continueLaunch (s : State) (k : Nat) : State :=
  modLaunch s k (fun l => { l with paused := none, pauseRec := none, resumed := true, faultUnit := 0xFFFFFFFF })

/-- Every invocation of a launch has ended, and it is dealt whole or aborting. -/
def Launch.past (l : Launch) : Bool :=
  l.running.isEmpty && l.recFault.isNone &&
  (l.aborting.isSome ||
    (decide ((launchF l.words).len ≤ l.dealtTo) && l.waiting.isEmpty && l.rangeFault.isNone))

/-- Launches that a ring's coordinator holds for it. -/
def ringLaunches (s : State) (r : Nat) : List Nat :=
  (s.launches.filter (fun p => p.2.engine.isNone && p.2.ring == r)).map Prod.fst

/-- The end of a launch ring's reset, once none of its launches is held (R173, R201). -/
def clResetDone (s : State) (r : Nat) : State :=
  if (s.clRing r).resetting && (ringLaunches s r).isEmpty then s.modClRing r Ring.cleared else s

/-- What follows the final record: the counter, and the launch is no longer held (R184, R190). -/
def launchOut (s : State) (k : Nat) (l : Launch) : State :=
  let f := launchF l.words
  let s := { s with launches := s.launches.filter (fun p => p.1 != k) }
  let s := if l.engine.isNone then clResetDone (s.modClRing l.ring (fun r => { r with seqEnded := l.seq })) l.ring else s
  if f.ctEn ∧ (l.aborting.isNone ∨ f.relAbort) then tcAdd s f.ctEngine f.ctTc f.ctInc else s

/-- Ends a launch that is over: DONE, or ABORTED with its cause (R184, R190). While the keepers hold safe it pauses once
no invocation of it runs (R191). With `skip` the record write was answered
with an error. -/
def finishLaunch (s : State) (k : Nat) (skip : Bool) : State :=
  match findLaunch s k with
  | none => s
  | some l =>
    if s.holding then (if l.running.isEmpty && l.paused.isNone then pauseLaunch s k 6 0xFFFFFFFF else s)
    else if !l.past || launchMigrates s l then s
    else
      let f := launchF l.words
      let rel := l.aborting.isSome && f.relAbort && f.ctEn
      let r := if skip then (s, true) else putLaunchRecord s k (if l.aborting.isSome then 3 else 1) (l.aborting.getD 0) rel
      if r.2 then launchOut r.1 k l else r.1

/-- Accepts a launch with the next sequence number of its submitter; one of length zero ends at once (R180–R182). -/
def acceptLaunch (s : State) (cc : Nat) (engine : Option Nat) (ring : Nat) (words : List Word) : State :=
  let k := s.nextKey
  let p : Nat × State := match engine with
    | some e =>
      let q := ((s.eng e).launchSeq + 1) % 2 ^ 64
      (q, s.modEng e (fun g => { g with launchSeq := q }))
    | none =>
      let q := ((s.clRing ring).seqLast + 1) % 2 ^ 64
      (q, s.modClRing ring (fun r => { r with seqLast := q }))
  let s := { p.2 with
    nextKey := k + 1
    launches := p.2.launches ++ [(k, { cc := cc, engine := engine, ring := ring, seq := p.1, words := words })] }
  if (launchF words).len = 0 then finishLaunch s k false else s

/-! ### Invocations (R183) -/

/-- Drains a Cupola unit's store buffer: its writes become visible (R184, R221). -/
def drainUnit (s : State) (u : Nat) : State :=
  let o := match (s.unit u).inv with
    | some i => (match findLaunch s i.launch with | some l => launchObs l | none => .other)
    | none => .other
  (performStores s o (s.unit u).stores).modUnit u (fun c => { c with stores := [] })

/-- Takes a unit's invocation off it. -/
def dropInvoc (s : State) (u : Nat) : State :=
  match (s.unit u).inv with
  | none => s
  | some i =>
    let s := drainUnit s u
    modLaunch (s.modUnit u (fun c => { c with inv := none })) i.launch (fun l => { l with running := nDel i.granule l.running })

/-- Aborts a launch: no further invocation starts, held ones end, running ones complete first (R190). -/
def abortLaunch (s : State) (k cause unit : Nat) : State :=
  match findLaunch s k with
  | none => s
  | some l =>
    if l.aborting.isSome then s
    else
      let s := modLaunch s k (fun l => { l with
        aborting := some cause, waiting := [], rangeFault := none, paused := none, pauseRec := none, faultUnit := unit })
      let s := forAll (s.units.filterMap (fun p => match p.2.inv with
        | some i => if i.launch = k ∧ i.fault.isSome then some p.1 else none
        | none => none)) (fun u s => dropInvoc s u) s
      finishLaunch s k false

/-- A kernel exception: the invocation ends at once and the launch aborts with CAUSE 0x80 | code (R197). -/
def kernelExc (s : State) (u code : Nat) : State :=
  match (s.unit u).inv with
  | none => s
  | some i => finishLaunch (abortLaunch (dropInvoc s u) i.launch (0x80 + code % 128) u) i.launch false

/-- The invocation of a unit ends normally (R183, R184). -/
def endInvoc (s : State) (u : Nat) : State :=
  match (s.unit u).inv with
  | none => s
  | some i => finishLaunch (modLaunch (dropInvoc s u) i.launch (fun l => { l with ended := l.ended + 1 })) i.launch false

/-- A kernel access faulted: the invocation is held and the launch pauses (R188). -/
def holdInvoc (s : State) (u va reason pte level : Nat) (acc : Acc) : State :=
  match (s.unit u).inv with
  | none => s
  | some i =>
    match findLaunch s i.launch with
    | none => s
    | some l =>
      if l.aborting.isSome then finishLaunch (dropInvoc s u) i.launch false
      else
        let q := recordFault s l.cc (launchF l.words).asn (launchFault l 6 reason acc.code va pte level u)
        let s := q.1.modUnit u (fun c => { c with inv := c.inv.map (fun i => { i with fault := some q.2, faultW := acc.writes }) })
        pauseLaunch s i.launch 0x0D u

/-- Marks the launch of a unit's invocation as having written poison. -/
def markPoison (s : State) (u : Nat) : State :=
  match (s.unit u).inv with
  | none => s
  | some i => modLaunch s i.launch (fun l => { l with poison := true })

/-- 1,024 unspecified bits. -/
def freeV (n i : Nat) : VReg :=
  (List.range 16).foldl (fun v j => v ||| ((Config.freeWord n (i * 16 + j)).setWidth 2048 <<< (64 * j))) 0

/-- The registers at an invocation's start (R183). -/
def startUnit (s : State) (u : Nat) (l : Launch) (k off n : Nat) : State :=
  let f := launchF l.words
  let p := s.fresh
  let w (v : Nat) : Word := BitVec.ofNat 64 v
  let regs : List (Nat × Word) :=
    [(1, w (f.base + off)), (2, w n), (3, w off), (4, w u)] ++ (List.range 8).map (fun i => (8 + i, wordAt f.args i))
  p.2.modUnit u (fun c => { c with
    s := regs.foldl (fun t r => put 0 t r.1 r.2) []
    p := (List.range 7).foldl (fun t i => tabIns (i + 1) (BitVec.ofNat 256 (2 ^ 128 - 1)) t) []
    v := (List.range 32).foldl (fun t i => put 0 t i (freeV p.1 i)) []
    vp := []
    scratch := []
    scrPoison := []
    scrFree := p.1
    earlier := none
    inv := some { launch := k, granule := off, kernel := f.kernel,
                  pos := if f.kernel < 0x100 then 0 else (s.kernel (f.kernel - 0x100)).entry } })

/-! ### Dealing (R182, R187, R189) -/

/-- The page of a launch that holds an offset. -/
def pageAt (l : Launch) (off : Nat) : Option DealtPage :=
  let va := (launchF l.words).base + off
  l.pages.find? (fun p => decide (p.x.vbase ≤ va) && decide (va < p.x.vbase + p.x.size))

/-- The end of the part of the range that a page covers, as an offset. -/
def pageEnd (f : LaunchF) (x : Xlat) : Nat := min f.len (x.vbase + x.size - f.base)

/-- Offsets of the granules of a part of the range. -/
def granules (f : LaunchF) (off stop : Nat) : List Nat :=
  if stop ≤ off then []
  else
    let first := (f.base + off) / 2048
    (List.range ((f.base + stop - 1) / 2048 + 1 - first)).map (fun i => max off ((first + i) * 2048 - f.base))

/-- Bytes of the granule at an offset that lie in the range. -/
def granuleLen (f : LaunchF) (off : Nat) : Nat :=
  min f.len (((f.base + off) / 2048 + 1) * 2048 - f.base) - off

/-- Records a range fault, which holds dealing (R189). -/
def rangeFaulted (s : State) (k : Nat) (l : Launch) (va r pte lv : Nat) : State :=
  let q := recordFault s l.cc (launchF l.words).asn (launchFault l 5 r 1 va pte lv 0xFFFFFFFF)
  pauseLaunch (modLaunch q.1 k (fun l => { l with rangeFault := some q.2 })) k 1 0xFFFFFFFF

/-- The tiles of a page of a launch from an offset to `stop`. -/
def pageTiles (f : LaunchF) (x : Xlat) (off stop : Nat) : List Nat :=
  let lo := x.pa (f.base + off) / 65536
  (List.range ((x.pa (f.base + stop - 1)) / 65536 + 1 - lo)).map (fun i => lo + i)

/-- Tiles in HBM that may not be moved out: pinned within the limit, held by a launch, or locked (R244). -/
def stuckTiles (s : State) : NSet :=
  let add (t : NSet) (l : List Nat) : NSet := (l.filter (residentTile s)).foldl (fun t i => nIns i t) t
  let pinned := (s.tiles.filter (fun p => p.2.place == 1)).map Prod.fst
  let moving := s.migs.flatMap (fun m => m.tile :: (match m.victim with | some v => [v.1] | none => []))
  add (add (add (s.launches.foldl (fun t p => add t p.2.held) []) pinned) moving) (s.recovering.map (· / 1024))

/-- HBM frames that the Turntables cannot free: those of such tiles, and those to which a tile is on its way (R244). -/
def stuckFrames (s : State) : Nat :=
  (stuckTiles s).length + countIf (fun m : Migration => m.victim.isNone && (match m.dest with | .hbm _ => true | .slow _ => false)) s.migs

/-- Whether a page may be dealt: every frame that its tiles need can be freed, beside those of the dealt tiles that have
not come in yet (R245). -/
def mayDeal (s : State) (l : Launch) (tiles : List Nat) : Bool :=
  let far := tiles.filter (fun t => !residentTile s t && !nHas t l.held)
  let due := s.launches.foldl (fun n p => p.2.late.foldl (fun n t => nIns t n) n) []
  far.isEmpty || decide (stuckFrames s + countIf (fun t => !residentTile s t && !s.migs.any (fun m => m.tile == t)) due +
    far.length ≤ s.hFrames)

/-- A page of a launch is dealt at an offset: the launch holds its tiles to `stop`, those that are not resident are asked
for at the express class, and each of them is counted (R182, R187). -/
def dealTiles (s : State) (k : Nat) (f : LaunchF) (x : Xlat) (off stop : Nat) : State :=
  let tiles := pageTiles f x off stop
  modLaunch s k (fun l =>
    let far := tiles.filter (fun t => !residentTile s t && !nHas t l.held)
    { l with
      fetched := l.fetched + far.length
      held := tiles.foldl (fun t i => nIns i t) l.held
      late := far.foldl (fun t i => nIns i t) l.late })

/-- Granules of a launch that wait on an invalidated page, with the page (R189). -/
def Launch.stale (l : Launch) : List (Nat × DealtPage) :=
  l.waiting.filterMap (fun g => match pageAt l g with
    | some p => if p.invalidated then some (g, p) else none
    | none => none)

/-- Whether an offset lies on a page. -/
def DealtPage.has (p : DealtPage) (f : LaunchF) (off : Nat) : Bool :=
  decide (p.x.vbase ≤ f.base + off) && decide (f.base + off < p.x.vbase + p.x.size)

/-- Translates a stale granule's page again once the invocations of the page have ended. The old page stays while a granule
waits on it that the new one does not cover (R189). -/
def redealPage (s : State) (k : Nat) (l : Launch) (off : Nat) (pg : DealtPage) : State :=
  let f := launchF l.words
  if l.running.any (fun o => pg.has f o) then s
  else match translate s l.cc [l.cc] f.asn (f.base + off) .r false with
    | (_, .wait) => s
    | (s, .fault r pte lv) => rangeFaulted s k l (f.base + off) r pte lv
    | (s, .ok x) =>
      if !mayDeal s l (pageTiles f x off (pageEnd f x)) then s else
      let new : DealtPage := { x := x, off := off }
      let left := l.waiting.any (fun g => pg.has f g && !new.has f g)
      let s := modLaunch s k (fun l => { l with pages := new :: (if left then l.pages else l.pages.filter (fun p => p != pg)) })
      dealTiles s k f x off (pageEnd f x)

/-- Deals the next page, or translates again a page whose translation was invalidated and on which a granule waits
(R182, R189). -/
def dealPage (s : State) (k : Nat) : State :=
  match findLaunch s k with
  | none => s
  | some l =>
    let f := launchF l.words
    if l.aborting.isSome || l.rangeFault.isSome || s.holding then s
    else match l.stale with
      | (off, pg) :: _ => redealPage s k l off pg
      | [] =>
        if f.len ≤ l.dealtTo then s
        else
          let va := f.base + l.dealtTo
          match translate s l.cc [l.cc] f.asn va .r false with
          | (_, .wait) => s
          | (s, .fault r pte lv) => rangeFaulted s k l va r pte lv
          | (s, .ok x) =>
            let stop := pageEnd f x
            if !mayDeal s l (pageTiles f x l.dealtTo stop) then s else
            let s := modLaunch s k (fun l => { l with
              pages := l.pages ++ [{ x := x, off := l.dealtTo }]
              waiting := (granules f l.dealtTo stop).foldl (fun t g => nIns g t) l.waiting
              dealtTo := stop })
            dealTiles s k f x l.dealtTo stop

/-! ### Which invocation a unit runs next (R186) -/

/-- The unit that a waiting granule has reached, and the address of the granule. -/
def granuleAt (s : State) (l : Launch) (off : Nat) : Option (Nat × Nat) :=
  match pageAt l off with
  | none => none
  | some pg =>
    if !nHas off l.waiting || pg.invalidated || l.aborting.isSome then none
    else
      let pa := pg.x.pa ((launchF l.words).base + off)
      (unitOfPa s pa).map (fun u => (u, pa))

/-- The unit on which a granule's invocation may start as far as its tile and stack go (R187, R288). -/
def startable (s : State) (l : Launch) (off : Nat) : Option Nat :=
  match granuleAt s l off with
  | none => none
  | some (u, pa) =>
    if s.holding || memWaits s pa 64 || decide (3 ≤ (s.stack (u / 32)).thermal) || s.sig.moving == some u then none else some u

/-- Whether an invocation of a launch waits at a unit or runs on it. -/
def reachesUnit (s : State) (u k : Nat) (l : Launch) : Bool :=
  l.waiting.any (fun off => (granuleAt s l off).map Prod.fst == some u) ||
    ((s.unit u).inv.map Invoc.launch == some k)

/-- The launches of which a unit holds invocations, at most eight, in the order of rotation. One that reaches it later
follows those it holds; of several, in the order of their acceptance (log entry 144). -/
def unitHolds (s : State) (u : Nat) : List Nat :=
  let here := (s.launches.filter (fun p => reachesUnit s u p.1 p.2)).map Prod.fst
  let old := (s.unit u).held.filter (fun k => here.contains k)
  (old ++ here.filter (fun k => !old.contains k)).take 8

/-- The priority class of a held launch. -/
def launchPrio (s : State) (k : Nat) : Nat := ((findLaunch s k).map (fun l => (launchF l.words).prio)).getD 0

/-- The launches of a unit that have an invocation ready to start there, in the order of rotation. -/
def unitReady (s : State) (u : Nat) : List Nat :=
  (unitHolds s u).filter (fun k => match findLaunch s k with
    | some l => l.waiting.any (fun off => startable s l off == some u)
    | none => false)

/-- Whether a class has had its share of the present round: 8, 4, 2 and 1 for classes 3, 2, 1 and 0 (R169). -/
def CupUnit.hadShare (c : CupUnit) (cls : Nat) : Bool := decide (2 ^ cls ≤ look 0 c.taken cls)

/-- Whether every class with a launch ready has had its share: a new round begins. -/
def roundOver (s : State) (u : Nat) : Bool := (unitReady s u).all (fun k => (s.unit u).hadShare (launchPrio s k))

/-- Whether a unit may choose a launch's invocation next: the class has a share left in the round, and the launch is the
first of its class in rotation (R169, R186; log entry 144). -/
def mayChoose (s : State) (u k : Nat) : Bool :=
  ((unitReady s u).find? (fun j => launchPrio s j == launchPrio s k) == some k) &&
    (roundOver s u || !(s.unit u).hadShare (launchPrio s k))

/-- The unit's turns after it has chosen a launch: the launch is the last in rotation, and its class has one start more. -/
def unitTurn (s : State) (u k : Nat) : State :=
  let ended := roundOver s u
  let held := unitHolds s u
  let cls := launchPrio s k
  s.modUnit u (fun c => { c with
    held := held.erase k ++ [k]
    taken := if ended then put 0 [] cls 1 else put 0 c.taken cls (look 0 c.taken cls + 1) })

/-- Starts the invocation of a granule on the unit whose channel holds it (R182, R183, R186, R187). -/
def startInvoc (s : State) (k off : Nat) : State :=
  match findLaunch s k with
  | none => s
  | some l =>
    match startable s l off with
    | none => s
    | some u =>
      if (s.unit u).inv.isSome || !mayChoose s u k then s
      else
        let f := launchF l.words
        let late := match granuleAt s l off with
          | some (_, pa) => nHas (pa / 65536) l.late
          | none => false
        let s := startUnit (unitTurn s u k) u l k off (granuleLen f off)
        let s := modLaunch s k (fun l => { l with waiting := nDel off l.waiting, running := nIns off l.running })
        let s := cuEvent u 0x01 1 s
        if late then cuEvent u 0x05 1 (s.modUnit u (fun c => { c with inv := c.inv.map (fun i => { i with waited := true }) })) else s

end Sys2Proof.Machine
end

