-- ==== Sys2Proof/Machine/Agent.lean ====
section
/-! DEFINITION. Who executes a Melza instruction: an engine at the head of its queues, or the invocation running on a
Cupola unit (R193). One set of operations for both: readiness, guards, registers, the tile store or scratch, exceptions
and completion. -/

namespace Sys2Proof.Machine

/-! ### The Cupola profile (R193–R195) -/

/-- Words of class 4 of the Cupola profile (R194). -/
def usesCupMem (o : Nat) : Option Uses :=
  match o with
  | 0x00 | 0x01 => some ⟨true, true, true, immMask 18 0⟩
  | 0x02 | 0x03 => some ⟨true, true, true, immMask 34 31 + immMask 27 27⟩
  | 0x04 => some ⟨true, true, true, immMask 34 28⟩
  | 0x05 => some ⟨true, true, true, immMask 34 29 + immMask 27 27⟩
  | _ => none

/-- What a word of the Cupola profile uses; none where the profile has no such operation (R193). The spec gives MXDOT
no OPC; it is the only operation of its class and has OPC 0 here. -/
def usesCup (w : Word) : Option Uses :=
  match wCls w with
  | 0 => usesScalar (wOpc w)
  | 1 => usesControl (wOpc w)
  | 2 => usesVector (wOpc w)
  | 3 => if wOpc w = 0 then some ⟨true, true, true, immMask 34 21⟩ else none
  | 4 => usesCupMem (wOpc w)
  | 6 => if wOpc w = 8 then some ⟨false, false, false, immMask 34 33⟩ else none
  | 7 => if wOpc w = 0 then some ⟨false, true, true, immMask 21 0⟩ else none
  | _ => none

/-- Sub-field checks of the Cupola profile (R193–R195). -/
def cupFieldsOk (feat : Nat) (w : Word) : Bool :=
  let o := wOpc w
  let imm := wImm w
  match wCls w with
  | 0 => !(o == 0x2A) || imm == 0 || imm == 1 || imm == 3 || imm == 5
  | 1 => (!(o == 0x01) || decide (imm / 2 ^ 32 ≤ 5)) && (!(o == 0x02) || (decide (imm / 2 ^ 32 ≤ 2) && decide (wS1 w ≤ 7)))
  | 2 =>
    let memGroup := decide (0x20 ≤ o) && decide (o ≤ 0x36)
    let width := ((vType (iType imm)).map Prod.fst).getD 8
    vectorOk feat w && (memGroup || iRm imm == 0) && (!(o == 0x43) || decide (bitsN imm 15 8 ≤ 1024 / width))
  | 3 =>
    let f := bitsN imm 34 31
    decide (5 ≤ f) && decide (f ≤ 0xA) && (!(f == 7 || f == 8) || feat.testBit 2)
  | 4 =>
    (match o with
     | 0x02 | 0x03 => (vType (bitsN imm 34 31)).isSome
     | 0x04 => aopOk (bitsN imm 34 31) (bitsN imm 30 29)
     | 0x05 => aopOk (bitsN imm 34 31) (bitsN imm 30 29) && bitsN imm 34 31 != 7 && bitsN imm 34 31 != 8
     | _ => true)
  | 6 => decide (imm / 2 ^ 33 ≤ 2)
  | _ => true

/-- Whether the Cupola profile allows a word (R193). -/
def cupDefined (feat : Nat) (w : Word) : Bool :=
  match usesCup w with
  | none => false
  | some u => fieldsOk u w && cupFieldsOk feat w

/-! ### Registers -/

/-- S[n] of a unit. -/
def CupUnit.sReg (c : CupUnit) (n : Nat) : Word := if n = 0 then 0 else look 0 c.s n
/-- P[n] of a unit, 128 lanes. -/
def CupUnit.pReg (c : CupUnit) (n : Nat) : PReg := if n = 0 then BitVec.allOnes 256 else look 0 c.p n

/-- S[n] of an agent. -/
def agS (s : State) (who : Agent) (n : Nat) : Word :=
  match who with
  | .engine e => (s.eng e.val).sReg n
  | .unit u => (s.unit u.val).sReg n

/-- Writes S[n]. -/
def agPutS (s : State) (who : Agent) (n : Nat) (v : Word) : State :=
  match who with
  | .engine e => s.modEng e.val (fun g => g.putS n v)
  | .unit u => if n = 0 then s else s.modUnit u.val (fun c => { c with s := put 0 c.s n v })

/-- P[n]. -/
def agP (s : State) (who : Agent) (n : Nat) : PReg :=
  match who with
  | .engine e => (s.eng e.val).pReg n
  | .unit u => (s.unit u.val).pReg n

/-- Writes P[n]. -/
def agPutP (s : State) (who : Agent) (n : Nat) (v : PReg) : State :=
  match who with
  | .engine e => s.modEng e.val (fun g => g.putP n v)
  | .unit u => if n = 0 then s else s.modUnit u.val (fun c => { c with p := put 0 c.p n v })

/-- V[n]. -/
def agV (s : State) (who : Agent) (n : Nat) : VReg :=
  match who with
  | .engine e => (s.eng e.val).vReg n
  | .unit u => look 0 (s.unit u.val).v n

/-- Poison marks of V[n]. -/
def agVm (s : State) (who : Agent) (n : Nat) : BitVec 256 :=
  match who with
  | .engine e => (s.eng e.val).vMarks n
  | .unit u => look 0 (s.unit u.val).vp n

/-- Writes V[n] with its marks. -/
def agPutV (s : State) (who : Agent) (n : Nat) (v : VReg) (m : BitVec 256) : State :=
  match who with
  | .engine e => s.modEng e.val (fun g => g.putV n v m)
  | .unit u => s.modUnit u.val (fun c => { c with v := put 0 c.v n v, vp := put 0 c.vp n m })

/-- Bits of a V register: 2,048 for an engine, 1,024 for a unit (R193). -/
def agBits (who : Agent) : Nat :=
  match who with
  | .engine _ => 2048
  | .unit _ => 1024

/-- Lanes of a P register. -/
def agPLanes (who : Agent) : Nat := agBits who / 8

/-! ### Readiness and guards -/

/-- The code of the kernel of an invocation; a provided kernel has none that the spec gives. -/
def unitCode (s : State) (i : Invoc) : List Word := if i.kernel < 0x100 then [] else (s.kernel (i.kernel - 0x100)).code

/-- The instruction a unit executes next. -/
def unitEntry (s : State) (u : Nat) (w : Word) : Option Entry :=
  let c := s.unit u
  match c.inv with
  | none => none
  | some i =>
    if i.fault.isSome || (unitCode s i)[i.pos / 8]? != some w then none
    else some { dsn := 0, addr := i.pos, word := w, s1 := c.sReg (wS1 w), s2 := c.sReg (wS2 w), sd := c.sReg (wDst w) }

/-- The instruction with word `w` that an agent may execute now. -/
def ready (s : State) (who : Agent) (w : Word) : Option Entry :=
  match who with
  | .engine e => if wordDefined s.pkg.feature w then headEntry s e.val w else none
  | .unit u => if cupDefined s.pkg.feature w then unitEntry s u.val w else none

/-- Lane 0 of the guard (R70). -/
def agGuard (s : State) (who : Agent) (w : Word) : Bool := (agP s who (wPred w)).getLsbD 0

/-! ### Completion, flags and exceptions -/

/-- A unit goes to a byte position of its code; one outside the code or misaligned is exception 0x04 (R193, R197). -/
def unitGoto (s : State) (u pos : Nat) : State :=
  match (s.unit u).inv with
  | none => s
  | some i =>
    if pos % 8 = 0 ∧ pos / 8 < (unitCode s i).length then
      s.modUnit u (fun c => { c with inv := some { i with pos := pos } })
    else kernelExc s u 0x04

/-- The next loads of a unit are performed after the instruction that ends here (R193). -/
def unitAfter (s : State) (u : Nat) : State :=
  if (s.unit u).earlier.isNone then s else s.fresh.2.modUnit u (fun c => { c with earlier := none })

/-- An instruction completes with `retired` units of its slot. -/
def agDone (s : State) (who : Agent) (en : Entry) (retired : Nat) : State :=
  match who with
  | .engine e => complete s e.val en retired
  | .unit u => unitGoto (unitAfter s u.val) u.val (en.addr + 8)

/-- An issue or precise exception: the instruction stays. -/
def agRaise (s : State) (who : Agent) (en : Entry) (code data : Nat) : State :=
  match who with
  | .engine e => raiseExc s e.val ((wordQueues en.word).headD 0) code en data false
  | .unit u => kernelExc s u.val code

/-- A completion exception of data-loss (R100); a unit reports none (R197). -/
def agLoss (s : State) (who : Agent) (en : Entry) : State :=
  match who with
  | .engine e => raiseExc s e.val ((wordQueues en.word).headD 0) 0x20 en 0 true
  | .unit _ => s

/-- Reports floating-point flags (R101); a unit reports none (R196). -/
def agFlags (s : State) (who : Agent) (f : Flags) : State :=
  match who with
  | .engine e => s.modEng e.val (fun g => { g with fp := g.fp ||| f })
  | .unit _ => s

/-- An instruction of one lane: guarded off it has no effect and wastes its slot (R70). -/
def single (s : State) (who : Agent) (w : Word) (body : Entry → State) : State :=
  match ready s who w with
  | none => s
  | some en => if agGuard s who w then body en else agDone s who en 0

/-! ### The tile store and scratch -/

/-- Bytes of the local space. -/
def agLocal (who : Agent) : Nat :=
  match who with
  | .engine _ => tsSize
  | .unit _ => 0x80000

/-- A local address: a unit takes it modulo 2^19 (R193). -/
def agAddr (who : Agent) (a : Nat) : Nat :=
  match who with
  | .engine _ => a
  | .unit _ => a % 0x80000

/-- The base of a local access whose entry takes it modulo the local space. -/
def agBase (who : Agent) (a : Nat) : Nat := a % agLocal who

/-- One byte of a unit's scratch; one not written since the invocation began is unspecified (R183). -/
def scrByte (c : CupUnit) (a : Nat) : Byte :=
  match look 0 c.scratch a with
  | 0 => Config.freeByte c.scrFree a
  | v => BitVec.ofNat 8 (v - 1)

/-- A read finds the errors of the scratch rows it touches (R47, R286). -/
def senseScr (s : State) (u a n : Nat) : State :=
  forAll ((linesOf a n).filter (fun r => look 0 (s.unit u).scrLatent r ≠ 0)) (fun r s =>
    let one := decide (look 0 (s.unit u).scrLatent r = 1)
    s.modUnit u (fun c => { c with
      scrLatent := tabDel r c.scrLatent
      lastErr := r * 64
      ceCount := if one then satN 0xFFFF (c.ceCount + 1) else c.ceCount
      ueCount := if one then c.ueCount else satN 0xFFFF (c.ueCount + 1)
      scrPoison := if one then c.scrPoison else nIns r c.scrPoison })) s

/-- A read finds the errors of the rows it touches. -/
def agSense (s : State) (who : Agent) (a n : Nat) : State :=
  match who with
  | .engine e => senseTs s e.val a n
  | .unit u => senseScr s u.val a n

/-- Bytes of a local range. -/
def agRead (s : State) (who : Agent) (a n : Nat) : List Byte :=
  match who with
  | .engine e => (s.eng e.val).tsRead a n
  | .unit u => (List.range n).map (fun i => scrByte (s.unit u.val) (a + i))

/-- Whether a local range touches a poisoned row. -/
def agPois (s : State) (who : Agent) (a n : Nat) : Bool :=
  match who with
  | .engine e => (s.eng e.val).tsPois a n
  | .unit u => (linesOf a n).any (fun r => nHas r (s.unit u.val).scrPoison)

/-- Writes of one instruction to scratch (R47). -/
def CupUnit.scrWrite (c : CupUnit) (l : List TsWrite) : CupUnit :=
  let masks := rowMasks l
  let bad := (l.filter TsWrite.poison).flatMap (fun w => linesOf w.addr w.bytes.length)
  let whole := (masks.filter (fun p => decide (p.2 = 2 ^ 64 - 1))).map Prod.fst
  { c with
    scratch := l.foldl (fun m w => w.bytes.zipIdx.foldl (fun m b => put 0 m (w.addr + b.2) (b.1.toNat + 1)) m) c.scratch
    scrPoison := bad.foldl (fun t r => nIns r t) (whole.foldl (fun t r => nDel r t) c.scrPoison)
    scrLatent := whole.foldl (fun t r => tabDel r t) c.scrLatent }

/-- Writes of one instruction to the tile store or scratch. -/
def agWrite (s : State) (who : Agent) (l : List TsWrite) : State :=
  match who with
  | .engine e => s.modEng e.val (fun g => g.tsWrite l)
  | .unit u => s.modUnit u.val (fun c => c.scrWrite l)

/-- The lowest byte of accesses (address, bytes) that lies outside the local space (R441). -/
def lowestOut (size : Nat) (l : List (Nat × Nat)) : Option Nat :=
  l.foldl (fun acc p =>
    if p.2 = 0 ∨ p.1 + p.2 ≤ size then acc
    else
      let a := max p.1 size
      some (match acc with | none => a | some b => min a b)) none

/-! ### Vector lanes -/

/-- Lane `i` of width `w`. -/
def laneGet (w : Nat) (v : VReg) (i : Nat) : Nat := v.toNat >>> (w * i) % 2 ^ w

/-- The marks of the bytes of lane `i` of width `w`. -/
def markBits (w : Nat) (m : BitVec 256) (i : Nat) : Nat := m.toNat >>> (w / 8 * i) % 2 ^ (w / 8)

/-- Whether lane `i` of width `w` is poisoned: any of its bytes is. -/
def markGet (w : Nat) (m : BitVec 256) (i : Nat) : Bool := markBits w m i != 0

/-- A lane of a result. -/
structure Lane where
  val  : Nat
  fl   : Flags := 0
  pois : Bool := false
deriving DecidableEq, Repr

/-- A register from its lanes. -/
def packLanes (w : Nat) (l : List Lane) : VReg := BitVec.ofNat 2048 (packEls w (l.map Lane.val))

/-- Marks from lanes. -/
def packMarks (w : Nat) (l : List Lane) : BitVec 256 :=
  BitVec.ofNat 256 (packEls (w / 8) (l.map (fun x => if x.pois then 2 ^ (w / 8) - 1 else 0)))

/-- Marks of a register of which only the lanes `wr` are written: every other lane keeps the marks of its bytes (R114). -/
def mergeMarks (w : Nat) (wr : Nat → Bool) (l : List Lane) (old : BitVec 256) : BitVec 256 :=
  BitVec.ofNat 256 (packEls (w / 8) (l.zipIdx.map (fun x =>
    if wr x.2 then (if x.1.pois then 2 ^ (w / 8) - 1 else 0) else markBits w old x.2)))

/-- The lanes of a register with their marks. -/
def lanesOf (w n : Nat) (v : VReg) (m : BitVec 256) : List Lane :=
  (List.range n).map (fun i => { val := laneGet w v i, pois := markGet w m i })

/-- The lanes of V[n] as type width `w` divides it. -/
def agLanes (s : State) (who : Agent) (w n : Nat) : List Lane :=
  lanesOf w (agBits who / w) (agV s who n) (agVm s who n)

/-- Lane `i` of a list. -/
def laneAt (l : List Lane) (i : Nat) : Lane := l.getD i { val := 0 }

/-- Gives poisoned results their unspecified values (R100). -/
def freeLanes (s : State) (l : List Lane) : State × List Lane :=
  if l.any Lane.pois then
    let p := s.fresh
    (p.2, l.zipIdx.map (fun x => if x.1.pois then { x.1 with val := (Config.freeWord p.1 x.2).toNat } else x.1))
  else (s, l)

/-- Writes V[n] from lanes. -/
def agPutLanes (s : State) (who : Agent) (w n : Nat) (l : List Lane) : State :=
  agPutV s who n (packLanes w l) (packMarks w l)

/-- Writes V[n] from computed lanes, of which poisoned ones get unspecified values. -/
def agPutFree (s : State) (who : Agent) (w n : Nat) (l : List Lane) : State :=
  let p := freeLanes s l
  agPutLanes p.1 who w n p.2

/-- Whether lane `i` is active (R114). -/
def agActive (s : State) (who : Agent) (en : Entry) (i : Nat) : Bool := (agP s who (wPred en.word)).getLsbD i

/-- A P register from a list of lanes; lanes past its end are false (R114). -/
def packP (l : List Bool) : PReg := BitVec.ofNat 256 (packEls 1 (l.map b2n))

/-! ### Counters that an instruction names -/

/-- Advances the completion counter of an instruction; a unit has none (R102, R193). -/
def agCount (s : State) (who : Agent) (on : Bool) (k : Nat) : State :=
  match who with
  | .engine e => if on then tcAdd s e.val k 1 else s
  | .unit _ => s

/-- Vector steps of an instruction (R124, R421). -/
def agSteps (s : State) (who : Agent) (en : Entry) (n : Nat) : State :=
  match who with
  | .engine e => pmEvent e.val 0x04 0xFF n (some (en.sampled 2)) s
  | .unit u => cuEvent u.val 0x02 n s

end Sys2Proof.Machine
end

