-- ==== Sys2Proof/Machine/Atomics.lean ====
section
/-! DEFINITION. The atomic units of the Cupola (R92, R204–R206). -/

namespace Sys2Proof.Machine

/-- The floating-point format of an FADD of `n` bytes (R92). -/
def faddFmt (n : Nat) : FpFmt :=
  match n with
  | 2 => .bf16
  | 4 => .fp32
  | _ => .fp64

/-- The value an atomic of `n` bytes stores (R92, R205). -/
def atomicOp (aop n old op cmp : Nat) : Nat :=
  let w := 8 * n
  let x := old % 2 ^ w
  let y := op % 2 ^ w
  match aop with
  | 0x0 => (x + y) % 2 ^ w
  | 0x1 => (fpOp2 (faddFmt n) .rne .add x y).1
  | 0x2 => if sextN w x ≤ sextN w y then x else y
  | 0x3 => if sextN w x ≤ sextN w y then y else x
  | 0x4 => x &&& y
  | 0x5 => x ||| y
  | 0x6 => Nat.xor x y
  | 0x7 => y
  | _ => if x = cmp % 2 ^ w then y else x

/-- Whether an atomic at an address can be performed now: its tile is resident, unlocked and no line of it is being
recovered, and the unit is not being switched (R187, R206, R364). -/
def atomicReady (s : State) (pa n : Nat) : Bool :=
  (unitOfPa s pa).isSome && !memWaits s pa n && !(s.sig.moving.isSome && s.sig.moving == unitOfPa s pa)

/-- Performs one atomic at its home unit: the old value, or none where the line is poisoned (R204–R206). `bad` carries
poison in. -/
def performAtomic (s : State) (o : Obs) (pa n aop op cmp : Nat) (bad : Bool) : State × Option Nat :=
  let s := match unitOfPa s pa with
    | some u => cuEvent u 0x04 1 s
    | none => s
  if memPoisoned s pa n then (s, none)
  else
    let old := leNat (memRead s pa n)
    (lineWrite s o pa (leBytes n (atomicOp aop n old op cmp)) bad, some old)

/-- A permutation of a list that the spec does not fix (R144): `n` is a fresh number. -/
def shuffle (n : Nat) : Nat → List α → List α
  | 0, l => l
  | k + 1, l =>
    let i := Config.orderPick (n + k) l.length % max 1 l.length
    (l.drop i).take 1 ++ shuffle n k (l.eraseIdx i)

end Sys2Proof.Machine
end

