-- ==== Sys2Proof/Machine/Vector.lean ====
section
/-! DEFINITION. The vector class: elementwise instructions, conversion and predicates (R113–R116, R118). The same
definitions serve the engine's 2,048-bit and the Cupola unit's 1,024-bit registers (R193). -/

namespace Sys2Proof.Machine

/-- The floating-point format of a TYPE code (R113). -/
def fpOfType (t : Nat) : Option FpFmt :=
  match t with
  | 0 => some .fp64 | 1 => some .fp32 | 2 => some .fp16 | 3 => some .bf16 | 4 => some .e4m3 | 5 => some .e5m2
  | _ => none

/-- Width of a TYPE code; 8 where there is none. -/
def typeWidth (t : Nat) : Nat := ((vType t).map Prod.fst).getD 8

/-- Whether an integer TYPE is signed. -/
def typeSigned (t : Nat) : Bool := t != 7

/-- The integer that a lane holds. -/
def intVal (t v : Nat) : Int := if typeSigned t then sextN (typeWidth t) v else ((v % 2 ^ typeWidth t : Nat) : Int)

/-- The rounding mode of an RM code; `draw` serves stochastic rounding (R114, R133). -/
def rmOf (rm : Nat) (draw : RMode) : RMode :=
  match rm with
  | 1 => .rz | 2 => .rd | 3 => .ru | 4 => .rna | 5 => draw
  | _ => .rne

/-- A row of the vector class that its agent may execute now. -/
def vecRow (s : State) (opc : Nat) (o : MOp) (body : Entry → State) : State :=
  match ready s o.who (mkWord opc 2 o) with
  | none => s
  | some en => body en

/-- Flags of all lanes. -/
def laneFlags (l : List Lane) : Flags := l.foldl (fun a x => a ||| x.fl) 0

/-- Writes the lanes that `inRange` accepts: computed where active, zero or kept where inactive (R114). Reports the flags
of the lanes computed (R101). -/
def vecWrite (s : State) (who : Agent) (en : Entry) (width dst : Nat) (zm : Bool) (inRange : Nat → Bool) (res : Nat → Lane) :
    State :=
  let n := agBits who / width
  let act (i : Nat) : Bool := inRange i && agActive s who en i
  let old := agLanes s who width dst
  let comp := (List.range n).map (fun i => if act i then res i else { val := 0 })
  let p := freeLanes s comp
  let out := ((p.2.zip old).zipIdx).map (fun x =>
    if act x.2 then x.1.1 else if zm && inRange x.2 then { val := 0 } else x.1.2)
  let marks := mergeMarks width (fun i => act i || (zm && inRange i)) out (agVm s who dst)
  agFlags (agPutV p.1 who dst (packLanes width out) marks) who (laneFlags comp)

/-- An elementwise instruction over lanes of V[SRC1], V[SRC2] and V[SRC3] (R114, R115). -/
def elementwise (s : State) (opc steps : Nat) (o : MOp) (f : Nat → Nat → Lane → Lane → Lane → Nat × Flags) : State :=
  vecRow s opc o (fun en =>
    let w := en.word
    let imm := wImm w
    let t := iType imm
    let width := typeWidth t
    let a := agLanes s o.who width (wS1 w)
    let b := agLanes s o.who width (wS2 w)
    let c := agLanes s o.who width (iSrc3 imm)
    let three := decide (9 ≤ opc) && decide (opc ≤ 0xB)
    let one := opc == 4 || opc == 7 || opc == 8
    let s := vecWrite s o.who en width (wDst w) (iZm imm) (fun _ => true) (fun i =>
      let x := laneAt a i
      let y := if one then { val := 0 } else laneAt b i
      let z := if three then laneAt c i else { val := 0 }
      let r := f t imm x y z
      { val := r.1, fl := r.2, pois := x.pois || y.pois || z.pois })
    agDone (agSteps s o.who en steps) o.who en 128)

/-- Two-operand arithmetic: FP under R142, or integer by `g` on the exact values. -/
def arith (op : FpOp) (g : Int → Int → Int) (t imm : Nat) (a b : Lane) : Nat × Flags :=
  match fpOfType t with
  | some f => fpOp2 f (rmOf (iRm imm) .rne) op a.val b.val
  | none => (intToInt (typeSigned t) (typeWidth t) (iSat imm) (g (intVal t a.val) (intVal t b.val)), 0)

/-- Steps of VDIV and VSQRT by width (R124). -/
def divSteps (o : MOp) : Nat :=
  match typeWidth (iType o.imm.toNat) with
  | 64 => 16
  | 32 => 8
  | _ => 4

/-- VADD (R115). -/
def execVadd (o : MOp) (s : State) : Out := .next (elementwise s 0x00 1 o (fun t imm a b _ => arith .add (· + ·) t imm a b))
/-- VSUB (R115). -/
def execVsub (o : MOp) (s : State) : Out := .next (elementwise s 0x01 1 o (fun t imm a b _ => arith .sub (· - ·) t imm a b))
/-- VMUL (R115). -/
def execVmul (o : MOp) (s : State) : Out := .next (elementwise s 0x02 1 o (fun t imm a b _ => arith .mul (· * ·) t imm a b))
/-- VDIV (R115, R142). -/
def execVdiv (o : MOp) (s : State) : Out :=
  .next (elementwise s 0x03 (divSteps o) o (fun t imm a b _ => arith .div (fun _ _ => 0) t imm a b))
/-- VSQRT (R115, R142). -/
def execVsqrt (o : MOp) (s : State) : Out :=
  .next (elementwise s 0x04 (divSteps o) o (fun t imm a _ _ =>
    match fpOfType t with
    | some f => fpSqrt f (rmOf (iRm imm) .rne) a.val
    | none => (0, 0)))
/-- VMIN (R115). -/
def execVmin (o : MOp) (s : State) : Out :=
  .next (elementwise s 0x05 1 o (fun t imm a b _ => arith .min (fun x y => if x ≤ y then x else y) t imm a b))
/-- VMAX (R115). -/
def execVmax (o : MOp) (s : State) : Out :=
  .next (elementwise s 0x06 1 o (fun t imm a b _ => arith .max (fun x y => if x ≤ y then y else x) t imm a b))

/-- Negation or absolute value of a lane: a sign-bit operation on FP, and on integers the minimum wraps or saturates
(R115, R126). -/
def signOp (neg : Bool) (t imm : Nat) (a : Lane) : Nat × Flags :=
  match fpOfType t with
  | some f =>
    let m := a.val % f.signBit
    (if neg && a.val / f.signBit % 2 == 0 then m + f.signBit else m, 0)
  | none =>
    let x := intVal t a.val
    let y := if neg then -x else (x.natAbs : Int)
    (intToInt (typeSigned t) (typeWidth t) (iSat imm && decide (x = intMin (typeSigned t) (typeWidth t))) y, 0)

/-- VABS (R115, R126). -/
def execVabs (o : MOp) (s : State) : Out := .next (elementwise s 0x07 1 o (fun t imm a _ _ => signOp false t imm a))
/-- VNEG (R115, R126). -/
def execVneg (o : MOp) (s : State) : Out := .next (elementwise s 0x08 1 o (fun t imm a _ _ => signOp true t imm a))

/-- A fused multiply-add of lanes (R115). -/
def fmaLane (np nc : Bool) (t imm : Nat) (a b c : Lane) : Nat × Flags :=
  match fpOfType t with
  | some f => fpFma f (rmOf (iRm imm) .rne) np nc a.val b.val c.val
  | none => (0, 0)

/-- VFMA (R115). -/
def execVfma (o : MOp) (s : State) : Out := .next (elementwise s 0x09 1 o (fun t imm a b c => fmaLane false false t imm a b c))
/-- VFMS (R115). -/
def execVfms (o : MOp) (s : State) : Out := .next (elementwise s 0x0A 1 o (fun t imm a b c => fmaLane false true t imm a b c))
/-- VFNMA (R115). -/
def execVfnma (o : MOp) (s : State) : Out := .next (elementwise s 0x0B 1 o (fun t imm a b c => fmaLane true false t imm a b c))
/-- VAND (R115). -/
def execVand (o : MOp) (s : State) : Out := .next (elementwise s 0x0C 1 o (fun _ _ a b _ => (a.val &&& b.val, 0)))
/-- VOR (R115). -/
def execVor (o : MOp) (s : State) : Out := .next (elementwise s 0x0D 1 o (fun _ _ a b _ => (a.val ||| b.val, 0)))
/-- VXOR (R115). -/
def execVxor (o : MOp) (s : State) : Out := .next (elementwise s 0x0E 1 o (fun _ _ a b _ => (Nat.xor a.val b.val, 0)))
/-- VSHL (R115). -/
def execVshl (o : MOp) (s : State) : Out :=
  .next (elementwise s 0x0F 1 o (fun t _ a b _ => (a.val * 2 ^ (b.val % typeWidth t) % 2 ^ typeWidth t, 0)))
/-- VSHR (R115). -/
def execVshr (o : MOp) (s : State) : Out :=
  .next (elementwise s 0x10 1 o (fun t _ a b _ => (a.val / 2 ^ (b.val % typeWidth t), 0)))
/-- VSRA (R115): the top bit is replicated for every integer type. -/
def execVsra (o : MOp) (s : State) : Out :=
  .next (elementwise s 0x11 1 o (fun t _ a b _ =>
    (wrapN (typeWidth t) (sextN (typeWidth t) a.val / ((2 ^ (b.val % typeWidth t) : Nat) : Int)), 0)))

/-- One comparison of VCMP, with its flags (R115). -/
def cmpLane (t c : Nat) (a b : Nat) : Bool × Flags :=
  let ord : Option Ordering × Flags := match fpOfType t with
    | some f => (fvCmp (fpDecode f a) (fpDecode f b), sigFlags [fpDecode f a, fpDecode f b])
    | none =>
      let x := intVal t a
      let y := intVal t b
      (some (if x < y then .lt else if x = y then .eq else .gt), 0)
  let r := match c with
    | 0 => ord.1 == some .eq
    | 1 => ord.1 != some .eq
    | 2 => ord.1 == some .lt
    | 3 => ord.1 == some .lt || ord.1 == some .eq
    | 4 => ord.1 == some .gt
    | 5 => ord.1 == some .gt || ord.1 == some .eq
    | 6 => ord.1 == none
    | _ => ord.1 != none
  (r, ord.2)

/-- VCMP (R100, R114, R115): a poisoned lane gives false and data-loss. -/
def execVcmp (o : MOp) (s : State) : Out :=
  .next (vecRow s 0x18 o (fun en =>
    let w := en.word
    let imm := wImm w
    let t := iType imm
    let width := typeWidth t
    let n := agBits o.who / width
    let a := agLanes s o.who width (wS1 w)
    let b := agLanes s o.who width (wS2 w)
    let old := agP s o.who (wDst w)
    let res := ((a.zip b).zipIdx).map (fun x =>
      if agActive s o.who en x.2 then
        let bad := x.1.1.pois || x.1.2.pois
        let r := cmpLane t (iOpx imm % 8) x.1.1.val x.1.2.val
        ((r.1 && !bad), r.2, bad)
      else (!iZm imm && old.getLsbD x.2, 0, false))
    let s := agPutP s o.who (wDst w) (packP ((res.map Prod.fst).take n))
    let s := agFlags s o.who (res.foldl (fun f x => f ||| x.2.1) 0)
    let s := agSteps s o.who en 1
    let s := if res.any (fun x => x.2.2) then agLoss s o.who en else s
    agDone s o.who en 128))

/-- VSEL (R115). -/
def execVsel (o : MOp) (s : State) : Out :=
  .next (vecRow s 0x19 o (fun en =>
    let w := en.word
    let width := typeWidth (iType (wImm w))
    let a := agLanes s o.who width (wS1 w)
    let b := agLanes s o.who width (wS2 w)
    let sel := agP s o.who (iOpx (wImm w) % 8)
    let s := vecWrite s o.who en width (wDst w) (iZm (wImm w)) (fun _ => true)
      (fun i => if sel.getLsbD i then laneAt a i else laneAt b i)
    agDone (agSteps s o.who en 1) o.who en 128))

/-- VBCAST (R115). -/
def execVbcast (o : MOp) (s : State) : Out :=
  .next (vecRow s 0x1A o (fun en =>
    let w := en.word
    let width := typeWidth (iType (wImm w))
    let s := vecWrite s o.who en width (wDst w) (iZm (wImm w)) (fun _ => true) (fun _ => { val := en.s1.toNat % 2 ^ width })
    agDone (agSteps s o.who en 1) o.who en 128))

/-- VIOTA (R115). -/
def execViota (o : MOp) (s : State) : Out :=
  .next (vecRow s 0x1B o (fun en =>
    let w := en.word
    let width := typeWidth (iType (wImm w))
    let s := vecWrite s o.who en width (wDst w) (iZm (wImm w)) (fun _ => true) (fun i => { val := i })
    agDone (agSteps s o.who en 1) o.who en 128))

/-- VPERM (R115). -/
def execVperm (o : MOp) (s : State) : Out :=
  .next (vecRow s 0x1C o (fun en =>
    let w := en.word
    let width := typeWidth (iType (wImm w))
    let n := agBits o.who / width
    let a := agLanes s o.who width (wS1 w)
    let b := agLanes s o.who width (wS2 w)
    let s := vecWrite s o.who en width (wDst w) (iZm (wImm w)) (fun _ => true) (fun i =>
      let y := laneAt b i
      let x := laneAt a (y.val % n)
      { val := x.val, pois := x.pois || y.pois })
    agDone (agSteps s o.who en 1) o.who en 128))

/-- Conversion of one element (R116, R136, R137). -/
def cvtLane (t d : Nat) (rm : RMode) (sat : Bool) (x : Nat) : Nat × Flags :=
  match fpOfType t, fpOfType d with
  | some f, some g => fpConv f g rm sat x
  | some f, none => fpToInt f rm (typeSigned d) (typeWidth d) x
  | none, some g => intToFp g rm sat (intVal t x)
  | none, none => (intToInt (typeSigned d) (typeWidth d) sat (intVal t x), 0)

/-- Advances the stochastic-rounding generator of an engine and gives the instruction's key (R135). -/
def drawKey (s : State) (who : Agent) : State × Word :=
  match who with
  | .engine e =>
    let p := srNext (s.eng e.val).sr
    (pmEvent e.val 0x0E 0xFF 1 none (s.modEng e.val (fun g => { g with sr := p.1 })), p.2)
  | .unit _ => (s, 0)

/-- VCVT (R116). -/
def execVcvt (o : MOp) (s : State) : Out :=
  .next (vecRow s 0x1D o (fun en =>
    let w := en.word
    let imm := wImm w
    let t := iType imm
    let d := iOpx imm % 16
    let part := iOpx imm / 16 % 8
    let sw := typeWidth t
    let dw := typeWidth d
    let nS := agBits o.who / sw
    let nD := agBits o.who / dw
    let a := agLanes s o.who sw (wS1 w)
    let inRange (i : Nat) : Bool := if dw < sw then decide (part * nS ≤ i) && decide (i < part * nS + nS) else true
    let src (i : Nat) : Nat := if sw < dw then part * nD + i else if dw < sw then i - part * nS else i
    let computes := (List.range nD).any (fun i => inRange i && agActive s o.who en i)
    let p := if iRm imm = 5 ∧ computes then drawKey s o.who else (s, 0)
    let s := vecWrite p.1 o.who en dw (wDst w) (iZm imm) inRange (fun i =>
      let x := laneAt a (src i)
      let r := cvtLane t d (rmOf (iRm imm) (srDrawOf p.2 i)) (iSat imm) x.val
      { val := r.1, fl := r.2, pois := x.pois })
    agDone (agSteps s o.who en 1) o.who en 128))

/-! ### Predicates (R118) -/

/-- A predicate instruction over whole P registers. -/
def predRow (s : State) (opc : Nat) (o : MOp) (f : PReg → PReg → PReg) : State :=
  vecRow s opc o (fun en =>
    let w := en.word
    let s := agPutP s o.who (wDst w)
      (((f (agP s o.who (wS1 w)) (agP s o.who (wS2 w))).setWidth (agPLanes o.who)).setWidth 256)
    agDone (agSteps s o.who en 1) o.who en 128)

/-- PAND (R118). -/
def execPand (o : MOp) (s : State) : Out := .next (predRow s 0x30 o (fun a b => a &&& b))
/-- POR (R118). -/
def execPor (o : MOp) (s : State) : Out := .next (predRow s 0x31 o (fun a b => a ||| b))
/-- PXOR (R118). -/
def execPxor (o : MOp) (s : State) : Out := .next (predRow s 0x32 o (fun a b => a ^^^ b))
/-- PANDN (R118). -/
def execPandn (o : MOp) (s : State) : Out := .next (predRow s 0x33 o (fun a b => a &&& ~~~b))

/-- PFIRSTN (R118): lane i is i < S[SRC1]. -/
def execPfirstn (o : MOp) (s : State) : Out :=
  .next (vecRow s 0x35 o (fun en =>
    let k := min en.s1.toNat (agPLanes o.who)
    let s := agPutP s o.who (wDst en.word) (BitVec.ofNat 256 (2 ^ k - 1))
    agDone (agSteps s o.who en 1) o.who en 128))

/-- PCOUNT (R118). -/
def execPcount (o : MOp) (s : State) : Out :=
  .next (vecRow s 0x36 o (fun en =>
    let p := agP s o.who (wS1 en.word)
    let c := countIf (fun i => p.getLsbD i) (List.range (agPLanes o.who))
    let s := agPutV s o.who (wDst en.word) (BitVec.ofNat 2048 c) 0
    agDone (agSteps s o.who en 2) o.who en 128))

end Sys2Proof.Machine
end

