-- ==== Sys2Proof/Machine/Matrix.lean ====
section
/-! DEFINITION. The matrix class: accumulators, MMA and MMAS, and moving accumulator rows (R102–R112, R138–R141). -/

namespace Sys2Proof.Machine

/-! ### Accumulators (R100, R103) -/

/-- Key of element (i, c) of tile `a`. -/
def accKey (a i c : Nat) : Nat := a * 16384 + i * 128 + c

/-- An accumulator element. -/
structure AccEl where
  key  : Nat
  val  : Nat
  pois : Bool := false
deriving DecidableEq, Repr

/-- The additions made to an accumulator tile have taken their places: another instruction reads or writes it (R107). -/
def Engine.closeChain (g : Engine) (tile : Nat) : Engine := { g with chain := g.chain.filter (fun p => p.1 / 16384 != tile) }

/-- Writes elements; poisoned ones get unspecified values (R100). -/
def putAcc (s : State) (e : Nat) (l : List AccEl) : State :=
  let p := if l.any AccEl.pois then s.fresh else (s.nonce, s)
  p.2.modEng e (fun g => { g with
    a := l.foldl (fun t x => put 0 t x.key (if x.pois then (Config.freeWord p.1 x.key).setWidth 32 else BitVec.ofNat 32 x.val)) g.a
    ap := l.foldl (fun t x => nPut x.key x.pois t) g.ap })

/-- The check rows `js` of accumulator row `i` (R103). -/
def checkRows (a i : Nat) (js : List Nat) : List Nat := js.map (fun j => 1024 * a + 8 * i + j)

/-- A read finds the errors of check rows: corrected ones are counted, uncorrectable ones poison the sixteen
elements (R47, R100, R103). -/
def senseChecks (s : State) (e : Nat) (l : List Nat) : State :=
  forAll (l.filter (fun r => look 0 (s.eng e).accLatent r ≠ 0)) (fun r s =>
    let one := decide (look 0 (s.eng e).accLatent r = 1)
    let s := s.modEng e (fun g => { g with
      accLatent := tabDel r g.accLatent
      lastErr := r * 64 + 1
      ceCount := if one then satN 0xFFFF (g.ceCount + 1) else g.ceCount
      ueCount := if one then g.ueCount else satN 0xFFFF (g.ueCount + 1)
      ap := if one then g.ap else (List.range 16).foldl (fun t k => nIns (16 * r + k) t) g.ap })
    if one then pmEvent e 0x0F 0xFF 1 none s else s) s

/-- A read of a whole accumulator row. -/
def senseAcc (s : State) (e a i : Nat) : State := senseChecks s e (checkRows a i (List.range 8))

/-- Check rows written whole lose their latent errors. -/
def clearChecks (s : State) (e : Nat) (l : List Nat) : State :=
  s.modEng e (fun g => { g with accLatent := l.foldl (fun t r => tabDel r t) g.accLatent })

/-- Rows written whole lose their latent errors. -/
def clearAccLatent (s : State) (e a : Nat) (rows : List Nat) : State :=
  clearChecks s e (rows.flatMap (fun i => checkRows a i (List.range 8)))

/-- The guarded-on rows below `rows` (R104). -/
def matRows (s : State) (e : Nat) (w : Word) (rows : Nat) : List Nat :=
  (List.range rows).filter (fun i => ((s.eng e).pReg (wPred w)).getLsbD i)

/-- A matrix row of an engine. -/
def matRow (s : State) (opc : Nat) (o : MOp) (body : Nat → Entry → State) : State :=
  match o.who with
  | .unit _ => s
  | .engine e => (match ready s o.who (mkWord opc 3 o) with
    | none => s
    | some en => body e.val en)

/-- Completion: steps, flags, counter, data-loss, and the slot's retired units (R101, R102, R419). -/
def matDone (s : State) (who : Agent) (e : Nat) (en : Entry) (fl : Flags) (cten loss : Bool) (retired : Nat) : State :=
  let s := agFlags s who fl
  let s := agCount s who cten (bitsN (wImm en.word) 15 10)
  let s := if loss then agLoss s who en else s
  complete s e en retired

/-! ### Operands (R105, R106, R108) -/

/-- Formats of X and W (R105). -/
def mmaFmt (f : Nat) : ElFmt × ElFmt :=
  match f with
  | 0x0 => (.fp .e4m3, .fp .e4m3) | 0x1 => (.fp .e5m2, .fp .e5m2) | 0x2 => (.fp .e4m3, .fp .e5m2)
  | 0x3 => (.i8, .i8) | 0x4 => (.u8, .i8)
  | 0x5 => (.mx .e4m3, .mx .e4m3) | 0x6 => (.mx .e5m2, .mx .e5m2) | 0x7 => (.mx .e2m3, .mx .e2m3)
  | 0x8 => (.mx .e3m2, .mx .e3m2) | 0x9 => (.mxi8, .mxi8) | 0xA => (.mx .e2m1, .mx .e2m1)
  | 0xB => (.fp .bf16, .fp .bf16) | _ => (.fp .fp16, .fp .fp16)

/-- Matrix steps for each KB, and MBST blocks a step (R105). -/
def mmaSteps (f : Nat) : Nat × Nat := if f = 0xA then (16, 4) else if 0xB ≤ f then (64, 1) else (32, 2)

/-- The code under which an MBST tile of W's format is laid out (R131, R148). -/
def mbstCode (f : Nat) : Nat :=
  match f with
  | 0x0 => 0x3 | 0x1 => 0x4 | 0x2 => 0x4 | 0x3 => 0x5 | 0x4 => 0x5 | 0x5 => 0x9 | 0x6 => 0xA | 0x7 => 0xB | 0x8 => 0xC
  | 0x9 => 0xE | 0xA => 0xD | 0xB => 0x1 | _ => 0x2

/-- One row of X or column of W: its groups of 32 values, and whether any byte of it is poisoned. -/
structure OpVec where
  groups : List (List FVal)
  pois   : Bool
deriving DecidableEq, Repr

/-- Row or column `i` of a dense operand block of `rows` rows: `kb` groups of `f` at `base`, scales after the elements
(R106). -/
def denseVec (who : Agent) (s : State) (base rows kb : Nat) (f : ElFmt) (i : Nat) : OpVec :=
  let len := 4 * f.bits * kb
  let at_ := base + i * len
  let sc := base + rows * len + i * kb
  let bits := leNat (agRead s who at_ len)
  let scales := if f.isMx then agRead s who sc kb else []
  { groups := (List.range kb).map (fun g => (List.range 32).map (fun j =>
      let w := packedEl f.bits bits (32 * g + j)
      if f.isMx then mxValue f (scales.getD g 0).toNat w else elValue f w)),
    pois := agPois s who at_ len || (f.isMx && agPois s who sc kb) }

/-- Bytes of a dense operand block. -/
def denseBytes (rows kb : Nat) (f : ElFmt) : Nat := rows * (4 * f.bits * kb) + (if f.isMx then rows * kb else 0)

/-- Column `c` of a block-sparse tile at `base` with map `m` (R108, R131, R132). -/
def sparseVec (s : State) (e base code m : Nat) (mapBad : Bool) (f : ElFmt) (c : Nat) : OpVec :=
  let g := s.eng e
  let br := c / 8
  let row := mapRow m br
  let at_ := base + recOff code m br
  let mx := f.isMx
  let scAt := at_ + 4 * (c % 8)
  let blk (p : Nat) : Nat := at_ + (if mx then 32 else 0) + p * blockBytes code + (c % 8) * f.bits
  let el (k : Nat) : Nat :=
    match row.findIdx? (fun bc => bc == k / 8) with
    | some p => packedEl f.bits (leNat (g.tsRead (blk p) f.bits)) (k % 8)
    | none => 0
  let scale (q : Nat) : Nat := if row.any (fun bc => bc / 4 == q) then (leNat (g.tsRead (scAt + q) 1)) else 0
  { groups := (List.range 4).map (fun q => (List.range 32).map (fun j =>
      if mx then mxValue f (scale q) (el (32 * q + j)) else elValue f (el (32 * q + j)))),
    pois := mapBad || (mx && !row.isEmpty && g.tsPois scAt 4) || (List.range row.length).any (fun p => g.tsPois (blk p) f.bits) }

/-- Bytes of a block-sparse tile. -/
def sparseBytes (code m : Nat) : Nat := recOff code m 16

/-! ### Accumulation (R107, R138–R141) -/

/-- An order of the groups, chosen by the array (R107). -/
def groupOrder (n el : Nat) : Nat → List Nat → List Nat
  | 0, _ => []
  | k + 1, l =>
    let i := Config.groupPick n el (k + 1) % (k + 1)
    l.getD i 0 :: groupOrder n el k (l.eraseIdx i)

/-- The integer of a finite value. -/
def finInt (v : FVal) : Int :=
  match v with
  | .fin n m e => signedM n (m * 2 ^ e.toNat)
  | _ => 0

/-- One accumulator element after its groups. `acc` is its value before, `rm` the rounding of group `g`. -/
def mmaElement (isInt trunc : Bool) (zero : Bool) (rm : Nat → RMode) (order : List Nat) (x w : OpVec) (acc : Nat) : Nat × Flags :=
  let sum (g : Nat) : FVal × Flags := groupSum trunc (x.groups.getD g []) (w.groups.getD g [])
  if isInt then
    (wrapN 32 (order.foldl (fun a g => a + finInt (sum g).1) (if zero then 0 else (acc : Int))), 0)
  else
    let start : Nat × FVal × Flags := (acc, (if zero then .fin false 0 0 else fp32Flushed acc), 0)
    let r := order.foldl (fun (a : Nat × FVal × Flags) g =>
      let p := sum g
      let u := mmAccumulate (rm g) a.2.1 p.1
      (u.1, fpDecode .fp32 u.1, a.2.2 ||| p.2 ||| u.2)) start
    (r.1, r.2.2)

/-- An element of floating-point format after the terms of its chain, added in an order that the array chooses. -/
def chainValue (c : MmaChain) (order : List Nat) : Nat × Flags :=
  let r := order.foldl (fun (a : Nat × FVal × Flags) i =>
    match c.terms[i]? with
    | none => a
    | some t =>
      let u := mmAccumulate t.rm a.2.1 t.sum
      (u.1, fpDecode .fp32 u.1, a.2.2 ||| u.2)) (0, c.start, 0)
  (r.1, r.2.2)

/-- The chain of an element that an MMA goes on with: its own start with ZERO, where no chain is open the value held. -/
def chainFor (g : Engine) (key : Nat) (zero : Bool) : MmaChain :=
  if zero then ⟨.fin false 0 0, []⟩
  else match look none g.chain key with
    | some c => c
    | none => ⟨fp32Flushed (look 0 g.a key).toNat, []⟩

/-- The exception of misaligned operands or of bytes outside the tile store (R106, R441). -/
def operandFault (spans : List (Nat × Nat)) (bases : List Nat) : Option (Nat × Nat) :=
  match lowestOut tsSize spans with
  | some x => some (0x02, x)
  | none =>
    match bases.filter (fun a => a % 64 != 0) with
    | [] => none
    | x :: r => some (0x03, r.foldl min x)

/-- The body of MMA and MMAS once both operands can be read: `col` gives W's columns. -/
def mmaRun (s : State) (o : MOp) (e : Nat) (en : Entry) (kb xRows steps : Nat) (col : State → Nat → OpVec) : State :=
  let w := en.word
  let imm := wImm w
  let f := bitsN imm 34 31
  let rows := bitsN imm 25 19 + 1
  let zero := imm.testBit 18
  let rnd := imm.testBit 17
  let act := matRows s e w rows
  let dst := wDst w
  let s := if zero then clearAccLatent s e dst act else forAll act (fun i s => senseAcc s e dst i) s
  let k := if rnd && !act.isEmpty then drawKey s o.who else (s, 0)
  let p := k.1.fresh
  let s := if act.isEmpty then k.1 else p.2
  let xs := act.map (fun i => (i, denseVec o.who s en.s1.toNat xRows kb (mmaFmt f).1 i))
  let ws := if act.isEmpty then [] else (List.range 128).map (fun c => (c, col s c))
  let isInt := f == 3 || f == 4
  let g := s.eng e
  let outs := xs.flatMap (fun x => ws.map (fun y =>
    let el := 128 * x.1 + y.1
    let key := accKey dst x.1 y.1
    let rm (q : Nat) : RMode := if rnd then srDrawOf k.2 (el * 32 + q) else .rne
    let sums := (List.range kb).map (fun q => groupSum (decide (0xB ≤ f)) (x.2.groups.getD q []) (y.2.groups.getD q []))
    let c := chainFor g key zero
    let c := { c with terms := c.terms ++ sums.zipIdx.map (fun v => ⟨v.1.1, rm v.2⟩) }
    let n := c.terms.length
    let r := if isInt
      then mmaElement true false zero rm (List.range kb) x.2 y.2 (look 0 g.a key).toNat
      else
        let v := chainValue c (groupOrder p.1 el n (List.range n))
        (v.1, sums.foldl (fun a q => a ||| q.2) v.2)
    (({ key := key, val := r.1, pois := x.2.pois || y.2.pois || (!zero && nHas key g.ap) } : AccEl), r.2,
      if isInt then none else some c)))
  let s := putAcc s e (outs.map Prod.fst)
  let s := s.modEng e (fun g => { g with chain := outs.foldl (fun t x => put none t x.1.key x.2.2) g.chain })
  let smp := some (en.sampled 3)
  let s := pmEvent e 0x03 0xFF ((128 - act.length) * steps) smp (pmEvent e 0x02 0xFF steps smp s)
  matDone s o.who e en (outs.foldl (fun a x => a ||| x.2.1) 0) (imm.testBit 16) false act.length

/-- The rows `l` of a dense operand block are read, with their scales (R104, R106). -/
def senseRows (s : State) (e base rows kb : Nat) (f : ElFmt) (l : List Nat) : State :=
  let len := 4 * f.bits * kb
  forAll l (fun i s =>
    let s := senseTs s e (base + i * len) len
    if f.isMx then senseTs s e (base + rows * len + i * kb) kb else s) s

/-- MMA (R104–R107). -/
def execMma (o : MOp) (s : State) : Out :=
  .next (matRow s 0x00 o (fun e en =>
    let imm := wImm en.word
    let f := bitsN imm 34 31
    let kb := bitsN imm 30 26 + 1
    let rows := bitsN imm 25 19 + 1
    let x := en.s1.toNat
    let w := en.s2.toNat
    let nx := denseBytes rows kb (mmaFmt f).1
    let nw := denseBytes 128 kb (mmaFmt f).2
    match operandFault [(x, nx), (w, nw)] [x, w] with
    | some (c, d) => agRaise s o.who en c d
    | none =>
      let act := matRows s e en.word rows
      let s := if act.isEmpty then s else senseTs (senseRows s e x rows kb (mmaFmt f).1 act) e w nw
      mmaRun s o e en kb rows ((mmaSteps f).1 * kb) (fun s c => denseVec o.who s w 128 kb (mmaFmt f).2 c)))

/-- MMAS (R104, R108, R109): W is a block-sparse tile, X a dense block of 128 rows. -/
def execMmas (o : MOp) (s : State) : Out :=
  .next (matRow s 0x01 o (fun e en =>
    let imm := wImm en.word
    let f := bitsN imm 34 31
    let code := mbstCode f
    let x := en.s1.toNat
    let w := en.s2.toNat
    let nx := denseBytes 128 4 (mmaFmt f).1
    let inMap := (lowestOut tsSize [(w, 32)]).isNone
    let s := if inMap then senseTs s e w 32 else s
    let m := if inMap then leNat ((s.eng e).tsRead w 32) else 0
    let mapBad := (s.eng e).tsPois w 32
    match operandFault [(x, nx), (w, sparseBytes code m)] [x, w] with
    | some (c, d) => agRaise s o.who en c d
    | none =>
      let act := matRows s e en.word (bitsN imm 25 19 + 1)
      let s := if act.isEmpty then s else senseTs (senseRows s e x 128 4 (mmaFmt f).1 act) e w (sparseBytes code m)
      let n := countIf (fun b => m.testBit b) (List.range 256)
      let per := (mmaSteps f).2
      mmaRun s o e en 4 128 (2 + (n + per - 1) / per) (fun s c => sparseVec s e w code m mapBad (mmaFmt f).2 c)))

/-! ### Moving accumulators (R104, R110, R111) -/

/-- AZERO (R104). -/
def execAzero (o : MOp) (s : State) : Out :=
  .next (matRow s 0x08 o (fun e en =>
    let act := matRows s e en.word 128
    let dst := wDst en.word
    let s := clearAccLatent s e dst act
    let s := putAcc s e (act.flatMap (fun i => (List.range 128).map (fun c => { key := accKey dst i c, val := 0 })))
    complete (s.modEng e (fun g => g.closeChain dst)) e en 128))

/-- Bits of an element of an OFMT (R110). -/
def ofmtBits (f : Nat) : Nat :=
  match f with
  | 0 => 32 | 1 => 16 | 2 => 16 | 6 => 4
  | _ => 8

/-- The pitch in force and the exception that base and pitch raise (R111, R441). -/
def pitchFault (base p : Nat) (f : Nat) : Option (Nat × Nat) :=
  if base % 64 ≠ 0 then some (0x03, base)
  else if p ≠ 0 ∧ (p % 64 ≠ 0 ∨ p < 16 * ofmtBits f) then some (0x03, p)
  else none

/-- ALOAD (R110, R111). -/
def execAload (o : MOp) (s : State) : Out :=
  .next (matRow s 0x09 o (fun e en =>
    let imm := wImm en.word
    let f := bitsN imm 34 31
    let rows := bitsN imm 25 19 + 1
    let act := matRows s e en.word rows
    let base := en.s1.toNat
    let len := 16 * ofmtBits f
    let p := if en.s2 = 0 then len else en.s2.toNat
    let dst := wDst en.word
    match lowestOut tsSize (act.map (fun i => (base + i * p, len))) with
    | some x => agRaise s o.who en 0x02 x
    | none =>
      match pitchFault base en.s2.toNat f with
      | some (c, d) => agRaise s o.who en c d
      | none =>
        let s := forAll act (fun i s => senseTs s e (base + i * p) len) s
        let s := clearAccLatent s e dst act
        let g := s.eng e
        let b := ofmtBits f / 8
        let els := act.flatMap (fun i => (List.range 128).map (fun c =>
          let a := base + i * p + b * c
          let v := leNat (g.tsRead a b)
          ({ key := accKey dst i c, val := if f = 1 then v * 65536 else v, pois := g.tsPois a b } : AccEl)))
        matDone ((putAcc s e els).modEng e (fun g => g.closeChain dst)) o.who e en 0 (imm.testBit 16) false 128))

/-- A converted accumulator row: element encodings, scales, poison of each element, flags (R111, R130, R136, R139). -/
structure OutRow where
  els    : List Nat
  scales : List Nat := []
  pois   : List Bool
  fl     : Flags := 0
deriving DecidableEq, Repr

/-- Converts one row to an OFMT; `rm c` rounds element `c`. -/
def convertRow (f : Nat) (sat : Bool) (rm : Nat → RMode) (l : List (Nat × Bool)) : OutRow :=
  let fpRow (g : FpFmt) : OutRow :=
    let rs := l.zipIdx.map (fun x => fpConvVal g (rm x.2) sat (fp32Flushed x.1.1))
    { els := rs.map Prod.fst, pois := l.map Prod.snd, fl := rs.foldl (fun a r => a ||| r.2) 0 }
  let mxRow (g : ElFmt) : OutRow :=
    let bs := ((blocksOf l).zipIdx).map (fun b =>
      (mxEncode g (fun i => rm (32 * b.2 + i)) sat (b.1.map (fun x => fp32Flushed x.1)), b.1.any Prod.snd))
    { els := bs.flatMap (fun b => b.1.2.1), scales := bs.map (fun b => b.1.1),
      pois := bs.flatMap (fun b => List.replicate 32 b.2), fl := bs.foldl (fun a b => a ||| b.1.2.2) 0 }
  match f with
  | 0 => { els := l.map Prod.fst, pois := l.map Prod.snd }
  | 1 => fpRow .bf16
  | 2 => fpRow .fp16
  | 3 => fpRow .e4m3
  | 4 => fpRow .e5m2
  | 5 => mxRow (.mx .e4m3)
  | 6 => mxRow (.mx .e2m1)
  | _ => { els := l.map (fun x => intToInt true 8 sat (sextN 32 x.1)), pois := l.map Prod.snd }

/-- The writes of a row, a piece for each 64-byte row of the tile store. -/
def rowOut (at_ bits : Nat) (r : OutRow) : List TsWrite :=
  let bs := packBytes bits r.els
  let per := 512 / bits
  (List.range (bs.length / 64)).map (fun k =>
    { addr := at_ + 64 * k, bytes := (bs.drop (64 * k)).take 64, poison := ((r.pois.drop (per * k)).take per).any id })

/-- ASTORE (R110–R112, R139). -/
def execAstore (o : MOp) (s : State) : Out :=
  .next (matRow s 0x0A o (fun e en =>
    let imm := wImm en.word
    let f := bitsN imm 34 31
    let rows := bitsN imm 25 19 + 1
    let act := matRows s e en.word rows
    let base := en.s1.toNat
    let bits := ofmtBits f
    let len := 16 * bits
    let p := if en.s2 = 0 then len else en.s2.toNat
    let mx := f == 5 || f == 6
    let sc := base + rows * p
    let dst := wDst en.word
    let rnd := imm.testBit 17
    match lowestOut tsSize (act.map (fun i => (base + i * p, len)) ++ (if mx then act.map (fun i => (sc + 4 * i, 4)) else [])) with
    | some x => agRaise s o.who en 0x02 x
    | none =>
      match pitchFault base en.s2.toNat f with
      | some (c, d) => agRaise s o.who en c d
      | none =>
        let s := forAll act (fun i s => senseAcc s e dst i) s
        let k := if rnd && !act.isEmpty then drawKey s o.who else (s, 0)
        let s := k.1
        let g := s.eng e
        let outs := act.map (fun i =>
          (i, convertRow f (imm.testBit 30) (fun c => if rnd then srDrawOf k.2 (128 * i + c) else .rne)
            ((List.range 128).map (fun c => ((look 0 g.a (accKey dst i c)).toNat, nHas (accKey dst i c) g.ap)))))
        let writes := outs.flatMap (fun x =>
          rowOut (base + x.1 * p) bits x.2 ++
          (if mx then [({ addr := sc + 4 * x.1, bytes := x.2.scales.map (BitVec.ofNat 8), poison := x.2.pois.any id } : TsWrite)]
           else []))
        let s := s.modEng e (fun g => (g.tsWrite writes).closeChain dst)
        matDone s o.who e en (outs.foldl (fun a x => a ||| x.2.fl) 0) (imm.testBit 16)
          (outs.any (fun x => x.2.pois.any id)) 128))

/-- AGET (R104). -/
def execAget (o : MOp) (s : State) : Out :=
  .next (matRow s 0x0B o (fun e en =>
    let imm := wImm en.word
    let row := bitsN imm 6 0
    let half := bitsN imm 7 7
    let a := wS1 en.word
    let s := senseChecks s e (checkRows a row ((List.range 4).map (fun j => 4 * half + j)))
    let g := s.eng e
    let l := (List.range 64).map (fun j =>
      let key := accKey a row (64 * half + j)
      ({ val := (look 0 g.a key).toNat, pois := nHas key g.ap } : Lane))
    complete ((agPutFree s o.who 32 (wDst en.word) l).modEng e (fun g => g.closeChain a)) e en 128))

/-- APUT (R104). -/
def execAput (o : MOp) (s : State) : Out :=
  .next (matRow s 0x0C o (fun e en =>
    let imm := wImm en.word
    let row := bitsN imm 6 0
    let half := bitsN imm 7 7
    let l := agLanes s o.who 32 (wS1 en.word)
    let dst := wDst en.word
    let s := clearChecks s e (checkRows dst row ((List.range 4).map (fun j => 4 * half + j)))
    let s := putAcc s e (l.zipIdx.map (fun x =>
      { key := accKey dst row (64 * half + x.2), val := x.1.val, pois := x.1.pois }))
    complete (s.modEng e (fun g => g.closeChain dst)) e en 128))

end Sys2Proof.Machine
end

