-- ==== Sys2Proof/Machine/VectorLocal.lean ====
section
/-! DEFINITION. Vector loads and stores of the tile store or scratch (R117, R441). -/

namespace Sys2Proof.Machine

/-- How a tile-store instruction forms the address of a lane (R117). -/
inductive VAddr where
  | contiguous | strided | indexed
deriving DecidableEq, Repr

/-- The base B of R117. -/
def vecBase (who : Agent) (en : Entry) : Nat := agBase who (en.s1.toNat + bitsN (wImm en.word) 21 0)

/-- The address of lane `i`. -/
def vecAddr (who : Agent) (en : Entry) (k : VAddr) (width : Nat) (idx : List Lane) (i : Nat) : Nat :=
  let b := vecBase who en
  match k with
  | .contiguous => b + i * (width / 8)
  | .strided => (((b : Int) + (i : Int) * en.s2.toInt) % (agLocal who : Int)).toNat
  | .indexed => b + (laneAt idx i).val * (width / 8)

/-- The lanes that access memory: active, and with an index that is not poisoned. -/
def vecActive (s : State) (who : Agent) (en : Entry) (k : VAddr) (width : Nat) (idx : List Lane) : List Nat :=
  (List.range (agBits who / width)).filter (fun i =>
    agActive s who en i && !(decide (k = .indexed) && (laneAt idx i).pois))

/-- The exception that the addresses raise (R117, R441). -/
def vecFault (who : Agent) (en : Entry) (k : VAddr) (width : Nat) (addrs : List Nat) : Option (Nat × Nat) :=
  match lowestOut (agLocal who) (addrs.map (fun a => (a, width / 8))) with
  | some x => some (0x02, x)
  | none =>
    if k = .contiguous ∧ vecBase who en % 64 ≠ 0 then some (0x03, vecBase who en)
    else match addrs.filter (fun a => a % (width / 8) != 0) with
      | [] => none
      | x :: r => some (0x03, r.foldl min x)

/-- Steps of a tile-store instruction (R124). -/
def vecMemSteps (k : VAddr) (lanes : Nat) : Nat := if k = .contiguous then 1 else (lanes + 15) / 16

/-- A vector load (R100, R117). -/
def vecLoad (s : State) (opc : Nat) (k : VAddr) (o : MOp) : State :=
  vecRow s opc o (fun en =>
    let w := en.word
    let width := typeWidth (iType (wImm w))
    let idx := if k = .indexed then agLanes s o.who width (wS2 w) else []
    let act := vecActive s o.who en k width idx
    let addrs := act.map (vecAddr o.who en k width idx)
    match vecFault o.who en k width addrs with
    | some (c, x) => agRaise s o.who en c x
    | none =>
      let s := forAll addrs (fun a s => agSense s o.who a (width / 8)) s
      let t := s
      let s := vecWrite s o.who en width (wDst w) false (fun _ => true) (fun i =>
        if act.contains i then
          let a := vecAddr o.who en k width idx i
          { val := leNat (agRead t o.who a (width / 8)), pois := agPois t o.who a (width / 8) }
        else { val := 0, pois := true })
      agDone (agSteps s o.who en (vecMemSteps k act.length)) o.who en 128)

/-- A vector store (R100, R102, R117). -/
def vecStore (s : State) (opc : Nat) (k : VAddr) (o : MOp) : State :=
  vecRow s opc o (fun en =>
    let w := en.word
    let imm := wImm w
    let width := typeWidth (iType imm)
    let idx := if k = .indexed then agLanes s o.who width (wS2 w) else []
    let act := vecActive s o.who en k width idx
    let addrs := act.map (vecAddr o.who en k width idx)
    match vecFault o.who en k width addrs with
    | some (c, x) => agRaise s o.who en c x
    | none =>
      let data := agLanes s o.who width (wDst w)
      let writes := act.map (fun i =>
        ({ addr := vecAddr o.who en k width idx i, bytes := leBytes (width / 8) (laneAt data i).val,
           poison := (laneAt data i).pois } : TsWrite))
      let badIdx := (List.range (agBits o.who / width)).any (fun i =>
        decide (k = .indexed) && agActive s o.who en i && (laneAt idx i).pois)
      let bad := badIdx || act.any (fun i => (laneAt data i).pois)
      let s := agWrite s o.who writes
      let s := agCount s o.who (imm.testBit 30) (bitsN imm 29 24)
      let s := agSteps s o.who en (vecMemSteps k act.length)
      let s := if bad then agLoss s o.who en else s
      agDone s o.who en 128)

/-- VLDL (R117). -/
def execVldl (o : MOp) (s : State) : Out := .next (vecLoad s 0x20 .contiguous o)
/-- VSTL (R117). -/
def execVstl (o : MOp) (s : State) : Out := .next (vecStore s 0x21 .contiguous o)
/-- VLDLS (R117). -/
def execVldls (o : MOp) (s : State) : Out := .next (vecLoad s 0x22 .strided o)
/-- VSTLS (R117). -/
def execVstls (o : MOp) (s : State) : Out := .next (vecStore s 0x23 .strided o)
/-- VGATHL (R117). -/
def execVgathl (o : MOp) (s : State) : Out := .next (vecLoad s 0x24 .indexed o)
/-- VSCATL (R117). -/
def execVscatl (o : MOp) (s : State) : Out := .next (vecStore s 0x25 .indexed o)

end Sys2Proof.Machine
end

