-- ==== Sys2Proof/Machine/CupolaMem.lean ====
section
/-! DEFINITION. The Cupola memory class and MXDOT (R193–R197, R206). -/

namespace Sys2Proof.Machine

/-- A row of the Cupola profile alone. -/
def cupRow (s : State) (opc cls : Nat) (o : MOp) (body : Nat → Entry → State) : State :=
  match o.who with
  | .engine _ => s
  | .unit u => (match ready s o.who (mkWord opc cls o) with
    | none => s
    | some en => body u.val en)

/-- The launch of a unit's invocation. -/
def unitLaunch (s : State) (u : Nat) : Option Launch := (s.unit u).inv.bind (fun i => findLaunch s i.launch)

/-- What a kernel access meets: physical pieces, a kernel exception, a fault that holds the invocation, or a wait. -/
inductive KAcc where
  | ok (l : List (Nat × Nat))
  | exc (code : Nat)
  | fault (va reason pte level : Nat)
  | wait
deriving DecidableEq, Repr

/-- Translates a kernel access under the launch's ASN (R188, R194, R258). -/
def kTranslate (s : State) (u va n : Nat) (acc : Acc) : State × KAcc :=
  match unitLaunch s u with
  | none => (s, .wait)
  | some l =>
    match translateRange s l.cc [16 + dieOfUnit u, l.cc] (launchF l.words).asn va n acc true with
    | (s, .wait) => (s, .wait)
    | (s, .fault va r p lv) => (s, .fault va r p lv)
    | (s, .ok ps) =>
      if ps.any (fun p => region s p.1 != .unified) then (s, .exc 0x18)
      else if ps.any (fun p => memWaits s p.1 p.2.1) then (s, .wait)
      else (s, .ok (ps.map (fun p => (p.1, p.2.1))))

/-- An invocation waits for a tile: the tile is asked for, and the wait counts once for the invocation (R187, R426). -/
def noteWait (s : State) (u tile : Nat) : State :=
  match (s.unit u).inv with
  | none => s
  | some i =>
    let s := if i.waited then s else cuEvent u 0x05 1 s
    s.modUnit u (fun c => { c with inv := some { i with waited := true, wants := some tile } })

/-- The tile for which an access of virtual range waits: the first that its translation gives and that is not ready. -/
def waitTile (s : State) (u va n : Nat) (acc : Acc) : Option Nat :=
  match unitLaunch s u with
  | none => none
  | some l =>
    match (translateRange s l.cc [16 + dieOfUnit u, l.cc] (launchF l.words).asn va n acc true).2 with
    | .ok ps => (ps.find? (fun p => !residentTile s (p.1 / 65536) || memWaits s p.1 p.2.1)).map (fun p => p.1 / 65536)
    | _ => none

/-- A kernel access waits. -/
def kWaits (s : State) (u va n : Nat) (acc : Acc) : State :=
  match waitTile s u va n acc with
  | some t => noteWait s u t
  | none => s

/-- Continues a kernel access, or raises its exception, holds the invocation or lets it wait. -/
def kThen (s : State) (u va n : Nat) (acc : Acc) (go : State → List (Nat × Nat) → State) : State :=
  match kTranslate s u va n acc with
  | (t, .ok l) => go t l
  | (t, .exc c) => kernelExc t u c
  | (t, .fault va r p lv) => holdInvoc t u va r p lv acc
  | (_, .wait) => kWaits s u va n acc

/-- Translates accesses in order; the first that does not succeed ends the instruction before it has had any effect. -/
def kThenAll (u n : Nat) (acc : Acc) (go : State → List (List (Nat × Nat)) → State) :
    List Nat → List (List (Nat × Nat)) → State → State
  | [], done, s => go s done.reverse
  | va :: t, done, s => kThen s u va n acc (fun s l => kThenAll u n acc go t (l :: done) s)

/-- Bytes of physical pieces as the unit reads them, through its own stores and in any order of their aligned 8-byte words
(R194, R211), and whether one is poisoned. -/
def kBytes (s : State) (u : Nat) (l : List (Nat × Nat)) : List Byte × Bool :=
  let buf := (s.unit u).stores
  (l.flatMap (fun p => loadBytes s (s.unit u).earlier s.nonce buf p.1 p.2),
   l.any (fun p => memPoisoned s p.1 p.2) || buf.any (fun st => st.poison && l.any (fun p => storesMeet st { pa := p.1, bytes := List.replicate p.2 0 })))

/-- Puts stores of physical pieces into the unit's buffer, a line at a time (R221). -/
def kStore (s : State) (u : Nat) (l : List (Nat × Nat)) (bytes : List Byte) (poison : Nat → Bool) : State :=
  let runs := (l.foldl (fun (a : Nat × List Store) p =>
    (a.1 + p.2, a.2 ++ (linePieces p.1 p.2).map (fun q =>
      ({ pa := q.1, bytes := (bytes.drop (a.1 + (q.1 - p.1))).take q.2, poison := poison (a.1 + (q.1 - p.1)) } : Store))))
    (0, [])).2
  s.modUnit u (fun c => { c with stores := c.stores ++ runs })

/-! ### Scalar accesses of a kernel (R75, R193) -/

/-- A scalar load of a kernel; poison raises 0x20 (R197). -/
def unitLoad (s : State) (o : MOp) (u : Nat) (en : Entry) (n : Nat) (signed : Bool) : State :=
  let va := (agS s o.who (wS1 en.word) + wImmS en.word).toNat
  kThen s u va n .r (fun s l =>
    let s := forAll l (fun p s => memTouch s p.1 p.2) s
    let b := kBytes s u l
    if b.2 then kernelExc s u 0x20
    else
      let v := leNat b.1
      agDone (agPutS s o.who (wDst en.word)
        (if signed then BitVec.ofInt 64 (sextN (8 * n) v) else BitVec.ofNat 64 v)) o.who en 128)

/-- A scalar store of a kernel. -/
def unitStore (s : State) (o : MOp) (u : Nat) (en : Entry) (n : Nat) : State :=
  let va := (agS s o.who (wS1 en.word) + wImmS en.word).toNat
  kThen s u va n .w (fun s l =>
    agDone (kStore s u l (leBytes n (agS s o.who (wS2 en.word)).toNat) (fun _ => false)) o.who en 128)

/-! ### GLD and GST (R194) -/

/-- The scratch address of R194. -/
def gAddr (en : Entry) : Nat := (en.sd.toNat + bitsN (wImm en.word) 18 0) % 0x80000

/-- The exception of a GLD or GST: scratch range, then alignment or a length outside 64–65,536. -/
def gFault (en : Entry) : Option Nat :=
  let l := gAddr en
  let n := en.s2.toNat
  if (lowestOut 0x80000 [(l, n)]).isSome then some 0x02
  else if l % 64 ≠ 0 ∨ en.s1.toNat % 64 ≠ 0 ∨ n % 64 ≠ 0 ∨ n < 64 ∨ 65536 < n then some 0x03
  else none

/-- A copy between memory and scratch, with its guard (R70). -/
def gRow (s : State) (opc : Nat) (o : MOp) (body : Nat → Entry → State) : State :=
  cupRow s opc 4 o (fun u en =>
    if !agGuard s o.who en.word then agDone s o.who en 0
    else match gFault en with
      | some c => kernelExc s u c
      | none => body u en)

/-- GLD (R194). -/
def execGld (o : MOp) (s : State) : Out :=
  .next (gRow s 0x00 o (fun u en =>
    let n := en.s2.toNat
    kThen s u en.s1.toNat n .r (fun s l =>
      let s := forAll l (fun p s => memTouch s p.1 p.2) s
      let lines := l.flatMap (fun p => linePieces p.1 p.2)
      let ws := lines.zipIdx.map (fun p =>
        let b := kBytes s u [p.1]
        ({ addr := gAddr en + 64 * p.2, bytes := b.1, poison := b.2 } : TsWrite))
      agDone (agWrite s o.who ws) o.who en 128)))

/-- GST (R194, R196). -/
def execGst (o : MOp) (s : State) : Out :=
  .next (gRow s 0x01 o (fun u en =>
    let n := en.s2.toNat
    kThen s u en.s1.toNat n .w (fun s l =>
      let a := gAddr en
      let s := agSense s o.who a n
      let s' := kStore s u l (agRead s o.who a n) (fun off => agPois s o.who (a + off) 1)
      agDone (if agPois s o.who a n then markPoison s' u else s') o.who en 128)))

/-! ### Gather, scatter and atomics (R194, R206) -/

/-- The indices of the lanes of a gather, scatter or VAMO: 32- or 64-bit lanes of V[SRC2]. A lane beyond the last index
lane has an index that the spec does not state. -/
def kIndex (s : State) (who : Agent) (en : Entry) (i : Nat) : Nat × Bool :=
  let iw := if (wImm en.word).testBit 27 then 64 else 32
  if i < agBits who / iw then
    (laneGet iw (agV s who (wS2 en.word)) i, markGet iw (agVm s who (wS2 en.word)) i)
  else ((Config.freeWord s.nonce i).toNat % 2 ^ iw, false)

/-- Active lanes with the address of each and whether its index is poisoned. -/
def kLanes (s : State) (who : Agent) (en : Entry) (width : Nat) : List (Nat × Nat × Bool) :=
  ((List.range (agBits who / width)).filter (fun i => agActive s who en i)).map (fun i =>
    let x := kIndex s who en i
    (i, (en.s1.toNat + x.1 * (width / 8)) % 2 ^ 64, x.2))

/-- The lanes whose index is not poisoned, checked for alignment. -/
def kGood (l : List (Nat × Nat × Bool)) (width : Nat) : List (Nat × Nat) × Bool :=
  let good := (l.filter (fun x => !x.2.2)).map (fun x => (x.1, x.2.1))
  (good, good.all (fun x => x.2 % (width / 8) == 0))

/-- VGATHM (R194, R196). -/
def execVgathm (o : MOp) (s : State) : Out :=
  .next (cupRow s 0x02 4 o (fun u en =>
    let width := typeWidth (bitsN (wImm en.word) 34 31)
    let lanes := kLanes s o.who en width
    let good := kGood lanes width
    if !good.2 then kernelExc s u 0x03
    else
      kThenAll u (width / 8) .r (fun s ps =>
        let s := forAll ps (fun l s => forAll l (fun p s => memTouch s p.1 p.2) s) s
        let vals := (good.1.zip ps).map (fun x => (x.1.1, kBytes s u x.2))
        let s := vecWrite s o.who en width (wDst en.word) false (fun _ => true) (fun i =>
          match vals.find? (fun x => x.1 == i) with
          | some x => { val := leNat x.2.1, pois := x.2.2 }
          | none => { val := 0, pois := true })
        agDone (agSteps { s with nonce := s.nonce + 1 } o.who en ((lanes.length + 15) / 16)) o.who en 128)
        (good.1.map Prod.snd) [] s))

/-- VSCATM (R194, R196): the higher lane's value remains at a common address. -/
def execVscatm (o : MOp) (s : State) : Out :=
  .next (cupRow s 0x03 4 o (fun u en =>
    let width := typeWidth (bitsN (wImm en.word) 34 31)
    let lanes := kLanes s o.who en width
    let good := kGood lanes width
    if !good.2 then kernelExc s u 0x03
    else
      let data := agLanes s o.who width (wDst en.word)
      kThenAll u (width / 8) .w (fun s ps =>
        let s := forAll (good.1.zip ps) (fun x s =>
          let d := laneAt data x.1.1
          kStore s u x.2 (leBytes (width / 8) d.val) (fun _ => d.pois)) s
        let bad := lanes.any (fun x => x.2.2 || (laneAt data x.1).pois)
        let s := if bad then markPoison s u else s
        agDone (agSteps { s with nonce := s.nonce + 1 } o.who en ((lanes.length + 15) / 16)) o.who en 128)
        (good.1.map Prod.snd) [] s))

/-- AMO (R194, R206). -/
def execAmo (o : MOp) (s : State) : Out :=
  .next (cupRow s 0x04 4 o (fun u en =>
    let imm := wImm en.word
    let n := 2 * 2 ^ bitsN imm 30 29
    let ret := imm.testBit 28
    let va := en.s1.toNat
    if !agGuard s o.who en.word then agDone s o.who en 0
    else if va % n ≠ 0 then kernelExc s u 0x03
    else kThen s u va n .a (fun t l =>
      let pa := (l.headD (0, 0)).1
      if !atomicReady t pa n then kWaits s u va n .a
      else
        let t := drainUnit t u
        let ob := ((unitLaunch t u).map launchObs).getD .other
        match performAtomic t ob pa n (bitsN imm 34 31) en.s2.toNat en.sd.toNat false with
        | (t, some old) => agDone (if ret then agPutS t o.who (wDst en.word) (BitVec.ofNat 64 old) else t) o.who en 128
        | (t, none) => if ret then kernelExc t u 0x20 else agDone (markPoison t u) o.who en 128)))

/-- VAMO (R194, R196, R206). -/
def execVamo (o : MOp) (s : State) : Out :=
  .next (cupRow s 0x05 4 o (fun u en =>
    let imm := wImm en.word
    let n := 2 * 2 ^ bitsN imm 30 29
    let width := 8 * n
    let lanes := kLanes s o.who en width
    let good := kGood lanes width
    if !good.2 then kernelExc s u 0x03
    else
      let data := agLanes s o.who width (wDst en.word)
      kThenAll u n .a (fun t ps =>
        let pas := ps.map (fun l => (l.headD (0, 0)).1)
        if !(pas.all (fun pa => atomicReady t pa n)) then
          (match pas.find? (fun pa => !atomicReady t pa n) with
           | some pa => noteWait s u (pa / 65536)
           | none => s)
        else
          let t := drainUnit t u
          let ob := ((unitLaunch t u).map launchObs).getD .other
          let p := t.fresh
          let work := shuffle p.1 good.1.length (good.1.zip pas)
          let t := forAll work (fun x t =>
            let d := laneAt data x.1.1
            match performAtomic t ob x.2 n (bitsN imm 34 31) d.val 0 d.pois with
            | (t, some _) => if d.pois then markPoison t u else t
            | (t, none) => markPoison t u) { p.2 with nonce := p.2.nonce + good.1.length }
          let t := if lanes.any (fun x => x.2.2) then markPoison t u else t
          agDone (agSteps t o.who en ((lanes.length + 15) / 16)) o.who en 128)
        (good.1.map Prod.snd) [] s))

/-! ### MXDOT (R195) -/

/-- MX products a step (R195). -/
def mxdotPerStep (f : Nat) : Nat := if f = 0xA then 256 else 128

/-- MXDOT (R138–R140, R195, R196). -/
def execMxdot (o : MOp) (s : State) : Out :=
  .next (cupRow s 0x00 3 o (fun u en =>
    let imm := wImm en.word
    let f := bitsN imm 34 31
    let nb := bitsN imm 30 26 + 1
    let r := bitsN imm 25 21 + 1
    let fmt := (mmaFmt f).1
    let x := en.s1.toNat % 0x80000
    let w := en.s2.toNat % 0x80000
    let nx := denseBytes 1 nb fmt
    let nw := denseBytes r nb fmt
    if (lowestOut 0x80000 [(x, nx), (w, nw)]).isSome then kernelExc s u 0x02
    else if x % 64 ≠ 0 ∨ w % 64 ≠ 0 then kernelExc s u 0x03
    else
      let s := agSense (agSense s o.who x nx) o.who w nw
      let xv := denseVec o.who s x 1 nb fmt 0
      let p := s.fresh
      let acc := agLanes s o.who 32 (wDst en.word)
      let wr (i : Nat) : Bool := i < r && agActive s o.who en i
      let out := acc.zipIdx.map (fun a =>
        if wr a.2 then
          let wv := denseVec o.who s w r nb fmt a.2
          let order := groupOrder p.1 a.2 nb (List.range nb)
          let v := mmaElement false false false (fun _ => .rne) order xv wv a.1.val
          let bad := a.1.pois || xv.pois || wv.pois
          ({ val := if bad then (Config.freeWord p.1 a.2).toNat else v.1, pois := bad } : Lane)
        else a.1)
      let per := mxdotPerStep f
      let marks := mergeMarks 32 wr out (agVm s o.who (wDst en.word))
      agDone (cuEvent u 0x03 ((r * nb * 32 + per - 1) / per) (agPutV p.2 o.who (wDst en.word) (packLanes 32 out) marks)) o.who en 128))

end Sys2Proof.Machine
end

