-- ==== Sys2Proof/Machine/Sha3.lean ====
section
/-! DEFINITION. SHA3-256, the digest of kernel images (R199). -/

namespace Sys2Proof.Machine

/-- Rotation offsets of lane x + 5 y. -/
def keccakRot : List Nat :=
  [0, 1, 62, 28, 27, 36, 44, 6, 55, 20, 3, 10, 43, 25, 39, 41, 45, 15, 21, 8, 18, 2, 61, 56, 14]

/-- Round constants. -/
def keccakRc : List Word :=
  [0x0000000000000001, 0x0000000000008082, 0x800000000000808A, 0x8000000080008000, 0x000000000000808B,
   0x0000000080000001, 0x8000000080008081, 0x8000000000008009, 0x000000000000008A, 0x0000000000000088,
   0x0000000080008009, 0x000000008000000A] ++
  [0x000000008000808B, 0x800000000000008B, 0x8000000000008089, 0x8000000000008003, 0x8000000000008002,
   0x8000000000000080, 0x000000000000800A, 0x800000008000000A, 0x8000000080008081, 0x8000000000008080,
   0x0000000080000001, 0x8000000080008008]

/-- One round over the 25 lanes. -/
def keccakRound (a : List Word) (rc : Word) : List Word :=
  let g (l : List Word) (i : Nat) : Word := l.getD i 0
  let c := (List.range 5).map (fun x => g a x ^^^ g a (x + 5) ^^^ g a (x + 10) ^^^ g a (x + 15) ^^^ g a (x + 20))
  let d := (List.range 5).map (fun x => g c ((x + 4) % 5) ^^^ (g c ((x + 1) % 5)).rotateLeft 1)
  let a := (List.range 25).map (fun i => g a i ^^^ g d (i % 5))
  let b := (List.range 25).map (fun i =>
    let j := (i % 5 + 3 * (i / 5)) % 5 + 5 * (i % 5)
    (g a j).rotateLeft (natAt keccakRot j))
  (List.range 25).map (fun i =>
    let y := i / 5 * 5
    g b i ^^^ (~~~(g b (y + (i + 1) % 5)) &&& g b (y + (i + 2) % 5)) ^^^ (if i = 0 then rc else 0))

/-- The permutation. -/
def keccakF (a : List Word) : List Word := keccakRc.foldl keccakRound a

/-- Absorbs a padded message block by block. -/
def keccakAbsorb : Nat → List Word → List Byte → List Word
  | 0, a, _ => a
  | n + 1, a, m =>
    let blk := m.take 136
    let a := a.zipIdx.map (fun p => if p.2 < 17 then p.1 ^^^ w64At blk (8 * p.2) else p.1)
    keccakAbsorb n (keccakF a) (m.drop 136)

/-- The 32 bytes of SHA3-256. -/
def sha3_256 (m : List Byte) : List Byte :=
  let n := m.length / 136 + 1
  let pad := 136 * n - m.length
  let tail : List Byte := if pad = 1 then [0x86] else 0x06 :: (List.replicate (pad - 2) 0 ++ [0x80])
  ((keccakAbsorb n (List.replicate 25 0) (m ++ tail)).take 4).flatMap (fun w => leBytes 8 w.toNat)

end Sys2Proof.Machine
end

