-- ==== Sys2Proof/Machine/Manifest.lean ====
section
/-! DEFINITION. Firmware manifests in memory, as a root of trust reads and checks them (R377, R408, R409, R411). -/

namespace Sys2Proof.Machine

/-- Whether bytes of memory can be read: they lie in the unified range and none is poisoned. -/
def readable (s : State) (a n : Nat) : Bool := decide (a + n ≤ s.uBytes) && !memPoisoned s a n

/-- The fields of a manifest entry (R408). -/
structure ManEntry where
  comp   : Nat
  off    : Nat
  len    : Nat
  digest : List Byte
  zero   : Bool
deriving DecidableEq, Repr

/-- Reads the fields of an entry of 48 bytes. -/
def manEntry (b : List Byte) : ManEntry :=
  { comp := u16At b 0, off := u32At b 8, len := u32At b 12, digest := (b.drop 16).take 32
    zero := ((b.drop 2).take 6).all (fun x => x == 0) }

/-- Bytes of a manifest with `n` entries, with its signature and its key. -/
def manLen (n : Nat) : Nat := 32 + 48 * n + 2420 + 1312

/-- Whether a component that an entry names cannot be read, or fails its digest (R409). -/
def ManEntry.bad (s : State) (a : Nat) (e : ManEntry) : Bool :=
  !readable s (a + e.off) e.len || sha3_256 (memRead s (a + e.off) e.len) != e.digest

/-- What a root of trust finds in an image at `a`; whether the key is one of the fused ones and the signature verifies is
told to it (R409, R411). -/
def imageFound (s : State) (a : Nat) (c : SigCheck) : FwCheck :=
  if !readable s a 32 then { readable := false }
  else
    let h := memRead s a 32
    let n := u16At h 6
    let svn := u16At h 8
    if u32At h 0 ≠ 0x4D4E4650 ∨ u16At h 4 ≠ 1 ∨ n < 1 ∨ 16 < n ∨ 64 < svn ∨ !(h.drop 10).all (fun x => x == 0) then
      { manifestOk := false, svn := svn }
    else if !readable s a (manLen n) then { readable := false }
    else
      let m := memRead s a (manLen n)
      let es := (List.range n).map (fun i => manEntry ((m.drop (32 + 48 * i)).take 48))
      { manifestOk := c.keyOk && c.sigOk && es.all (fun e => e.zero && e.off % 4096 == 0)
        svn := svn
        badComps := es.foldl (fun v e => if e.bad s a then v ||| 2 ^ (if 1 ≤ e.comp ∧ e.comp ≤ 6 then e.comp - 1 else 7) else v) 0
        digest := leNat (sha3_256 m) }

/-- The image's manifest and components have been read at their homes. -/
def imageTouch (s : State) (a : Nat) : State :=
  if !readable s a 32 then s
  else
    let n := min 16 (u16At (memRead s a 32) 6)
    let es := (List.range n).map (fun i => manEntry (memRead s (a + 32 + 48 * i) 48))
    let touch (a n : Nat) (s : State) : State := if readable s a n then memTouch s a n else s
    forAll es (fun e s => touch (a + e.off) e.len s) (touch a (manLen n) s)

/-- The digest of relief firmware whose manifest is accepted and holds it whole (R377). -/
def reliefFound (s : State) (t a : Nat) (c : SigCheck) : Option Nat :=
  let x := imageFound s a c
  let n := min 16 (u16At (memRead s a 32) 6)
  let es := (List.range n).map (fun i => manEntry (memRead s (a + 32 + 48 * i) 48))
  if !x.readable || !x.manifestOk || decide (x.svn < (s.fwOf t).svnFused) then none
  else match es.find? (fun e => e.comp == 6) with
    | some e => if e.bad s a then none else some (leNat e.digest)
    | none => none

end Sys2Proof.Machine
end

