-- ==== Sys2Proof/Machine/KernelLoad.lean ====
section
/-! DEFINITION. Installing and removing user kernels (R198–R200), performing a CUPA (R92, R204–R206), and the spare Cupola
unit of a die (R364). -/

namespace Sys2Proof.Machine

/-- RESULT and BAD_WORD of a command, the kernel it leaves in the slot, and its measurement plus one. -/
structure KResult where
  result : Nat
  bad    : Nat := 0
  kernel : Option Kernel := none
  digest : Nat := 0
deriving DecidableEq, Repr

/-- Whether a word is a relative branch (R78). -/
def relBranch (w : Word) : Bool := wCls w == 1 && (wOpc w ≤ 3 || wOpc w == 6)

/-- Whether the target of the relative branch at position `i` lies in the code. -/
def branchInside (n i : Nat) (w : Word) : Bool :=
  let t := (i : Int) + sextN 32 (fld w 31 0)
  decide (0 ≤ t) && decide (t < n)

/-- The first refused word of a code: its index and RESULT (R200). -/
def firstBadWord (feat : Nat) (code : List Word) : Option (Nat × Nat) :=
  code.zipIdx.findSome? (fun p =>
    if !cupDefined feat p.1 then some (p.2, 0x03)
    else if relBranch p.1 && !branchInside code.length p.2 p.1 then some (p.2, 0x04) else none)

/-- Whether some launch of a kernel is held (R200). -/
def kernelHeld (s : State) (k : Nat) : Bool := s.launches.any (fun p => (launchF p.2.words).kernel == k)

/-- Checks an image and gives the kernel it holds (R199, R200). -/
def checkImage (s : State) (owner addr : Nat) : KResult :=
  if !readable s addr 64 then { result := 0x08 }
  else
    let h := memRead s addr 64
    let n := u32At h 8
    let entry := u32At h 12
    let zero (o k : Nat) : Bool := ((h.drop o).take k).all (fun b => b == 0)
    if u32At h 0 ≠ 0x4B505543 ∨ u16At h 4 ≠ 1 ∨ !zero 6 2 ∨ n % 8 ≠ 0 ∨ n < 8 ∨ 65536 < n ∨ entry % 8 ≠ 0 ∨ n ≤ entry ∨
        !zero 16 8 ∨ !zero 56 8 then { result := 0x01 }
    else if !readable s (addr + 64) n then { result := 0x08 }
    else
      let code := memRead s (addr + 64) n
      if sha3_256 code ≠ (h.drop 24).take 32 then { result := 0x02 }
      else
        let ws := wordsOf code (n / 8)
        match firstBadWord s.pkg.feature ws with
        | some (i, r) => { result := r, bad := i % 65536 }
        | none =>
          { result := 0
            kernel := some { owner := owner, entry := entry, code := ws }
            digest := 1 + leNat ((h.drop 24).take 32) }

/-- What an install (OP 1) or remove (OP 2) command gives (R200). -/
def kernelCommand (s : State) (op kernel owner addr : Nat) : KResult :=
  if kernel < 0x100 ∨ 0x140 ≤ kernel then { result := 0x06 }
  else if !s.feat 4 then { result := 0x07 }
  else if kernelHeld s kernel then { result := 0x05 }
  else if op = 1 then checkImage s owner addr
  else { result := 0, kernel := some {} }

/-- An install reads the image's header, and its code where the header is good, at the homes. -/
def imageRead (s : State) (op kernel addr : Nat) : State :=
  let r := kernelCommand s op kernel 0 addr
  if op ≠ 1 ∨ r.result = 0x05 ∨ r.result = 0x06 ∨ r.result = 0x07 ∨ s.uBytes < addr + 64 then s
  else
    let n := u32At (memRead s addr 64) 8
    let s := memTouch s addr 64
    if r.result = 0x01 ∨ s.uBytes < addr + 64 + n ∨ 65536 < n then s else memTouch s (addr + 64) n

/-- A write of CUP_KCMD: the command waits for the Signal Box (R200). -/
def kcmdWrite (s : State) (cc asn op kernel owner : Nat) : State :=
  if asn ≠ 0 then { s with kResult := put 0 s.kResult cc 0x09 }
  else if op = 1 ∨ op = 2 then
    { s with kCmds := s.kCmds ++ [(cc, op, kernel, owner, look 0 s.kAddr cc)] }
  else s

/-- A write of CUP_KADDR (R200). -/
def kaddrWrite (s : State) (cc asn : Nat) (v : Word) : State :=
  if asn ≠ 0 then { s with kResult := put 0 s.kResult cc 0x09 }
  else { s with kAddr := put 0 s.kAddr cc (v.toNat / 64 * 64) }

/-- Whether a Signal Box or relief controller is at work (R374, R375). -/
def sbWorks (s : State) : Bool := !s.holding

/-- The Signal Box performs the oldest kernel command (R200), and the slot's measurement follows (R412). -/
def kcmdComplete (s : State) : State :=
  match s.kCmds with
  | [] => s
  | (cc, op, kernel, owner, addr) :: rest =>
    if !sbWorks s then s
    else
      let s := logbook s
      let r := kernelCommand s op kernel owner addr
      let s := imageRead s op kernel addr
      let s := match r.kernel with
        | some k =>
          { s.setKernel (kernel - 0x100) k with
            sec := { s.sec with meas := put 0 s.sec.meas (0x80 + (kernel - 0x100)) r.digest } }
        | none => s
      { s with kCmds := rest, kResult := put 0 s.kResult cc r.result, kBad := put 0 s.kBad cc r.bad }

/-- CUP_KSTATUS (R200). -/
def kstatusRead (s : State) (cc : Nat) : Word :=
  pack [(32, 16, look 0 s.kBad cc), (8, 8, look 0 s.kResult cc), (0, 1, b2n (s.kCmds.any (fun c => c.1 == cc)))]

/-! ### CUPA (R92, R204–R206) -/

/-- Changes an atomic. -/
def modAtomic (s : State) (k : Nat) (f : Atomic → Atomic) : State :=
  { s with atomics := s.atomics.map (fun p => if p.1 = k then (k, f p.2) else p) }

/-- Takes an atomic away. -/
def dropAtomic (s : State) (k : Nat) : State := { s with atomics := s.atomics.filter (fun p => p.1 != k) }

/-- A CUPA's end: the return value and the counter, unless the engine was reset (R92). Return bytes that are marked poisoned
hold a free value (log entry 143). -/
def cupaOut (s : State) (x : Atomic) (old : Option Nat) : State :=
  if x.discard then s
  else
    let e := x.engine
    let s := match old with
      | some v => if x.ret then s.modEng e (fun g => g.tsWrite [{ addr := x.local_, bytes := leBytes 8 v }]) else s
      | none =>
        let p := s.fresh
        let s := if x.ret then p.2.modEng e (fun g =>
            g.tsWrite [{ addr := x.local_, bytes := leBytes 8 (Config.freeWord p.1 0).toNat, poison := true }]) else s
        s.modEng e (fun g => { g with
          cupPoison := true, cupPoisonCount := satN 0xFFFF (g.cupPoisonCount + 1), cupPoisonVa := BitVec.ofNat 64 x.va })
    tcAdd s e x.tc 1

/-- Performs an engine's atomic, or records its translation fault (R57, R204–R206). -/
def cupaPerform (s : State) (k : Nat) (x : Atomic) : State :=
  let e := x.engine
  let cc := ccOfEngine e
  if x.fault.isSome || (s.holding && !x.atUnit) || (x.ret && (s.eng e).migrating.isSome) then s
  else match translate s cc [cc] x.asn x.va .a false with
    | (_, .wait) => s
    | (s, .fault r p l) =>
      let q := recordFault s cc x.asn
        { id := 0, reason := r, access := 8, va := x.va, asn := x.asn, kind := 7, engine := e, reqSeq := x.dsn, pte := p,
          level := l }
      modAtomic q.1 k (fun x => { x with fault := some q.2 })
    | (t, .ok y) =>
      let pa := y.pa x.va
      if !atomicReady t pa x.size then s
      else
        let r := performAtomic t (.submit e) pa x.size x.aop x.op.toNat x.cmp.toNat false
        cupaOut (dropAtomic r.1 k) x r.2

/-! ### The spare unit (R364) -/

/-- The channel a die's spare unit serves. -/
def spareOf (s : State) (die : Nat) : Option Nat :=
  match look 0 s.sig.cupSpare die with
  | 0 => none
  | n + 1 => some n

/-- The role of a channel's unit moves to the die's spare, once its running invocation has ended (R364); the die
then has no spare left (R368). -/
def spareSwitch (s : State) (ch : Nat) : State :=
  if !sbWorks s || (spareOf s (dieOfUnit ch)).isSome || (s.sig.moving.isSome && s.sig.moving != some ch) then s
  else if (s.unit ch).inv.isSome then { s with sig := { s.sig with moving := some ch } }
  else
    let s := logbook s
    { s with sig := { s.sig with
      moving := none
      cupSpare := put 0 s.sig.cupSpare (dieOfUnit ch) (ch + 1)
      serviceDies := s.sig.serviceDies ||| 2 ^ siteCU (dieOfUnit ch) } }

/-! ### The commands -/

/-- CUP_KCMD_INSTALL (R200). -/
def execCupKcmdInstall (cc : Fin 4) (asn : Asn) (kernel : BitVec 12) (owner : Asn) (s : State) : Out :=
  .next (kcmdWrite s cc asn.toNat 1 kernel.toNat owner.toNat)

/-- CUP_KCMD_REMOVE (R200). -/
def execCupKcmdRemove (cc : Fin 4) (asn : Asn) (kernel : BitVec 12) (s : State) : Out :=
  .next (kcmdWrite s cc asn.toNat 2 kernel.toNat 0)

/-- CUP_KCMD_COMPLETE (R200). -/
def execCupKcmdComplete (s : State) : Out := .next (kcmdComplete s)

/-- CUPOLA_SPARE_SWITCH (R364). -/
def execCupolaSpareSwitch (ch : Fin 384) (s : State) : Out := .next (spareSwitch s ch)

end Sys2Proof.Machine
end

