-- ==== Sys2Proof/Machine/Caches.lean ====
section
/-! DEFINITION. Platform caches: way power-down, disabling and re-enabling (R303–R309). -/

namespace Sys2Proof.Machine

/-- The masked and retired ways: those that hold no line once a way change is complete (R303, R305). -/
def PlatCache.offWays (c : PlatCache) (m : Nat) : Nat := m ||| c.waysRetired

/-- Starts the next waiting operation of a Platform cache, in the order of the writes (R304, R308). -/
def PlatCache.startNext (c : PlatCache) : List PcOp → PlatCache
  | [] => { c with waiting := [] }
  | .ways m :: t =>
    if c.disabled then { c with mask := m }.startNext t
    else if m = c.mask && c.offWays m = c.waysOff then c.startNext t
    else { c with mask := m, cur := some (.ways m), cleaned := 0, waiting := t }
  | .disable :: t =>
    if c.disable && !c.disabled then { c with cur := some .disable, cleaned := 0, waiting := t } else c.startNext t

/-- Starts what waits, unless an operation is in progress or the keepers hold safe (R308). -/
def PlatCache.next (c : PlatCache) (holding : Bool) : PlatCache :=
  if holding || c.cur.isSome then c else c.startNext c.waiting

/-- A write of PC_WAY_MASK: of several that wait only the latest counts (R304). -/
def wayMaskWrite (s : State) (cc : Nat) (v : Word) : State :=
  s.modPc cc (fun c =>
    let rest := c.waiting.filter (fun o => match o with | .ways _ => false | .disable => true)
    { c with waiting := rest ++ [PcOp.ways (fld v 15 1 * 2)] }.next s.holding)

/-- Ways that a way change empties drop their lines, and each dirty one is written to its frame (R303 step 2). -/
def PlatCache.emptyWays (c : PlatCache) (off : Nat) : PlatCache :=
  let out := c.lines.filter (fun p => off.testBit ((p.2 - 1) / 2))
  { c with
    lines := c.lines.filter (fun p => !off.testBit ((p.2 - 1) / 2))
    cleaned := c.cleaned + countIf (fun p => p.2 % 2 == 0) out }

/-- Dirty lines of a Platform cache in the given ways. -/
def PlatCache.dirtyIn (c : PlatCache) (ways : Nat) : Nat :=
  countIf (fun p => ways.testBit ((p.2 - 1) / 2) && p.2 % 2 == 0) c.lines

/-- A way change ends: every way matches MASK, or is retired (R303 steps 3–5). -/
def wayChangeDone (s : State) (cc : Nat) : State :=
  let c := s.pc cc
  match c.cur with
  | some (.ways m) =>
    let off := c.offWays m
    let s := ccEvent cc 0x03 (c.dirtyIn off) s
    s.modPc cc (fun c =>
      let c := c.emptyWays off
      { c with waysOff := off, lastClean := satN 0xFFFFFFFF c.cleaned, cur := none }.next s.holding)
  | _ => s

/-- A write of 1 to PC_CTRL.DISABLE (R307): the clean starts, or waits (R308). -/
def pcDisable (s : State) (cc : Nat) : State :=
  s.modPc cc (fun c =>
    if c.disable then c else { c with disable := true, waiting := c.waiting ++ [PcOp.disable] }.next s.holding)

/-- A write of 0 to PC_CTRL.DISABLE: the cache is enabled again, starts empty, clears DISABLED at once, and moves its
ways to MASK (R307, R308). -/
def pcEnable (s : State) (cc : Nat) : State :=
  s.modPc cc (fun c =>
    if !c.disable then c
    else
      let was := c.disabled || c.cur == some PcOp.disable
      let c := { c with
        disable := false
        disabled := false
        lines := if was then [] else c.lines
        cur := if c.cur = some PcOp.disable then none else c.cur
        waiting := c.waiting.filter (fun o => o != PcOp.disable) }
      let m := c.mask
      if c.cur.isNone && c.offWays m != c.waysOff then
        if s.holding then { c with waiting := PcOp.ways m :: c.waiting }
        else { c with cur := some (.ways m), cleaned := 0 }
      else c.next s.holding)

/-- A disable ends: every dirty line written to its frame, every line dropped, DISABLED set (R307). -/
def pcDisableDone (s : State) (cc : Nat) : State :=
  let c := s.pc cc
  if c.cur = some PcOp.disable then
    let s := ccEvent cc 0x03 (c.dirtyIn 0xFFFF) s
    s.modPc cc (fun c =>
      let c := c.emptyWays 0xFFFF
      { c with disabled := true, lastClean := satN 0xFFFFFFFF c.cleaned, cur := none }.next s.holding)
  else s

/-- The clean of an engine's scalar cache ends (R307): it starts once DISABLE is set and the keepers do not hold, and one
that has started completes in a hold (R308). -/
def scDisableDone (s : State) (e : Nat) : State :=
  let g := s.eng e
  if g.scDisable && !g.scDisabled && (g.scClean || !s.holding) then
    (cleanScalar s e).modEng e (fun g => { g with sc := [], scClean := false, scDisabled := true })
  else s

/-- A Platform cache writes every dirty line to its frame and empties (R306). -/
def pcFlush (s : State) (cc : Nat) : State :=
  let s := ccEvent cc 0x03 ((s.pc cc).dirtyIn 0xFFFF) s
  s.modPc cc (fun c => { c with lines := [] })

/-- Every cleaned line of every Platform cache, and its registers back at their warm-reset values (R306, R308). -/
def pcWarmReset (s : State) : State :=
  forAll [0, 1, 2, 3] (fun cc s =>
    (pcFlush s cc).modPc cc (fun c =>
      { c with disable := false, disabled := false, mask := 0, waysOff := c.waysRetired, cur := none, waiting := [],
               cleaned := 0, lastClean := 0 })) s

/-- A way that fails its test is emptied and retired (R305). -/
def retireWay (s : State) (cc w : Nat) : State :=
  let s := ccEvent cc 0x03 ((s.pc cc).dirtyIn (2 ^ w)) s
  s.modPc cc (fun c =>
    let c := c.emptyWays (2 ^ w)
    { c with waysRetired := c.waysRetired ||| 2 ^ w, waysOff := c.waysOff ||| 2 ^ w, cleaned := (s.pc cc).cleaned })

/-- PC_WAY_MASK_WRITE. -/
def execPcWayMaskWrite (cc : Fin 4) (v : Word) (s : State) : Out := .next (wayMaskWrite s cc v)

/-- WAY_CHANGE_COMPLETE. -/
def execWayChangeComplete (cc : Fin 4) (s : State) : Out := .next (wayChangeDone s cc)

/-- PC_CTRL_DISABLE. -/
def execPcCtrlDisable (cc : Fin 4) (s : State) : Out := .next (pcDisable s cc)

/-- PC_CTRL_ENABLE. -/
def execPcCtrlEnable (cc : Fin 4) (s : State) : Out := .next (pcEnable s cc)

/-- CACHE_DISABLE_COMPLETE. -/
def execCacheDisableComplete (c : CacheSel) (s : State) : Out :=
  .next (match c with
    | .platform cc => pcDisableDone s cc
    | .engine e => scDisableDone s e)

end Sys2Proof.Machine
end

