-- ==== Sys2Proof/Machine/Expects.lean ====
section
/-! DEFINITION. EXPECT requests: chunks, settled tiles and the counter over the settled prefix (R88, R245, R250, R265). -/

namespace Sys2Proof.Machine

/-- Chunks of a request: 64 KiB-aligned pieces of the virtual space that the range overlaps (R88). -/
def expectChunks (base len : Nat) : Nat := if len = 0 then 0 else (base + len - 1) / 65536 + 1 - base / 65536

/-- Whether a tile is settled: resident, or left in place because no HBM frame can be freed (R88, R245). -/
def settledTile (s : State) (t : Nat) : Bool := residentTile s t || decide (s.hFrames ≤ stuckFrames s)

/-- What the pages of a chunk give: settled, a tile to wait for, or a fault. -/
inductive ChunkRes where
  | settled
  | waits
  | fault (va reason pte level : Nat)
deriving DecidableEq, Repr

/-- The state of one chunk of a request (R88). -/
def chunkState (s : State) (x : Expect) (c : Nat) : State × ChunkRes :=
  let first := x.base / 65536 + c
  let lo := max x.base (first * 65536)
  let hi := min (x.base + x.len) ((first + 1) * 65536)
  (pagePieces lo (hi - lo)).foldl (fun st p =>
    match st.2 with
    | .fault _ _ _ _ => st
    | r =>
      if nHas (p.1 / 4096) x.errPages then st
      else
        match translate st.1 (ccOfEngine x.engine) [ccOfEngine x.engine] x.asn p.1 .r false with
        | (s, .wait) => (s, .waits)
        | (s, .fault rs pte lv) => (s, .fault p.1 rs pte lv)
        | (s, .ok t) => (s, if settledTile s (t.pa p.1 / 65536) then r else .waits)) (s, .settled)

/-- Changes a request. -/
def modExpect (s : State) (k : Nat) (f : Expect → Expect) : State :=
  { s with expects := s.expects.map (fun p => if p.1 = k then (k, f p.2) else p) }

/-- Advances a request over its settled prefix, and takes it away when it is counted whole (R88). While the keepers hold
safe the counters wait (R249). -/
def expectLoop (k : Nat) : Nat → State → State
  | 0, s => s
  | n + 1, s =>
    match s.expects.find? (fun p => p.1 == k) with
    | none => s
    | some (_, x) =>
      if s.holding || x.fault.isSome then s
      else if expectChunks x.base x.len ≤ x.counted then { s with expects := s.expects.filter (fun p => p.1 != k) }
      else match chunkState s x x.counted with
        | (s, .settled) => expectLoop k n (tcAdd (modExpect s k (fun x => { x with counted := x.counted + 1 })) x.engine x.tc 1)
        | (s, .waits) => s
        | (s, .fault va r pte lv) =>
          let q := recordFault s (ccOfEngine x.engine) x.asn
            { id := 0, reason := r, access := 1, va := va, asn := x.asn, kind := 8, engine := x.engine, reqSeq := x.dsn,
              pte := pte, level := lv }
          modExpect q.1 k (fun x => { x with fault := some q.2, faultVa := va })

/-- Advances one request as far as its tiles are settled. -/
def advanceExpect (s : State) (k : Nat) : State :=
  match s.expects.find? (fun p => p.1 == k) with
  | none => s
  | some (_, x) => expectLoop k (expectChunks x.base x.len - x.counted + 1) s

/-- Advances every request. -/
def advanceExpects (s : State) : State := forAll (s.expects.map Prod.fst) (fun k s => advanceExpect s k) s

/-- Accepts an EXPECT request. -/
def acceptExpect (s : State) (x : Expect) : State :=
  let k := s.nextKey
  advanceExpect { s with nextKey := k + 1, expects := s.expects ++ [(k, x)] } k

/-- A TCWAIT of the engine stands waiting on a counter: its requests on it enter the express class (R250). -/
def expressFor (s : State) (e k : Nat) : State :=
  if s.feat 8 then
    { s with expects := s.expects.map (fun p => if p.2.engine = e ∧ p.2.tc = k then (p.1, { p.2 with express := true }) else p) }
  else s

end Sys2Proof.Machine
end

