-- ==== Sys2Proof/Machine/Window.lean ====
section
/-! DEFINITION. The engine window: its register reads and writes, starting, parking, resuming, resetting and migrating
an engine (R58–R66, R174, R192, R206, R307, R425). -/

namespace Sys2Proof.Machine

/-! ### Reset (R61) -/

/-- What an engine reset keeps: the tile store and accumulators (R49), the counters of cold power-on, the launch
numbering (R181), and where the engine lies. -/
def Engine.cleared (g : Engine) : Engine :=
  { a := g.a, ap := g.ap, ts := g.ts, tsPoison := g.tsPoison, tsLatent := g.tsLatent, accLatent := g.accLatent,
    ceCount := g.ceCount, ueCount := g.ueCount, lastErr := g.lastErr, launchSeq := g.launchSeq, pmNotice := g.pmNotice,
    slot := g.slot, unplaced := g.unplaced }

/-- The Tickets that an endpoint holds are lost, and their slots are credits again (R328, R398). -/
def loseTickets (s : State) (ep : Nat) : State := grantCredits (s.modEp ep (fun p => { p with slots := [] })) ep

/-- Steps 3 and 4 of R61: once no car of its shunters is in flight the engine is IDLE. The Tickets that it holds are
lost (R398). -/
def engResetDone (s : State) (e : Nat) : State :=
  if (s.eng e).state == .resetting && (s.stream (2 * e)).inFlight == 0 && (s.stream (2 * e + 1)).inFlight == 0 then
    loseTickets (s.modEng e Engine.cleared) (epEngine e)
  else s

/-- The launches that an engine submitted and that are held. -/
def engLaunches (s : State) (e : Nat) : List Nat :=
  (s.launches.filter (fun p => p.2.engine == some e)).map Prod.fst

/-- What an engine submitted ends: descriptors and launches ABORTED with CAUSE 0x08, EXPECT requests, and the results of
its atomics (R61 step 3, R191). -/
def endSubmitted (s : State) (e : Nat) : State :=
  let s := abortStream (abortStream s (2 * e) 0x08) (2 * e + 1) 0x08
  let s := forAll (engLaunches s e) (fun k s => abortLaunch s k 0x08 0xFFFFFFFF) s
  { s with
    atomics := s.atomics.map (fun p => if p.2.src = 0 ∧ p.2.engine = e then (p.1, { p.2 with discard := true }) else p)
    expects := s.expects.filter (fun p => p.2.engine != e) }

/-- An engine reset (R61). -/
def engReset (s : State) (e : Nat) : State :=
  if (s.eng e).state == .resetting then s
  else
    let s := cleanScalar (dropSendRequests s e) e
    let s := s.modEng e (fun g =>
      { g.mapQueues (fun _ => []) with
        hold := none, state := .resetting, cause := .none, excs := [], exc := none, multi := false, icache := [] })
    engResetDone (endSubmitted s e) e

/-! ### Control (R58, R60, R66) -/

/-- START (R66). -/
def engStart (s : State) (e : Nat) : State :=
  s.modEng e (fun g =>
    if g.state == .idle && !g.unplaced then
      { g with dsn := 0, icache := [], earlier := none, pc := g.entry, state := .running, cause := .none, exc := none, multi := false }
    else g)

/-- PARK (R58, R66). -/
def engPark (s : State) (e : Nat) : State :=
  s.modEng e (fun g => if g.state == .running then g.park .software else g)

/-- RESUME with RESUME_MODE as it stands (R60, R66). -/
def engResume (s : State) (e : Nat) : State := settle (resumeEngine s e (s.eng e).resumeMode) e

/-- ICINV (R52, R66). -/
def engIcinv (s : State) (e : Nat) : State :=
  s.modEng e (fun g => if g.state == .idle || g.state == .parked then { g with icache := [] } else g)

/-- A write of ENG_CTRL (R66, R8). -/
def engCtrlWrite (s : State) (e : Nat) (v : Word) : State :=
  let s := s.modEng e (fun g => { g with resumeMode := if fld v 5 4 ≤ 1 then fld v 5 4 else g.resumeMode })
  let s := if bit v 9 then engIcinv s e else s
  if bit v 8 then engReset s e
  else if bit v 3 then engPark s e
  else
    let s := if bit v 2 then engResume s e else s
    if bit v 1 then engStart s e else s

/-- A write of ENG_SC_CTRL (R307). -/
def engScWrite (s : State) (e : Nat) (v : Word) : State :=
  s.modEng e (fun g =>
    if bit v 0 then { g with scDisable := true, scClean := g.scClean || (!g.scDisable && !s.holding) }
    else if g.scDisabled then { g with scDisable := false, scClean := false, scDisabled := false, sc := [] }
    else { g with scDisable := false, scClean := false })

/-- A write of ENG_CUP_CANCEL (R192). -/
def engCupCancel (s : State) (e : Nat) (v : Word) : State :=
  match s.launches.find? (fun p => p.2.engine == some e && p.2.seq == v.toNat) with
  | some p => abortLaunch s p.1 0x0C 0xFFFFFFFF
  | none => s

/-- Whether registers that are written only while IDLE or PARKED may be written (R66). -/
def Engine.quiet? (g : Engine) : Bool := g.state == .idle || g.state == .parked

/-- One write to a register of an engine window (R66, R174, R192, R206, R307, R425). -/
def engWrite (s : State) (e off : Nat) (v : Word) : State :=
  let q := (s.eng e).quiet?
  match off with
  | 0x0000 => engCtrlWrite s e v
  | 0x0010 => if q then s.modEng e (fun g => { g with entry := v.toNat / 8 * 8 }) else s
  | 0x0020 => if q then s.modEng e (fun g => { g with asn := fld v 19 0 }) else s
  | 0x0028 => if q then s.modEng e (fun g => { g with notifyEn := bit v 32, ownerEp := fld v 31 0 }) else s
  | 0x0048 => s.modEng e (fun g => { g with fp := g.fp &&& ~~~(v.setWidth 5) })
  | 0x0070 => engCupCancel s e v
  | 0x0078 => engScWrite s e v
  | 0x0080 => if bit v 0 then s.modEng e (fun g => { g with cupPoison := false }) else s
  | 0x04C8 => s.modEng e (fun g => { g with pmOvf := g.pmOvf &&& ~~~(v &&& 0x1FFF) })
  | 0x04D0 => s.modEng e (fun g => { g with pmNotify := v &&& 0x1_FFFF_FFFF })
  | 0x04E0 => if bit v 0 then s.modEng e (fun g => { g with pmSampleInfo := g.pmSampleInfo &&& ~~~(1 : Word) }) else s
  | _ =>
    if 0x0440 ≤ off ∧ off < 0x0480 then
      s.modEng e (fun g => { g with pmc := put 0 g.pmc ((off - 0x0440) / 8) (v &&& 0xFFFF_FFFF_FFFF) })
    else if 0x0480 ≤ off ∧ off < 0x04C0 then
      s.modEng e (fun g => { g with pmSel := put 0 g.pmSel ((off - 0x0480) / 8) (v &&& 0x3_80FF_00FF) })
    else if 0x0800 ≤ off ∧ off < 0x0A00 then
      if q then tcUpdate s e true ((off - 0x0800) / 8) (fld v 31 0) else s
    else s

/-- A write to an engine window; during a migration it waits for the switch (R63), and in drowse for the Spire to wake
(R394). -/
def engWindowWrite (s : State) (e off : Nat) (v : Word) (o : Obs := .other) : State :=
  if (s.eng e).migrating.isSome || asleep s e then
    s.modEng e (fun g => { g with heldCtrl := g.heldCtrl ++ [{ off := off, value := v, by_ := o }] })
  else engWrite s e off v

/-- STATE of an engine shunter (R174). -/
def shState (s : State) (t : Stream) : Nat :=
  if s.holding then 4
  else if t.hold.testBit 0 then 3
  else if t.slots.any (fun d => match d.phase with | .paused _ | .pausing _ => true | _ => false) then 2
  else if t.slots.isEmpty then 0 else 1

/-- A read of a register of an engine window (R66). -/
def engRead (s : State) (e off : Nat) : Word :=
  let g := s.eng e
  let sh (j : Nat) : Word :=
    let t := s.stream (2 * e + j)
    pack [(32, 32, t.endedSeq), (16, 8, t.inFlight), (8, 8, t.slots.length), (0, 4, shState s t)]
  match off with
  | 0x0000 => pack [(8, 1, b2n (g.state == .resetting)), (4, 2, g.resumeMode)]
  | 0x0008 => pack [(4, 4, g.cause.code), (0, 3, g.state.code)]
  | 0x0010 => BitVec.ofNat 64 g.entry
  | 0x0018 => BitVec.ofNat 64 g.pc
  | 0x0020 => BitVec.ofNat 64 g.asn
  | 0x0028 => pack [(32, 1, b2n g.notifyEn), (0, 32, g.ownerEp)]
  | 0x0030 => excWord g
  | 0x0038 => BitVec.ofNat 64 g.excShown.addr
  | 0x0040 => BitVec.ofNat 64 g.excShown.data
  | 0x0048 => g.fp.setWidth 64
  | 0x0050 => BitVec.ofNat 64 g.dsn
  | 0x0058 => pack [(48, 16, g.ceCount), (32, 16, g.ueCount), (0, 22, g.lastErr)]
  | 0x0060 => sh 0
  | 0x0068 => sh 1
  | 0x0078 => pack [(1, 1, b2n g.scDisabled), (0, 1, b2n g.scDisable)]
  | 0x0080 => pack [(48, 16, g.cupPoisonCount), (0, 1, b2n g.cupPoison)]
  | 0x0088 => g.cupPoisonVa
  | 0x04C8 => g.pmOvf
  | 0x04D0 => g.pmNotify
  | 0x04D8 => g.pmSampleAddr
  | 0x04E0 => g.pmSampleInfo
  | _ =>
    if 0x0400 ≤ off ∧ off < 0x0428 then look 0 g.slots ((off - 0x0400) / 8)
    else if 0x0440 ≤ off ∧ off < 0x0480 then look 0 g.pmc ((off - 0x0440) / 8)
    else if 0x0480 ≤ off ∧ off < 0x04C0 then look 0 g.pmSel ((off - 0x0480) / 8)
    else if 0x0800 ≤ off ∧ off < 0x0A00 then (g.tcVal ((off - 0x0800) / 8)).setWidth 64
    else 0

/-! ### Placement and migration (R62–R65, R362) -/

/-- Whether an engine occupies a physical slot, or is on its way there. -/
def slotTaken (s : State) (n : Nat) : Bool :=
  (List.range 256).any (fun e =>
    let g := s.eng e
    !g.unplaced && (physSlot s e == n || g.migrating == some n))

/-- A free spare slot: nothing lies there, and it is neither under test, retired, quarantined nor silent (R362, R382). -/
def slotFree (s : State) (n : Nat) : Bool :=
  !slotTaken s n && (look 0 s.sig.slots n == 0 || look 0 s.sig.slots n == 2) && !s.sig.quarantined.testBit (siteSP (n / 36))

/-- Whether an engine may be moved now (R62, R64, R65, R374). -/
def mayMigrate (s : State) (e slot : Nat) : Bool :=
  let g := s.eng e
  let near := (List.range 36).any (fun i => slotFree s (36 * (physSlot s e / 36) + i))
  slotFree s slot && (slot / 36 == physSlot s e / 36 || !near) && !s.shut && g.migrating.isNone &&
    !g.unplaced && (g.state == .idle || g.state == .parked || (g.state == .running && s.feat 7))

/-- Counter updates held while an engine was away, in order of arrival. -/
def applyHeldTc (s : State) (e : Nat) : State :=
  s.modEng e (fun g =>
    { g.heldTc.foldl (fun g u => g.tcApply (u.1 == 1) u.2.1 u.2.2) g with heldTc := [] })

/-- Window writes held while an engine was away, in order of arrival. -/
def applyHeldCtrl (s : State) (e : Nat) : State :=
  let held := (s.eng e).heldCtrl
  forAll held (fun w s =>
    if w.off < 0x20000 then engWrite s e w.off w.value
    else s.modEng e (fun g => g.tcApply (decide (0x20040 ≤ w.off)) (w.off % 64) w.value.toNat)) (s.modEng e (fun g => { g with heldCtrl := [] }))

/-- A Spire leaves drowse: its supply rises again, and what was held for its engines is performed (R394). -/
def spireWake (s : State) (sp : Nat) : State :=
  if !(s.spire sp).drowse then s
  else
    let s := s.modSpire sp (fun p => SpirePwr.settle { p with drowse := false })
    forAll ((List.range 256).filter (fun e => physSlot s e / 36 == sp && !(s.eng e).unplaced)) (fun e s => applyHeldCtrl s e) s

/-- Steps 1–5 of R62: the engine stops, its work pauses, its cache is clean and its context is on its way. -/
def migrateStart (s : State) (e slot : Nat) : State :=
  let s := logbook (spireWake (spireWake s (physSlot s e / 36)) (slot / 36))
  let s := pauseStream (pauseStream s (2 * e) 5 0) (2 * e + 1) 5 0
  let s := cleanScalar s e
  let s := s.modEng e (fun g => { g with migrating := some slot, icache := [] })
  forAll (engLaunches s e) (fun k s => pauseLaunch s k 5 0xFFFFFFFF) s

/-- Whether a shunter has come to rest for a migration: nothing in flight and no PAUSED record to come. -/
def streamRests (t : Stream) : Bool :=
  t.inFlight == 0 && t.slots.all (fun d => match d.phase with | .pausing _ => false | _ => true)

/-- A slot that failed a test is retired; a Spire with no spare slot left needs service (R368). -/
def retireSlot (s : State) (n : Nat) : State :=
  let slots := put 0 s.sig.slots n 4
  let sp := n / 36
  let gone := countIf (fun i => look 0 slots (36 * sp + i) == 4) (List.range 36)
  { s with sig := { s.sig with
    slots := slots
    failing := nDel n s.sig.failing
    serviceDies := if 4 ≤ gone then s.sig.serviceDies ||| 2 ^ siteSP sp else s.sig.serviceDies } }

/-- Step 6 of R62: the window, counters and endpoint switch, and everything held takes effect in order. -/
def migrateSwitch (s : State) (e : Nat) : State :=
  match (s.eng e).migrating with
  | none => s
  | some slot =>
    if !(streamRests (s.stream (2 * e)) && streamRests (s.stream (2 * e + 1))) || s.holding then s
    else
      let s := logbook s
      let old := physSlot s e
      let s := if nHas old s.sig.failing then retireSlot s old else s
      let s := s.modEng e (fun g =>
        { g with migrating := none, slot := if slot = spireOf e * 36 + e % 32 then none else some slot })
      let s := applyHeldTc s e
      let wake (st : Nat) (s : State) : State :=
        wakeStream (s.modStream st (fun t => { t with hold := t.hold &&& 2 })) st
      let s := wake (2 * e + 1) (wake (2 * e) s)
      let s := forAll (engLaunches s e) (fun k s => finishLaunch (continueLaunch s k) k false) s
      applyHeldCtrl s e

/-! ### The commands -/

/-- DISPATCH (R37, R39, R419). -/
def execDispatch (e : Fin 256) (ready refill : Bool) (s : State) : Out := .next (dispatchSlot s e ready refill)

/-- ENG_CTRL_START (R66). -/
def execEngCtrlStart (e : Fin 256) (s : State) : Out := .next (engWindowWrite s e 0 2)

/-- ENG_CTRL_PARK (R58, R66). -/
def execEngCtrlPark (e : Fin 256) (s : State) : Out := .next (engWindowWrite s e 0 8)

/-- ENG_CTRL_RESUME (R60, R66). -/
def execEngCtrlResume (e : Fin 256) (mode : BitVec 2) (s : State) : Out :=
  .next (engWindowWrite s e 0 (pack [(4, 2, mode.toNat), (2, 1, 1)]))

/-- ENG_CTRL_RESET (R61, R66). -/
def execEngCtrlReset (e : Fin 256) (s : State) : Out := .next (engWindowWrite s e 0 0x100)

/-- ENG_CTRL_ICINV (R52, R66). -/
def execEngCtrlIcinv (e : Fin 256) (s : State) : Out := .next (engWindowWrite s e 0 0x200)

/-- ENG_TC_WRITE (R50, R66). -/
def execEngTcWrite (e : Fin 256) (k : Fin 64) (v : BitVec 32) (s : State) : Out :=
  .next (engWindowWrite s e (0x0800 + 8 * k.val) (v.setWidth 64))

/-- ENGINE_PARKED (R58 steps 3–5). -/
def execEngineParked (e : Fin 256) (s : State) : Out :=
  .next (if (s.eng e).state == .parking then parkNow s e else s)

/-- ENGINE_MIGRATION (R62 steps 1–5). -/
def execEngineMigration (e : Fin 256) (slot : Fin 288) (s : State) : Out :=
  .next (if mayMigrate s e slot then migrateStart s e slot else s)

/-- ENGINE_MIGRATION_SWITCH (R62 step 6). -/
def execEngineMigrationSwitch (e : Fin 256) (s : State) : Out := .next (migrateSwitch s e)

/-- SCALAR_MISS_FILL (R53). -/
def execScalarMissFill (e : Fin 256) (s : State) : Out :=
  .next (s.modEng e (fun g => { g with scMiss := none, scHeld := false }))

/-- ENG_SC_CTRL_DISABLE (R307). -/
def execEngScCtrlDisable (e : Fin 256) (s : State) : Out := .next (engWindowWrite s e 0x78 1)

/-- ENG_SC_CTRL_ENABLE (R307). -/
def execEngScCtrlEnable (e : Fin 256) (s : State) : Out := .next (engWindowWrite s e 0x78 0)

/-- ENG_CUP_CANCEL (R192). -/
def execEngCupCancel (e : Fin 256) (seq : Word) (s : State) : Out := .next (engWindowWrite s e 0x70 seq)

end Sys2Proof.Machine
end

