-- ==== Sys2Proof/Machine/Rings.lean ====
section
/-! DEFINITION. Rings of bulk shunters and launches, doorbells, and the events of shunters and Booking units (R154–R161,
R171–R173, R201, R257, R264). -/

namespace Sys2Proof.Machine

/-! ### Rings (R171–R173) -/

/-- Entries made known by the last valid doorbell and not yet taken. -/
def Ring.left (r : Ring) : Nat := (r.producer + 2 ^ 32 - r.consumer) % 2 ^ 32

/-- A doorbell names a new producer index (R172). -/
def Ring.doorbell (r : Ring) (p : Nat) : Ring :=
  let n := (p + 2 ^ 32 - r.consumer) % 2 ^ 32
  if 2 ^ r.log2n < n ∨ n < r.left then { r with dbErr := true } else { r with producer := p }

/-- A write of a ring's base register; ignored while ENABLE is 1 (R173, R8). -/
def Ring.setBase (r : Ring) (lowN : Nat) (v : Word) : Ring :=
  if r.enable then r
  else { r with base := v.toNat / 4096 * 4096, log2n := if lowN ≤ fld v 3 0 then fld v 3 0 else r.log2n }

/-- A write of ENABLE and ASN of a ring's control register (R173). -/
def Ring.setCtrl (r : Ring) (v : Word) : Ring :=
  { r with asn := if r.enable then r.asn else fld v 19 0, enable := bit v 32 }

/-- An entry is taken or passed. -/
def Ring.advance (r : Ring) : Ring := { r with consumer := (r.consumer + 1) % 2 ^ 32 }

/-- An entry is refused. -/
def Ring.refuse (r : Ring) : Ring := { r.advance with refused := satN 0xFF (r.refused + 1) }

/-- Whether the ring has an entry that it may take. -/
def Ring.open? (r : Ring) : Bool := r.enable && !r.resetting && r.left != 0 && r.fault.isNone

/-- Reading the next entry of a ring. -/
inductive EntryRes where
  | ok (bytes : List Byte)
  | waits
  | poisoned
  | fault (va reason pte level : Nat)
deriving DecidableEq, Repr

/-- The virtual address of a ring's next entry. -/
def Ring.nextVa (r : Ring) (size : Nat) : Nat := (r.base + (r.consumer % 2 ^ r.log2n) * size) % 2 ^ 64

/-- Reads the next entry of a ring of entries of `size` bytes (R171). -/
def readEntry (s : State) (cc : Nat) (r : Ring) (size : Nat) : State × EntryRes :=
  let va := r.nextVa size
  match translate s cc [cc] r.asn va .r false with
  | (s, .wait) => (s, .waits)
  | (s, .fault rs p l) => (s, .fault va rs p l)
  | (s, .ok x) =>
    let pa := x.pa va
    if memWaits s pa size then (s, .waits)
    else if memPoisoned s pa size then (s, .poisoned)
    else (memTouch s pa size, .ok (memRead s pa size))

/-- The record of a refused entry: written where RECORD is aligned and translates (R173); none while it waits. -/
def refusedRecord (s : State) (cc asn va : Nat) (bs : List Byte) : Option State :=
  if va = 0 ∨ va % 32 ≠ 0 then some s
  else match tryRecord s cc asn va .other bs with
    | (_, .waits) => none
    | (s, _) => some s

/-- The ASN under which a refused entry's RECORD is translated (R173). -/
def refusedAsn (ringAsn entryAsn : Nat) : Nat := if ringAsn = 0 then entryAsn else ringAsn

/-- The Siding entry of a ring entry read (R262). -/
def ringFault (unit idx asn va reason pte level : Nat) : FaultEnt :=
  { id := 0, reason := reason, access := 1, va := va, asn := asn, kind := 3, unit := unit, reqSeq := idx, pte := pte, level := level }

/-! ### Bulk shunters (R171–R173) -/

/-- The stream of a bulk shunter. -/
def bulkStream (cc i : Nat) : Nat := 512 + 16 * cc + i

/-- Changes the ring of a stream. -/
def modRing (s : State) (st : Nat) (f : Ring → Ring) : State := s.modStream st (fun t => { t with ring := f t.ring })

/-- Whether a bulk submitter may name an engine's counter (R155). -/
def bulkCtOk (s : State) (eng asn : Nat) : Bool := asn == 0 || (s.eng eng).asn == asn

/-- A bulk shunter takes its next ring entry (R171, R173). -/
def bulkAccept (s : State) (cc i : Nat) : State :=
  let st := bulkStream cc i
  let t := s.stream st
  let r := t.ring
  if !r.open? || decide (16 ≤ t.slots.length) || t.hold != 0 || s.shut then s
  else match readEntry s cc r 128 with
    | (s, .waits) => s
    | (s, .poisoned) => modRing s st Ring.refuse
    | (s, .fault va rs p l) =>
      let q := recordFault s cc r.asn (ringFault i r.consumer r.asn va rs p l)
      modRing q.1 st (fun r => { r with fault := some q.2 })
    | (t, .ok bs) =>
      let ws := wordsOf bs 16
      let f := descF ws
      if backPressured t f.asn then s
      else match descCheck f t.pkg.feature r.asn false (bulkCtOk t f.ctEngine f.asn) with
        | 0 => modRing (acceptDesc t st ws) st Ring.advance
        | c =>
          match refusedRecord t cc (refusedAsn r.asn f.asn) f.record (recordBytes 0 4 c 0 0 [0, 0, 0, 0, 0]) with
          | some t => modRing t st Ring.refuse
          | none => s

/-- RESET of a bulk shunter (R173). -/
def bulkReset (s : State) (cc i : Nat) : State :=
  let st := bulkStream cc i
  let s := modRing s st (fun r => { r with resetting := true })
  (abortStream s st 9).modStream st Stream.resetDone

/-- A write of BS_CTRL (R173). -/
def bulkCtrl (s : State) (cc i : Nat) (v : Word) : State :=
  let s := modRing s (bulkStream cc i) (fun r => r.setCtrl v)
  if bit v 33 then bulkReset s cc i else s

/-! ### Launch rings (R201) -/

/-- A launch ring takes its next entry (R173, R180, R201). -/
def launchAccept (s : State) (cc i : Nat) : State :=
  let k := 4 * cc + i
  let r := s.clRing k
  if !r.open? || decide (16 ≤ (ringLaunches s k).length) || s.shut then s
  else match readEntry s cc r 128 with
    | (s, .waits) => s
    | (s, .poisoned) => s.modClRing k Ring.refuse
    | (s, .fault va rs p l) =>
      let q := recordFault s cc r.asn (ringFault (0x10 + i) r.consumer r.asn va rs p l)
      q.1.modClRing k (fun r => { r with fault := some q.2 })
    | (t, .ok bs) =>
      let ws := wordsOf bs 16
      let f := launchF ws
      if backPressured t f.asn then s
      else match launchCheck t f r.asn (bulkCtOk t f.ctEngine f.asn) with
        | 0 => acceptLaunch (t.modClRing k Ring.advance) cc none k ws
        | c =>
          let bs := leBytes 8 0 ++ [4, BitVec.ofNat 8 c, 0, 0] ++ leBytes 4 0 ++ leBytes 8 0 ++ leBytes 4 0 ++ leBytes 4 0xFFFFFFFF
          match refusedRecord t cc (refusedAsn r.asn f.asn) f.record bs with
          | some t => t.modClRing k Ring.refuse
          | none => s

/-- RESET of a launch ring (R201). -/
def clReset (s : State) (cc i : Nat) : State :=
  let k := 4 * cc + i
  let s := s.modClRing k (fun r => { r with resetting := true })
  clResetDone (forAll (ringLaunches s k) (fun l s => abortLaunch s l 9 0xFFFFFFFF) s) k

/-- A write of CL_CTRL (R201). -/
def clCtrl (s : State) (cc i : Nat) (v : Word) : State :=
  let s := s.modClRing (4 * cc + i) (fun r => r.setCtrl v)
  if bit v 33 then clReset s cc i else s

/-- A write of CL_CANCEL (R192, R201). -/
def clCancelWrite (s : State) (cc i : Nat) (v : Word) : State :=
  match s.launches.find? (fun p => p.2.engine.isNone && p.2.ring == 4 * cc + i && p.2.seq == v.toNat) with
  | some p => abortLaunch s p.1 0x0C 0xFFFFFFFF
  | none => s

/-! ### Doorbell Tickets (R172, R343) -/

/-- What a doorbell payload does at an endpoint: the rings of a Concourse, or of a Junction. -/
def ringDoorbell (s : State) (ep : Nat) (payload : List Byte) : State :=
  match doorbellOf payload with
  | none => s
  | some (r, p) =>
    let i := epIdx ep
    if epKind ep = 6 then
      if r < 0x10 then modRing s (bulkStream i r) (fun x => x.doorbell p)
      else s.modClRing (4 * i + (r - 0x10)) (fun x => x.doorbell p)
    else
      if r < 8 then s.modRoRing (8 * i + r) (fun x => x.doorbell p)
      else s.modCrRing (4 * i + (r - 0x10)) (fun x => x.doorbell p)

/-- What the arrival of a notice tells the unit that sent it. A TSEND's Ticket is no notice, whatever its payload. -/
def ticketArrived (s : State) (notice : Bool) (t : Ticket) : State :=
  if notice then batchNoticePlaced (noticeArrived s t) t else s

/-- Whether the oldest Ticket on its way to an endpoint may be a notice. -/
def noticeNext (s : State) (ep : Nat) : Bool := ((s.ep ep).inflight.head?.map (fun t => t.auto)).getD false

/-- The oldest Ticket at an endpoint that works on its Tickets itself: held in a slot, or on its way. -/
def takeTicket (s : State) (ep : Nat) : Option (Ticket × State) :=
  match (s.ep ep).slots with
  | t :: _ => some (t, freeSlot s ep)
  | [] => (arrive s ep).map (fun p => (p.1, grantCredits (ticketArrived p.2 (noticeNext s ep) p.1) ep))

/-- The doorbell endpoint's oldest Ticket takes effect. -/
def doorbellTicket (s : State) (ep : Nat) : State :=
  match takeTicket s ep with
  | some (t, s) => ringDoorbell s ep t.payload
  | none => s

/-! ### Page walks (R257) -/

/-- A page walk for the request that a Siding entry would name. A descriptor's walk translates its segment. -/
def pageWalk (s : State) (cc : Nat) (q : WalkReq) : State :=
  if q.kind = 1 then translateSegment s (2 * (q.engine % 256) + q.unit % 2)
  else if q.kind = 2 then translateSegment s (bulkStream cc (q.unit % 16))
  else
    let acc : Acc := if q.exec then .x else if q.write then .w else .r
    match translate s cc [cc] q.asn.toNat q.va.toNat acc (decide (q.kind = 9)) with
    | (s, .ok _) => s
    | (_, .wait) => s
    | (s, .fault r p l) =>
      (recordFault s cc q.asn.toNat
        { id := 0, reason := r, access := acc.code, noAnswer := decide (q.kind = 9 ∨ q.kind = 0xA), va := q.va.toNat,
          asn := q.asn.toNat, kind := q.kind, unit := q.unit, engine := q.engine, reqSeq := q.seq, pte := p, level := l }).1

/-! ### The commands -/

/-- SEGMENT_TRANSLATE (R158, R162). -/
def execSegmentTranslate (st : Fin 576) (s : State) : Out := .next (translateSegment s st)

/-- BOOKING_PAGE_WALK (R257). -/
def execBookingPageWalk (cc : Fin 4) (q : WalkReq) (s : State) : Out := .next (pageWalk s cc q)

/-- CAR_ISSUE (R153, R154, R158). -/
def execCarIssue (st : Fin 576) (s : State) : Out := .next (issueCar s st)

/-- CAR_COMPLETE (R154–R156). The last car in flight also ends an engine reset's wait (R61). -/
def execCarComplete (st : Fin 576) (car : CarName) (s : State) : Out :=
  let s := completeCar s st car.slot car.no
  .next (match streamEngine st with
    | some e => engResetDone s e
    | none => s)

/-- PAUSED_RECORD_WRITE (R161). -/
def execPausedRecordWrite (st : Fin 576) (s : State) : Out :=
  .next (match pausedDue (s.stream st) with
    | some i => pausedRecord s st i false
    | none => s)

/-- BS_DOORBELL (R172). -/
def execBsDoorbell (cc : Fin 4) (i : Fin 16) (p : BitVec 32) (s : State) : Out :=
  .next (modRing s (bulkStream cc i) (fun r => r.doorbell p.toNat))

/-- DOORBELL_TICKET (R172, R201). -/
def execDoorbellTicket (cc : Fin 4) (s : State) : Out := .next (doorbellTicket s (epDoorbell cc))

/-- BULK_RING_ENTRY_ACCEPT (R171, R173). -/
def execBulkRingEntryAccept (cc : Fin 4) (i : Fin 16) (s : State) : Out := .next (bulkAccept s cc i)

/-- BS_CTRL_RESET (R173). -/
def execBsCtrlReset (cc : Fin 4) (i : Fin 16) (s : State) : Out := .next (bulkReset s cc i)

/-- BS_CTRL_ENABLE (R173). -/
def execBsCtrlEnable (cc : Fin 4) (i : Fin 16) (v : Word) (s : State) : Out := .next (bulkCtrl s cc i v)

/-- CL_DOORBELL (R172, R201). -/
def execClDoorbell (cc : Fin 4) (r : Fin 4) (p : BitVec 32) (s : State) : Out :=
  .next (s.modClRing (4 * cc + r) (fun x => x.doorbell p.toNat))

/-- CL_CTRL_RESET (R201). -/
def execClCtrlReset (cc : Fin 4) (r : Fin 4) (s : State) : Out := .next (clReset s cc r)

/-- CL_CTRL_ENABLE (R201). -/
def execClCtrlEnable (cc : Fin 4) (r : Fin 4) (v : Word) (s : State) : Out := .next (clCtrl s cc r v)

/-- LAUNCH_RING_ENTRY_ACCEPT (R201). -/
def execLaunchRingEntryAccept (cc : Fin 4) (r : Fin 4) (s : State) : Out := .next (launchAccept s cc r)

/-- CL_CANCEL (R192, R201). -/
def execClCancel (cc : Fin 4) (r : Fin 4) (v : Word) (s : State) : Out := .next (clCancelWrite s cc r v)

/-- PAGE_DEAL (R182, R187, R189). -/
def execPageDeal (k : Nat) (s : State) : Out := .next (dealPage s k)

/-- INVOCATION_START (R183, R187). -/
def execInvocationStart (k off : Nat) (s : State) : Out := .next (startInvoc s k off)

end Sys2Proof.Machine
end

