-- ==== Sys2Proof/Machine/Tiers.lean ====
section
/-! DEFINITION. The Turntables' migrations and recovery of lines, the Sidings' registers and answers, and invalidation
(R241–R254, R263–R266). -/

namespace Sys2Proof.Machine

/-! ### Migration (R244, R245, R247, R249) -/

/-- Tiles of the unified range. -/
def State.nTiles (s : State) : Nat := s.uBytes / 65536

/-- Whether some tile lies in a frame, or is on its way there. -/
def frameTaken (s : State) (f : Frame) : Bool :=
  let home_ : Option Nat := match f with
    | .hbm n => placedTile s n
    | .slow n => some (s.hFrames + n)
  (match home_ with
   | some t => decide (t < s.nTiles) && (s.tile t).frame.isNone
   | none => true) ||
  s.tiles.any (fun p => p.2.frame == some f || p.2.dup == some f) ||
  s.migs.any (fun m => m.dest == f || (m.victim.map Prod.snd) == some f)

/-- Whether a frame exists: in HBM, or in the slow tier outside the duplicate pool on a device that answers. -/
def frameExists (s : State) (f : Frame) : Bool :=
  match f with
  | .hbm n => (placedTile s n).isSome
  | .slow n => decide (n < poolFirst s) && !slowLost s n

/-- Whether a launch holds a tile in HBM (R187). -/
def tileHeld (s : State) (t : Nat) : Bool := s.launches.any (fun p => nHas t p.2.held)

/-- Whether a tile is locked. -/
def tileLocked (s : State) (t : Nat) : Bool :=
  s.migs.any (fun m => m.tile == t || (m.victim.map Prod.fst) == some t) || s.recovering.any (fun l => l / 1024 == t)

/-- Whether a tile may be moved out of HBM (R244). -/
def movable (s : State) (t : Nat) : Bool :=
  (match frameOf s t with | .hbm _ => true | .slow _ => false) && (s.tile t).place != 1 && !tileHeld s t && !tileLocked s t

/-- The order in which classes are moved out (R244). -/
def outRank (place : Nat) : Nat :=
  match place with
  | 3 => 0
  | 0 => 1
  | _ => 2

/-- Whether tiles that no table entry lists lie in HBM and may be moved out: DEFAULT tiles that nothing has accessed. -/
def untouchedInHbm (s : State) : Bool :=
  decide (countIf (fun p : Nat × Tile => decide (p.1 < s.hFrames)) s.tiles +
    s.launches.foldl (fun n p => n + p.2.held.length) 0 + s.recovering.length + 2 * s.migs.length < s.hFrames)

/-- Whether a tile of an earlier class could be moved out instead (R244). Tiles that no table entry lists are DEFAULT. -/
def earlierClass (s : State) (rank : Nat) : Bool :=
  s.tiles.any (fun p => decide (outRank p.2.place < rank) && movable s p.1) ||
  (decide (1 < rank) && untouchedInHbm s)

/-- Whether another tile of the same class, less recently used, could be moved out instead (R244; log entry 145). -/
def usedEarlier (s : State) (t : Nat) : Bool :=
  let k := s.tile t
  s.tiles.any (fun p => p.1 != t && outRank p.2.place == outRank k.place && decide (p.2.used < k.used) && movable s p.1) ||
  (outRank k.place == 1 && decide (0 < k.used) && untouchedInHbm s)

/-- Whether a tile may be moved out to free its frame. -/
def mayLeaveHbm (s : State) (t : Nat) : Bool :=
  movable s t && !earlierClass s (outRank (s.tile t).place) && !usedEarlier s t

/-- The tiles that an EXPECT request still asks for: those which the pages of its uncounted chunks reach (R88). -/
def expectTiles (s : State) (x : Expect) : List Nat :=
  let lo := max x.base ((x.base / 65536 + x.counted) * 65536)
  (pagePieces lo (x.base + x.len - lo)).filterMap (fun p =>
    match (translate s (ccOfEngine x.engine) [ccOfEngine x.engine] x.asn p.1 .r false).2 with
    | .ok y => some (y.pa p.1 / 65536)
    | _ => none)

/-- The tile on which an accepted atomic works (R206). -/
def atomicTile (s : State) (x : Atomic) : Option Nat :=
  if x.src ≠ 0 then some (x.va / 65536)
  else match (translate s (ccOfEngine x.engine) [ccOfEngine x.engine] x.asn x.va .a false).2 with
    | .ok y => some (y.pa x.va / 65536)
    | _ => none

/-- The tiles for which launches wait: dealt ones that are late, and those that an invocation's access needs (R187). -/
def launchTiles (s : State) : List Nat :=
  s.launches.flatMap (fun p => p.2.late) ++ s.units.filterMap (fun p => p.2.inv.bind Invoc.wants)

/-- Whether a tile may be brought into HBM: by its policy, or for an EXPECT request, a launch or an atomic that needs it
(R187, R206, R244). -/
def wanted (s : State) (t : Nat) : Bool :=
  let k := s.tile t
  s.expects.any (fun p => (expectTiles s p.2).contains t) || (launchTiles s).contains t ||
  s.atomics.any (fun p => atomicTile s p.2 == some t) ||
  (match k.place with
   | 1 => true
   | 2 | 4 => decide (1 ≤ k.count)
   | 0 => s.pkg.promote != 0 && decide (s.pkg.promote ≤ k.count)
   | _ => false)

/-- The tiles in the express class: those for which launches wait, and those of express EXPECT requests that have not
settled (R250). -/
def expressTiles (s : State) : List Nat :=
  if s.feat 8 then launchTiles s ++ (s.expects.filter (fun p => p.2.express)).flatMap (fun p => expectTiles s p.2) else []

/-- Whether a tile is in the express class. -/
def isExpress (s : State) (t : Nat) : Bool := (expressTiles s).contains t

/-- Whether an express migration is pending at a Turntable: a tile of its that is neither resident nor on its way, while a
frame can be freed (R250). -/
def expressPending (s : State) (cc : Nat) : Bool :=
  decide (stuckFrames s < s.hFrames) &&
    (expressTiles s).any (fun t => home (t * 65536) == cc && !residentTile s t && !tileLocked s t)

/-- Whether a tile's primary may lie in a frame beside its duplicate: on another device where there are several (R252). -/
def dupApart (s : State) (t : Nat) (f : Frame) : Bool :=
  match f, (s.tile t).dup with
  | .slow n, some (.slow k) => decide (s.pkg.slowDevs.length < 2) || deviceOf s.pkg.slowDevs n != deviceOf s.pkg.slowDevs k
  | _, _ => true

/-- Steps 1 and 2 of R247. -/
def migrateTile (s : State) (t : Nat) (toHbm : Bool) (frame : Nat) (victim : Option Nat) (vframe : Nat) : State :=
  let dest : Frame := if toHbm then .hbm frame else .slow frame
  let free := match victim with
    | none => !frameTaken s dest
    | some v => toHbm && frameOf s v == .hbm frame && v != t && mayLeaveHbm s v && frameExists s (.slow vframe) &&
        !frameTaken s (.slow vframe) && dupApart s v (.slow vframe)
  let here := frameOf s t
  let right := if toHbm then (match here with | .slow _ => wanted s t | .hbm _ => false) else mayLeaveHbm s t
  if s.shut || !s.pkg.slowReady || decide (s.nTiles ≤ t) || tileLocked s t || !frameExists s dest || !free || !right ||
      !dupApart s t dest || (toHbm && !isExpress s t && expressPending s (home (t * 65536))) then s
  else
    { s with migs := s.migs ++ [{ tile := t, dest := dest, victim := victim.map (fun v => (v, .slow vframe)), express := toHbm && isExpress s t }] }

/-- Puts a tile into a frame, laid out as its LAYOUT says when it enters HBM (R246); LR reservations on its lines break
(R214, R249). -/
def placeTile (s : State) (t : Nat) (f : Frame) : State :=
  let dflt : Frame := if t < s.hFrames then .hbm (placedFrame s t) else .slow (t - s.hFrames)
  let s := s.modTile t (fun k => { k with
    frame := if f = dflt then none else some f, count := 0, saved := []
    laid := match f with | .hbm _ => k.layout | .slow _ => k.laid })
  { s with harts := tabMapD {} s.harts (fun _ g =>
      { g with lr := match g.lr with | some l => if l / 1024 = t then none else some l | none => none }) }

/-- Whether every line of a tile can be copied: none is being recovered, nor lost and not yet recovered (R247 step 3). -/
def copyReady (s : State) (t : Nat) : Bool :=
  !s.recovering.any (fun l => l / 1024 == t) &&
    (match frameOf s t with
     | .slow n => !slowLost s n || (List.range 1024).all (fun i => !lineLost s (1024 * t + i))
     | .hbm _ => true)

/-- The Turntable reads every line of a tile at its home and copies it (R293). -/
def copyTouch (s : State) (t : Nat) : State := forAll (List.range 1024) (fun i s => homeTouch s (1024 * t + i) false) s

/-- The lock on a tile ends: the accesses that waited for it are counted, of which the model does not hold the number (R426;
log entry 164). -/
def lockEnds (s : State) (t : Nat) : State := ccEvent (home (t * 65536)) 0x10 (Config.freeWord s.fresh.1 0).toNat s.fresh.2

/-- Steps 3–6 of R247. The copy ends once every line of it is good or poisoned. -/
def migrateDone (s : State) (t : Nat) : State :=
  match s.migs.find? (fun m => m.tile == t) with
  | none => s
  | some m =>
    if !copyReady s t || !((m.victim.map (fun v => copyReady s v.1)).getD true) then s
    else
    let s := copyTouch (match m.victim with | some v => copyTouch s v.1 | none => s) t
    let s := { s with migs := s.migs.filter (fun x => x.tile != t) }
    let cc := home (t * 65536)
    let out (v : Nat) (f : Frame) (s : State) : State := ccEvent (home (v * 65536)) 0x0E 1 (placeTile s v f)
    let s := match m.victim with
      | some (v, f) => out v f s
      | none => s
    let s := match m.dest with
      | .hbm _ => ccEvent cc 0x0D 1 (placeTile s t m.dest)
      | .slow _ => out t m.dest s
    let s := if m.express then ccEvent cc 0x0F 1 s else s
    let s := lockEnds (match m.victim with | some v => lockEnds s v.1 | none => s) t
    advanceExpects s

/-! ### Uncorrectable lines (R241, R252, R253) -/

/-- A device of the slow tier stops answering (R241). -/
def loseDevice (s : State) (i : Nat) : State :=
  { s with pkg := { s.pkg with slowDevs := s.pkg.slowDevs.zipIdx.map (fun p =>
      if p.2 = i then (p.1.1, p.1.2.1, p.1.2.2.1, 2) else p.1) } }

/-- Whether the partner's mirror copy of a line may be used: its tile has had no write since the last closed epoch (R252). -/
def mirrorUsable (s : State) (l : Nat) : Bool :=
  tdActive s && (tdOffset s (l * 64)).isSome &&
    !s.td.lastTag.any (fun p => p.1 / 1024 == l / 1024 && decide (s.td.closed + 1 < p.2))

/-- Whether a tile's duplicate lies on a device that answers. -/
def dupAnswers (s : State) (t : Nat) : Bool :=
  match (s.tile t).dup with
  | some (.slow n) => !slowLost s n
  | some (.hbm _) => true
  | none => false

/-- A free frame of a tile's own tier to which its copy may be moved. -/
def freeFrame (s : State) (t : Nat) : Option Frame :=
  let l : List Frame := match frameOf s t with
    | .hbm _ => (List.range rawFrames).map Frame.hbm
    | .slow _ => (List.range (poolFirst s)).map Frame.slow
  l.find? (fun f => frameExists s f && !frameTaken s f && dupApart s t f)

/-- The Turntable starts to migrate a bad copy to another frame, where one is free and the tile does not move already
(R253 step 3). -/
def moveCopy (s : State) (t : Nat) : State :=
  if s.migs.any (fun m => m.tile == t || (m.victim.map Prod.fst) == some t) then s
  else match freeFrame s t with
    | some f => { s with migs := s.migs ++ [{ tile := t, dest := f }] }
    | none => s

/-- Steps 2–4 of R253 for a line: a good copy serves the held accesses and rewrites the bad one, or the line is poisoned.
A copy whose rewritten line fails on read-back is migrated, and so is one on a lost device, which cannot be rewritten. -/
def recoverLine (s : State) (l : Nat) (dupGood mirrorGood rewritten : Bool) : State :=
  if !nHas l s.recovering && !lineLost s l then s
  else
    let t := l / 1024
    let good := (dupGood && dupAnswers s t) || (mirrorGood && mirrorUsable s l)
    let lost := lineLost s l
    let s := { s with recovering := nDel l s.recovering }
    if good then
      let s := if lost then s.modTile t (fun k => { k with saved := nIns l k.saved }) else s
      let s := s.modTt (home (l * 64)) (fun k => { k with recovered := satN 0xFFFF (k.recovered + 1) })
      if lost || !rewritten then moveCopy s t else s
    else poisonLine s l

/-! ### Sidings (R263–R265) -/

/-- A write of SD_BASE: BASE is ignored while ENABLE is 1 (R265). -/
def sdBaseWrite (s : State) (k : Nat) (v : Word) : State :=
  s.modSiding k (fun d => { d with
    base := if d.enable then d.base else v.toNat / 4096 * 4096
    log2n := if 7 ≤ fld v 3 0 then fld v 3 0 else d.log2n })

/-- A write of SD_CTRL (R265). -/
def sdCtrlWrite (s : State) (k : Nat) (v : Word) : State :=
  s.modSiding k (fun d =>
    let d := if bit v 33 && !d.enable then { d with producer := d.consumer, batchNo := 0 } else d
    sdClose { d with enable := bit v 33, notifyEn := bit v 32, endpoint := fld v 31 0 })

/-- A write of SD_CONS: a value outside CONSUMER … PRODUCER is ignored (R263, R265). -/
def sdConsWrite (s : State) (k v : Nat) : State :=
  s.modSiding k (fun d =>
    if (v + 2 ^ 32 - d.consumer) % 2 ^ 32 ≤ (d.producer + 2 ^ 32 - d.consumer) % 2 ^ 32 then sdClose { d with consumer := v } else d)

/-- SD_STATUS (R265). -/
def sdStatus (s : State) (cc d : Nat) : Word :=
  let k := s.siding (4 * cc + d)
  pack [(32, 32, k.producer), (20, 12, k.overflow), (19, 1, b2n (heldDom (s.book cc) d)), (18, 1, b2n k.ansErr),
    (17, 1, b2n (k.closed.isSome && !sdRoom k)), (7, 9, parkedOf (s.book cc) d), (0, 7, k.open_.length)]

/-- The effect of an answer on a shunter's descriptors and ring (R162, R163, R265). -/
def answerStream (s : State) (key : Nat) (retry : Bool) (st : Nat) : State :=
  let t := s.stream st
  match t.slots.findIdx? (fun d => d.fault == some key), t.slots.findIdx? (fun d => d.recFault == some key) with
  | some i, _ =>
    if !retry then settleStream (abortDesc s st i 0x0B) st
    else if t.hold ≠ 0 then
      modDesc s st i (fun d => { d with fault := none, phase := .paused (if t.hold.testBit 1 then 6 else 5) })
    else wakeStream (resumeDesc (modDesc s st i (fun d => { d with fault := none })) st i) st
  | none, some i =>
    let s := modDesc s st i (fun d => { d with recFault := none })
    (match (t.slots[i]?).map Desc.phase with
     | some (.pausing _) => pausedRecord s st i (!retry)
     | _ => settleStream (if retry then s else endHead s st true) st)
  | none, none =>
    if t.ring.fault = some key then
      modRing s st (fun r => if retry then { r with fault := none } else { r.refuse with fault := none })
    else s

/-- The effect of an answer on a launch (R188–R190, R265). -/
def answerLaunch (s : State) (key : Nat) (retry : Bool) (k : Nat) : State :=
  match findLaunch s k with
  | none => s
  | some l =>
    if l.rangeFault = some key then
      if retry then continueLaunch (modLaunch s k (fun l => { l with rangeFault := none })) k
      else abortLaunch s k 0x0B 0xFFFFFFFF
    else if l.recFault = some key then
      let s := modLaunch s k (fun l => { l with recFault := none })
      match l.paused with
      | some c => if l.past then finishLaunch s k (!retry) else if retry then (putLaunchRecord s k 2 c false).1 else s
      | none => finishLaunch s k (!retry)
    else s

/-- The effect of an answer on a unit's invocation (R188, R197). -/
def answerUnit (s : State) (key : Nat) (retry : Bool) (u : Nat) : State :=
  match (s.unit u).inv with
  | none => s
  | some i =>
    if i.fault ≠ some key then s
    else if retry then
      continueLaunch (s.modUnit u (fun c => { c with inv := some { i with fault := none } })) i.launch
    else kernelExc (s.modUnit u (fun c => { c with inv := some { i with fault := none } })) u (if i.faultW then 0x12 else 0x11)

/-- The effect of an answer on a CUPA (R92, R265). -/
def answerAtomic (s : State) (key : Nat) (retry : Bool) (k : Nat) (x : Atomic) : State :=
  if x.fault ≠ some key then s
  else if retry then modAtomic s k (fun x => { x with fault := none })
  else
    let s := dropAtomic s k
    if x.discard then s else tcAdd s x.engine x.tc 1

/-- The effect of an answer on an EXPECT request (R88, R265). -/
def answerExpect (s : State) (key : Nat) (retry : Bool) (k : Nat) (x : Expect) : State :=
  if x.fault ≠ some key then s
  else advanceExpect (modExpect s k (fun x =>
    { x with fault := none, errPages := if retry then x.errPages else nIns (x.faultVa / 4096) x.errPages })) k

/-- The effect of an answer on every requester of this package but the Junctions. -/
def answerLocal (s : State) (key : Nat) (retry : Bool) : State :=
  let s := forAll (s.streams.map Prod.fst) (fun st s => answerStream s key retry st) s
  let s := { s with clRings := tabMapD {} s.clRings (fun _ r =>
    if r.fault = some key then (if retry then { r with fault := none } else { r.refuse with fault := none }) else r) }
  let s := forAll (s.units.map Prod.fst) (fun u s => answerUnit s key retry u) s
  let s := forAll (s.launches.map Prod.fst) (fun k s => answerLaunch s key retry k) s
  let s := forAll s.atomics (fun p s => answerAtomic s key retry p.1 p.2) s
  forAll s.expects (fun p s => answerExpect s key retry p.1 p.2) s

/-- An answer to a fault: one that names no unanswered fault sets ANS_ERR (R265). `effect` acts on the requester. -/
def sdAnswer (s : State) (k id : Nat) (effect : State → Nat → State) : State :=
  if !nHas id (s.siding k).unanswered then s.modSiding k (fun d => { d with ansErr := true })
  else effect (s.modSiding k (fun d => { d with unanswered := nDel id d.unanswered })) (faultKey k id)

/-! ### Invalidation (R164, R189, R266) -/

/-- Whether a command matches a translation (R266). -/
def invMatches (c : InvCmd) (x : Xlat) : Bool :=
  let page := decide (x.vbase ≤ c.va) && decide (c.va < x.vbase + x.size)
  match c.scope with
  | 0 => true
  | 1 => !x.global_ && x.asn == c.asn
  | 2 => !x.global_ && x.asn == c.asn && page
  | _ => page

/-- Drops what a command matches from every translation cache and from the cached table entries (R266). -/
def dropMatches (s : State) (c : InvCmd) : State :=
  { s with
    tlb := tabMapD [] s.tlb (fun _ l => l.filter (fun x => !invMatches c x))
    astCache := match c.scope with
      | 0 => []
      | 1 => s.astCache.filter (fun p => p.1 % 2 ^ 20 != c.asn)
      | _ => s.astCache }

/-- A command starts: caches drop what matches, descriptors pause and launches hold their pages (R160, R189, R266). -/
def startInv (s : State) (cc : Nat) (c : InvCmd) : State :=
  let s := s.modBook cc (fun b => { b with cur := some c, acks := [] })
  let s := { dropMatches s c with
    launches := s.launches.map (fun p => (p.1, { p.2 with
      pages := p.2.pages.map (fun g => if invMatches c g.x then { g with invalidated := true } else g) })) }
  forAll (s.streams.map Prod.fst) (fun st s =>
    iter (s.stream st).slots.length (fun i s => invalidateDesc s st i (invMatches c)) s) s

/-- A write of BK_INV_CMD: it starts, or waits while BUSY is 1 (R266). -/
def invWrite (s : State) (cc scope asn : Nat) : State :=
  let b := s.book cc
  let c : InvCmd := { scope := scope, asn := asn, va := b.invVa }
  if b.cur.isSome then s.modBook cc (fun b => { b with held := b.held ++ [c] }) else startInv s cc c

/-- Whether a descriptor has a car in flight that uses a matching translation (R164). -/
def descUses (d : Desc) (c : InvCmd) : Bool :=
  let f := descF d.words
  !f.remote && d.xlats.any (invMatches c) && d.inflight.any (fun j =>
    (f.needs (look 0 d.maps (j / 16) - 1) j).any (fun n =>
      (pagePieces n.va n.len).any (fun q => d.xlats.any (fun x => invMatches c x && x.covers f.asn q.1))))

/-- Whether an invocation of a launch runs on a page that an invalidation matches (R189). -/
def launchUses (l : Launch) (c : InvCmd) : Bool :=
  let base := (launchF l.words).base
  l.pages.any (fun g => g.invalidated && invMatches c g.x &&
    l.running.any (fun o => decide (g.x.vbase ≤ base + o) && decide (base + o < g.x.vbase + g.x.size)))

/-- Whether Booking unit `cc` can acknowledge a command (R164, R189). -/
def ackReady (s : State) (cc : Nat) (c : InvCmd) : Bool :=
  s.streams.all (fun p => streamCc p.1 != cc || p.2.slots.all (fun d => !descUses d c)) &&
    s.launches.all (fun p => p.2.cc != cc || !launchUses p.2 c)

/-- Booking unit `cc` acknowledges every command in progress that it can (R164). -/
def ackInv (s : State) (cc : Nat) : State :=
  { s with books := tabMapD {} s.books (fun _ b =>
      match b.cur with
      | some c => if ackReady s cc c then { b with acks := nIns cc b.acks } else b
      | none => b) }

/-- BUSY clears once every Booking unit has acknowledged and no cache holds a matching translation, one loaded again
meanwhile included; the next held command starts (R266). -/
def invDone (s : State) (cc : Nat) : State :=
  let b := s.book cc
  let gone (b : Booking) : State := match b.cur with | some c => dropMatches s c | none => s
  if b.cur.isNone || b.acks != [0, 1, 2, 3] then s
  else match b.held with
    | [] => (gone b).modBook cc (fun b => { b with cur := none, acks := [] })
    | c :: rest => startInv ((gone b).modBook cc (fun b => { b with cur := none, acks := [], held := rest })) cc c

/-! ### The commands -/

/-- TILE_MIGRATION_START (R244, R247). -/
def execTileMigrationStart (tile : Nat) (toHbm : Bool) (frame : Nat) (victim : Option Nat) (vframe : Nat) (s : State) : Out :=
  .next (migrateTile s tile toHbm frame victim vframe)

/-- TILE_MIGRATION_COMPLETE (R247). -/
def execTileMigrationComplete (tile : Nat) (s : State) : Out := .next (migrateDone s tile)

/-- SLOW_DEVICE_LOST (R241). -/
def execSlowDeviceLost (i : Nat) (s : State) : Out := .next (loseDevice s i)

/-- LINE_RECOVERY_COMPLETE (R253). -/
def execLineRecoveryComplete (line : Nat) (good : GoodCopies) (rewritten : Bool) (s : State) : Out :=
  .next (recoverLine s line good.dup good.mirror rewritten)

/-- BATCH_PUBLISH (R263, R264). -/
def execBatchPublish (cc d : Fin 4) (s : State) : Out := .next (publishBatch s cc d)

/-- HELD_FAULT_ADMIT (R264). -/
def execHeldFaultAdmit (cc : Fin 4) (s : State) : Out := .next (settleParked (admitHeld s cc) cc)

/-- SD_CONS_WRITE (R263, R265). -/
def execSdConsWrite (cc d : Fin 4) (v : BitVec 32) (s : State) : Out := .next (sdConsWrite s (4 * cc + d) v.toNat)

/-- SD_CTRL_ENABLE (R265). -/
def execSdCtrlEnable (cc d : Fin 4) (v : Word) (s : State) : Out := .next (sdCtrlWrite s (4 * cc + d) v)

/-- BK_INV_EVERY_ASN (R266). -/
def execBkInvEveryAsn (cc : Fin 4) (s : State) : Out := .next (invWrite s cc 0 0)

/-- BK_INV_ONE_ASN (R266). -/
def execBkInvOneAsn (cc : Fin 4) (asn : Asn) (s : State) : Out := .next (invWrite s cc 1 asn.toNat)

/-- BK_INV_ONE_PAGE (R266). -/
def execBkInvOnePage (cc : Fin 4) (asn : Asn) (s : State) : Out := .next (invWrite s cc 2 asn.toNat)

/-- BK_INV_PAGE_EVERY_ASN (R266). -/
def execBkInvPageEveryAsn (cc : Fin 4) (s : State) : Out := .next (invWrite s cc 3 0)

/-- INVALIDATION_ACK (R164, R266). -/
def execInvalidationAck (cc : Fin 4) (s : State) : Out := .next (ackInv s cc)

/-- BK_INV_DONE (R266). -/
def execBkInvDone (cc : Fin 4) (s : State) : Out := .next (invDone s cc)

end Sys2Proof.Machine
end

