-- ==== Sys2Proof/Machine/Host.lean ====
section
/-! DEFINITION. Tickets of harts and to the Signal Box, host links, and the core complex of a Campanile die (R313–R324,
R327–R332, R378). -/

namespace Sys2Proof.Machine

/-! ### Signal Box commands as they arrive (R378) -/

/-- A command that the Signal Box refuses: an OP it does not have, or a die that does not exist. -/
def SbCmd.bad (c : SbCmd) : Bool := !(c.op == 1 || (c.op == 2 && decide (c.arg ≤ 1)) || c.op == 3 || c.op == 4)

/-- The summary that answers a command other than CONSIST: STATUS, and every other byte zero. -/
def sbReply (s : State) (c : SbCmd) (status : Nat) : State :=
  sendNotice s epSb 0 c.reply (leBytes 1 0 ++ leBytes 1 status ++ leBytes 62 0)

/-- A command has been performed or refused: its Ticket's slot is free, and CMD_RESULT tells (R378). -/
def sbEnd (s : State) (c : SbCmd) (result : Nat) : State :=
  let s := { s with sig := { s.sig with cmdResult := result } }
  if c.byTicket then freeSlot s epSb else s

/-- Refuses a command. -/
def sbRefuse (s : State) (c : SbCmd) : State := sbEnd (sbReply s c 3) c 1

/-- Refuses the commands at the front that have no effect, while a Signal Box works. -/
def sbFlush : List SbCmd → State → State
  | [], s => { s with sig := { s.sig with cmds := [] } }
  | c :: t, s =>
    if c.bad && !s.holding then sbFlush t (sbRefuse s c) else { s with sig := { s.sig with cmds := c :: t } }

/-- A command arrives. While a SWITCH is in progress, that is, has come to the front, it is refused. -/
def sbArrive (s : State) (c : SbCmd) : State :=
  if (s.sig.cmds.head?.map SbCmd.op) == some 4 && !s.holding then sbRefuse s c else sbFlush (s.sig.cmds ++ [c]) s

/-- The command that a Ticket holds. One with other bytes set is no command of the table. -/
def sbParse (t : Ticket) : SbCmd :=
  let zeros := (List.range 64).all (fun i => decide (i < 2) || (decide (8 ≤ i) && decide (i < 16)) || t.payload.getD i 0 == 0)
  { op := if zeros then (t.payload.getD 0 0).toNat else 0
    arg := (t.payload.getD 1 0).toNat
    addr := leNat ((t.payload.drop 8).take 8)
    reply := t.sender
    byTicket := true }

/-- The command at the front, where it has this OP and a Signal Box may perform it. -/
def sbFront (s : State) (op : Nat) : Option (SbCmd × State) :=
  match s.sig.cmds with
  | c :: t => if c.op = op ∧ sbWorks s ∧ (op = 1 ∨ !s.stopping) then some (c, { s with sig := { s.sig with cmds := t } }) else none
  | [] => none

/-! ### Tickets (R328–R332) -/

/-- The die of a hart's endpoint. -/
def epDie (ep : Nat) : Option Nat := if epKind ep = 2 then some (epIdx ep / 64) else none

/-- Whether the way from one endpoint to another is cut: it crosses the links of a die that carry nothing (R322, R323). -/
def ticketCut (s : State) (from_ to_ : Nat) : Bool :=
  epDie from_ != epDie to_ && [epDie from_, epDie to_].any (fun d => (d.map (hostCut s)).getD false)

/-- Whether a Ticket cannot be placed yet: its engine is being migrated, is unplaced, or lies in drowse (R62, R362,
R394), or its way is held (R322). -/
def ticketHeld (s : State) (ep : Nat) : Bool :=
  (epKind ep == 1 &&
    (let e := epIdx ep
     (s.eng e).migrating.isSome || (s.eng e).unplaced || asleep s e)) ||
    (s.ep ep).inflight.head?.any (fun t => ticketCut s t.sender ep)

/-- The oldest Ticket on its way to an endpoint is placed in a slot (R328). -/
def placeNext (s : State) (ep : Nat) : State :=
  if ticketHeld s ep then s
  else match arrive s ep with
    | none => s
    | some (t, t0) =>
      let s := ticketArrived (placeTicket t0 ep t) (noticeNext s ep) t
      if epKind ep ≠ 4 then s
      else if ep = epSb then sbArrive s (sbParse t)
      else freeSlot s ep

/-- A write of TK_TX_DATA (R331). -/
def txData (s : State) (h i : Nat) (v : Word) : State :=
  s.modHart h (fun g => if g.txState = 1 then { g with overrun := true } else { g with txData := put 0 g.txData i v })

/-- A write of TK_TX_SEND (R329, R331). -/
def txSend (s : State) (h dest : Nat) : State :=
  let g := s.hart h
  let payload := (List.range 8).flatMap (fun i => leBytes 8 (look 0 g.txData i).toNat)
  let p := s.ep dest
  if g.txState = 1 then s.modHart h (fun g => { g with overrun := true })
  else if !epAccepts s dest g.sendAsn payload then s.modHart h (fun g => { g with txState := 4 })
  else if g.nack && !(epFree p && p.waiting.isEmpty) then s.modHart h (fun g => { g with txState := 3 })
  else queueTicket (s.modHart h (fun g => { g with txState := 1 })) (epHart h) g.sendAsn dest payload

/-- A write of TK_RX_POP (R332). -/
def rxPop (s : State) (h : Nat) : State := if (s.ep (epHart h)).slots.isEmpty then s else freeSlot s (epHart h)

/-- A write of TK_MSI: an undefined FILE leaves the field (R8); MSI_EN rising while Tickets are held sends one MSI
(R332). -/
def msiWrite (s : State) (h : Nat) (v : Word) : State :=
  let g := s.hart h
  let file := if fld v 11 8 ≤ 8 then fld v 11 8 else g.msiFile
  let s := s.modHart h (fun g => { g with msiEn := bit v 12, msiFile := file, msiId := fld v 7 0 })
  if bit v 12 && !g.msiEn && !(s.ep (epHart h)).slots.isEmpty then sendMsi s h file (fld v 7 0) else s

/-- A write of TK_CFG (R332). -/
def tkCfgWrite (s : State) (h : Nat) (v : Word) : State :=
  s.modHart h (fun g => { g with nack := bit v 52, sendAsn := fld v 51 32, acceptAsn := fld v 19 0 })

/-- A read of a Ticket page (R330–R332). -/
def tkRead (s : State) (h off : Nat) : Word :=
  let g := s.hart h
  let p := s.ep (epHart h)
  let oldest := p.slots.head?
  if off < 0x040 then look 0 g.txData (off / 8)
  else if off = 0x048 then pack [(32, 32, g.txSeq), (8, 1, b2n g.overrun), (0, 4, g.txState)]
  else if 0x200 ≤ off ∧ off < 0x240 then
    match oldest with
    | some t => w64At t.payload (off - 0x200)
    | none => 0
  else if off = 0x240 then
    match oldest with
    | some t => pack [(32, 32, t.seq), (0, 32, t.sender)]
    | none => 0
  else if off = 0x248 then BitVec.ofNat 64 p.slots.length
  else if off = 0x400 then pack [(52, 1, b2n g.nack), (32, 20, g.sendAsn), (0, 20, g.acceptAsn)]
  else if off = 0x408 then pack [(12, 1, b2n g.msiEn), (8, 4, g.msiFile), (0, 8, g.msiId)]
  else 0

/-- A write to a Ticket page (R330–R332). -/
def tkWrite (s : State) (h off : Nat) (v : Word) : State :=
  if off < 0x040 then txData s h (off / 8) v
  else if off = 0x040 then txSend s h (fld v 31 0)
  else if off = 0x048 then (if bit v 8 then s.modHart h (fun g => { g with overrun := false }) else s)
  else if off = 0x250 then (if bit v 0 then rxPop s h else s)
  else if off = 0x400 then tkCfgWrite s h v
  else if off = 0x408 then msiWrite s h v
  else s

/-! ### The core complex (R316–R320) -/

/-- The harts of a die. -/
def dieHarts (d : Nat) : List Nat := (List.range 64).map (fun i => 64 * d + i)

/-- A hart after the reset of its core complex: its Ticket page, which lies in the port domain, keeps all but TK_MSI (R316,
R317). -/
def Hart.coreReset (g : Hart) : Hart :=
  { txData := g.txData, txSeq := g.txSeq, txState := g.txState, overrun := g.overrun, nack := g.nack, sendAsn := g.sendAsn
    acceptAsn := g.acceptAsn }

/-- A hart's retired stores and dirty lines reach their homes, and its caches leave the directories. -/
def hartFlush (s : State) (h : Nat) : State :=
  let s := drainHart s h
  let dirty := ((s.hart h).cache.filter (fun p => decide (p.2 = 2))).map Prod.fst
  let s := s.modHart h (fun g => { g with cache := [], l1d := [], icache := [] })
  forAll dirty (fun l s => homeTouch s l true) s

/-- One core is restarted alone, in M-mode (R377). -/
def coreRestart (s : State) (h : Nat) : State := (hartFlush s h).modHart h Hart.coreReset

/-- Steps 1–3 of R317 and the reset of step 4: every retired store and dirty line of the die reaches its home, its
caches leave the directories, and its core complex resets. -/
def hostSweep (s : State) (d : Nat) : State :=
  let s := forAll (dieHarts d) (fun h s => hartFlush s h) s
  let s := forAll (dieHarts d) (fun h s => s.modHart h Hart.coreReset) s
  s.modHost d (fun c => { c with running := false, relief := none, aplic := [] })

/-- A die has failed: each line that it held dirty, and each that its lost stores would have written, is poisoned; its
caches leave the directories, and its slow-tier devices no longer answer (R320, R323). -/
def dieFailed (s : State) (d : Nat) : State :=
  let s := forAll (dieHarts d) (fun h s =>
    let g := s.hart h
    let dirty := (g.cache.filter (fun p => decide (p.2 = 2))).map Prod.fst
    let lost := g.stores.flatMap (fun st => linesOf st.pa st.bytes.length)
    let s := s.modHart h (fun g => { g with cache := [], l1d := [], icache := [], stores := [], lr := none })
    forAll (dirty ++ lost) (fun l s => poisonLine s l) s) s
  let s := s.modHost d (fun c => { c with running := false, resetting := false, failed := true, relief := none })
  let s := s.modIdent (siteCP d) (fun i => { i with state := 3 })
  let s := { s with sig := { s.sig with
    failedDies := s.sig.failedDies ||| 2 ^ siteCP d, serviceDies := s.sig.serviceDies ||| 2 ^ siteCP d } }
  iter s.pkg.slowDevs.length (fun i s =>
    match s.pkg.slowDevs[i]? with
    | some dev => if dev.1 = d then loseDevice s i else s
    | none => s) s

/-- The physical cores of a die's 64 logical harts: those given, where they are 64 different cores that have not failed
Inspection, else the lowest ones (R313). -/
def mapCores (c : HostDie) (cores : List Nat) : List Nat :=
  let good (k : Nat) : Bool := decide (k < 72) && !nHas k c.badCores
  if cores.length = 64 && cores.eraseDups.length = 64 && cores.all good then cores
  else ((List.range 72).filter good).take 64

/-! ### Host links (R321–R324) -/

/-- The die of a Concourse's host link (R16). -/
def linkDie (cc : Nat) : Nat := cc / 2

/-- UCIe retry (R322 step 1). -/
def linkRetry (s : State) (cc n : Nat) : State :=
  if (s.hlink cc).state = 2 ∨ (s.hlink cc).state = 4 then
    s.modHlink cc (fun l => { l with retries := satN 0xFFFF (l.retries + n) })
  else s

/-- A link goes down and retrains with its traffic held (R322 step 2). -/
def linkDown (s : State) (cc : Nat) : State :=
  s.modHlink cc (fun l => if l.state = 2 ∨ l.state = 4 then { l with state := 3, trainFails := 0, sbHeld := false } else l)

/-- A link is declared lost (R322 step 3). -/
def linkLost (s : State) (cc : Nat) : State :=
  s.modHlink cc (fun l =>
    if l.state = 3 then { l with state := 5, lost := satN 0xF (l.lost + 1), trainFails := 0, sbHeld := false } else l)

/-- A retrain of a host link ends: both ends know the modules that work, and the episode of failed exchanges is over. The third
failure in a row loses the link; a lost link that was tried again and fails stays lost. The Signal Box's retrain does not end
while both Signal Boxes are lost (R29, R324). -/
def linkTrained (s : State) (cc : Nat) (ok : Bool) (modules half : Nat) : State :=
  let l := s.hlink cc
  if (l.state ≠ 1 ∧ l.state ≠ 3) ∨ (l.sbHeld ∧ !sbWorks s) then s
  else if ok then s.modHlink cc (fun l =>
    { l with
      state := 2, modules := modules, half := half &&& modules, trainFails := 0, planPending := false, xchgFails := 0
      record := modules + 256 * (half &&& modules), far := modules + 256 * (half &&& modules), disagree := false, sbHeld := false })
  else if l.state = 1 then s.modHlink cc (fun l => { l with state := 5 })
  else if 2 ≤ l.trainFails then linkLost s cc
  else s.modHlink cc (fun l => { l with trainFails := l.trainFails + 1 })

/-- Step 4 of R322: the lost links of a die are tried again. -/
def retryLinks (s : State) (d : Nat) : State :=
  forAll [2 * d, 2 * d + 1] (fun cc s => s.modHlink cc (fun l => if l.state = 5 then { l with state := 1 } else l)) s

/-- Step 5 of R317: with a verified boot image the die's harts are mapped to cores and released. -/
def hostReleased (s : State) (d : Nat) (bootOk : Bool) (cores : List Nat) : State :=
  let c := s.host d
  if !c.resetting || !sbWorks s then s
  else
    let s := retryLinks s d
    s.modHost d (fun c => { c with
      resetting := false
      running := bootOk
      coreMap := if bootOk then mapCores c cores else c.coreMap })

/-! ### The rows -/

/-- TICKET_PLACE. -/
def execTicketPlace (ep : BitVec 32) (s : State) : Out := .next (placeNext s ep.toNat)

/-- TK_TX_DATA_WRITE. -/
def execTkTxDataWrite (h : Fin 128) (i : Fin 8) (v : Word) (s : State) : Out := .next (txData s h i v)

/-- TK_TX_SEND. -/
def execTkTxSend (h : Fin 128) (dest : BitVec 32) (s : State) : Out := .next (txSend s h dest.toNat)

/-- TK_RX_POP. -/
def execTkRxPop (h : Fin 128) (s : State) : Out := .next (rxPop s h)

/-- TK_MSI_WRITE. -/
def execTkMsiWrite (h : Fin 128) (v : Word) (s : State) : Out := .next (msiWrite s h v)

/-- HOST_RESET_COMPLETE. -/
def execHostResetComplete (d : Fin 2) (bootOk : Bool) (cores : List Nat) (s : State) : Out :=
  .next (hostReleased s d bootOk cores)

/-- CAMPANILE_DIE_FAILED. -/
def execCampanileDieFailed (d : Fin 2) (s : State) : Out :=
  .next (if !sbWorks s || (s.host d).failed then s else logbook (dieFailed s d))

/-- HOST_LINK_DOWN. -/
def execHostLinkDown (cc : Fin 4) (s : State) : Out := .next (linkDown s cc)

/-- HOST_LINK_LOST. -/
def execHostLinkLost (cc : Fin 4) (s : State) : Out := .next (linkLost s cc)

/-- HOST_LINK_RETRAIN_COMPLETE. -/
def execHostLinkRetrainComplete (cc : Fin 4) (ok : Bool) (modules half : BitVec 8) (s : State) : Out :=
  .next (linkTrained s cc ok modules.toNat half.toNat)

/-- UCIE_RETRY. -/
def execUcieRetry (cc : Fin 4) (n : Nat) (s : State) : Out := .next (linkRetry s cc n)

end Sys2Proof.Machine
end

