-- ==== Sys2Proof/Machine/Links.lean ====
section
/-! DEFINITION. Viaduct bundles and the retraining of links: flits and replay, spare lanes, widths, parameter exchange
and safe mode (R19–R29, R324). -/

namespace Sys2Proof.Machine

/-! ### Ends (R22) -/

/-- The key of a Concourse's end of a bundle. -/
def bundleKey (cc b : Nat) : Nat := 64 * cc + b

/-- The key of the other end: the ring neighbour's bundle, or the Terminus end. -/
def peerKey (cc b : Nat) : Nat :=
  if b < 20 then bundleKey ((cc + 1) % 4) (b + 20)
  else if b < 40 then bundleKey ((cc + 3) % 4) (b - 20)
  else 256 + bundleKey cc b

/-- The key of an end, and of the end it talks to. A Terminus end exists on bundles 40–45 only. -/
def endKeys (l : FlitEnd) : Option (Nat × Nat) :=
  if l.terminus then (if l.b.val < 40 then none else some (peerKey l.cc l.b, bundleKey l.cc l.b))
  else some (bundleKey l.cc l.b, peerKey l.cc l.b)

/-- Whether a Concourse owns a bundle: it does at a Terminus connection, and on a ring edge where its site index is the
lower one (R22). -/
def ownsBundle (cc b : Nat) : Bool :=
  if b < 20 then decide (cc < (cc + 1) % 4) else if b < 40 then decide (cc < (cc + 3) % 4) else true

/-- Changes both ends of a bundle. -/
def modBundle (s : State) (cc b : Nat) (f : LinkEnd → LinkEnd) : State :=
  (s.modLink (bundleKey cc b) f).modLink (peerKey cc b) f

/-- Whether a bundle carries traffic. -/
def LinkEnd.carries (l : LinkEnd) : Bool := l.state == .active || l.state == .safeMode

/-! ### The package network (R19, R20) -/

/-- The node that a Concourse's end or a Terminus end of a bundle stands for. -/
def endNode (k : Nat) : Nat := if k < 256 then k / 64 else 4 + (k - 256) / 64

/-- The edge that a bundle of a node belongs to: 0 RING_CW, 1 RING_CCW, 2 TERMINUS. -/
def edgeOf (b : Nat) : Nat := if b < 20 then 0 else if b < 40 then 1 else 2

/-- The node at the other end of an edge. -/
def acrossEdge (node edge : Nat) : Nat :=
  if 4 ≤ node then node - 4 else if edge = 0 then (node + 1) % 4 else if edge = 1 then (node + 3) % 4 else node + 4

/-- The bundles of a ring edge. -/
def ringBundles (edge : Nat) : List Nat := (List.range 20).map (fun i => i + 20 * edge)

/-- Egress credits of a ring edge in use: flits sent and not yet accepted at its other end (log entry 126). -/
def creditsUsed (s : State) (cc edge : Nat) : Nat :=
  (ringBundles edge).foldl (fun n b => n + ((s.link (bundleKey cc b)).txSeq - (s.link (peerKey cc b)).rxNext)) 0

/-- Whether every bundle of a ring edge is held, in safe mode or retired; one that is down or training carries nothing
either (R20). -/
def edgeOut (s : State) (cc edge : Nat) : Bool := (ringBundles edge).all (fun b => (s.link (bundleKey cc b)).state != .active)

/-- The direction that a Concourse takes to the opposite one for a transaction ID, as an edge (R19, R20). -/
def ringDirection (s : State) (cc dst id : Nat) : Nat :=
  match s.flits.find? (fun t => t.src == cc && t.dst == dst && t.id == id) with
  | some t => if t.node = cc then t.edge else if t.node = (cc + 1) % 4 then 0 else 1
  | none =>
    let pref :=
      match look 0 s.pkg.ringPref cc with
      | 1 => 0
      | 2 => 1
      | _ => if creditsUsed s cc 0 ≤ creditsUsed s cc 1 then 0 else 1
    if edgeOut s cc pref && !edgeOut s cc (1 - pref) then 1 - pref else pref

/-- Whether a node may send a transaction by an edge: neighbours use their shared edge, and a Terminus end its
connection. -/
def edgeFor (s : State) (node edge dst id : Nat) : Bool :=
  if edge = 2 ∨ 4 ≤ node then true
  else if dst = acrossEdge node edge then true
  else if dst = (node + 2) % 4 then ringDirection s node dst id == edge
  else false

/-- A node sends its next flit of a transaction ID by an edge: one that waits there to be forwarded or sent again, else
a new one. The key of the flit; none where the node sends no such flit on that edge. -/
def flitLeaves (s : State) (node edge : Nat) (f : Flit) : Option (Nat × State) :=
  let mine (t : FlitTxn) : Bool := t.node == node && t.src == f.src.val && t.dst == f.dst.val && t.id == f.id && !t.sent
  match s.flits.find? mine with
  | some t =>
    if t.edge = edge then
      some (t.key, { s with flits := s.flits.map (fun x => if x.key = t.key then { x with sent := true } else x) })
    else none
  | none =>
    if (node < 4 && f.src.val != node) || !edgeFor s node edge f.dst f.id then none
    else
      let t : FlitTxn := { key := s.flitKey, src := f.src, dst := f.dst, id := f.id, bits := f.bits, node := node, edge := edge }
      some (s.flitKey, { s with flits := s.flits ++ [t], flitKey := s.flitKey + 1 })

/-- Flits of one transaction ID that crossed an edge go on in their order: those that have arrived, up to the first that
has not. At their destination they leave the network; an intermediate Concourse forwards them in the same direction,
without consulting its own RING_PREF (R19, R23). -/
def goOn (mine : FlitTxn → Bool) : Bool → List FlitTxn → List FlitTxn
  | _, [] => []
  | late, t :: r =>
    if !mine t then t :: goOn mine late r
    else if late || !t.arrived then t :: goOn mine true r
    else
      let to_ := acrossEdge t.node t.edge
      if t.edge = 2 ∨ to_ = t.dst then goOn mine late r
      else { t with node := to_, sent := false, arrived := false } :: goOn mine late r

/-- A flit has been accepted at the other end of its edge. -/
def flitArrives (s : State) (key : Nat) : State :=
  match s.flits.find? (fun t => t.key == key) with
  | none => s
  | some t =>
    let mine (x : FlitTxn) : Bool := x.node == t.node && x.edge == t.edge && x.src == t.src && x.dst == t.dst && x.id == t.id
    { s with flits := goOn mine false (s.flits.map (fun x => if x.key = key then { x with arrived := true } else x)) }

/-! ### Flits and replay (R23, R24) -/

/-- Whether a flit's last four bytes are the CRC of the other 124 (R23). -/
def flitOk (f : BitVec 1024) : Bool :=
  (crc32c ((List.range 124).map (fun i => (f >>> (8 * i)).truncate 8))).toNat == (f >>> 992).toNat

/-- The last 96 of a list of sent flits. -/
def last96 (l : List FlitSent) : List FlitSent := l.drop (l.length - 96)

/-- The bits of a flit of the network. -/
def flitBits (s : State) (key : Nat) : BitVec 1024 := ((s.flits.find? (fun t => t.key == key)).map (fun t => t.bits)).getD 0

/-- The sending end sends flit `seq`: the next of its sequence, which it keeps in its replay buffer, or one of those kept
there. The flit's key, and its bits as they are sent. -/
def flitSent (s : State) (peer edge seq : Nat) (f : Flit) : Option (Nat × BitVec 1024 × State) :=
  let y := s.link peer
  if seq = y.txSeq then
    match flitLeaves s (endNode peer) edge f with
    | none => none
    | some (key, s) =>
      some (key, flitBits s key, s.modLink peer (fun y =>
        { y with txSeq := seq + 1, replay := last96 (y.replay ++ [{ seq := seq, key := key }]) }))
  else (y.replay.find? (fun x => x.seq == seq)).map (fun x => (x.key, flitBits s x.key, s))

/-- A flit reaches the end `k`. One with a CRC error is discarded with every later flit, and a replay request names it; the
next flit of the sequence without one is accepted (R23). -/
def flitReceived (s : State) (k seq key : Nat) (ok : Bool) : State :=
  let x := s.link k
  if !ok then
    s.modLink k (fun x => { x with
      crcErrs := satN 0xFFFF (x.crcErrs + 1)
      discarding := true
      replayReq := if seq = x.rxNext then some seq else x.replayReq })
  else if seq = x.rxNext then
    flitArrives (s.modLink k (fun x => { x with rxNext := seq + 1, discarding := false, replayReq := none })) key
  else s

/-- FLIT_RECEIVE: a flit arrives, with the bits of `err` inverted on the way. -/
def flitIn (s : State) (l : FlitEnd) (seq : Nat) (f : Flit) : State :=
  match endKeys l with
  | none => s
  | some (k, peer) =>
    if !(s.link k).carries then s
    else
      let edge := edgeOf (peer % 64)
      match flitSent s peer edge seq f with
      | none => s
      | some (key, bits, s) =>
        let s := if edge = 2 then s else ccEvent (peer / 64) (if edge = 0 then 0x07 else 0x08) 1 s
        flitReceived s k seq key (flitOk (bits ^^^ f.err))

/-- A replay request arrives at the end that sent the flit: it resends from that flit, one of the last 96 (R23, R24). -/
def replayIn (s : State) (l : FlitEnd) (seq : Nat) : State :=
  match endKeys l with
  | none => s
  | some (k, peer) =>
    let x := s.link k
    if !x.carries || (s.link peer).replayReq != some seq || !x.replay.any (fun f => f.seq == seq) then s
    else
      let s := s.modLink peer (fun y => { y with replayReq := none })
      s.modLink k (fun x => { x with
        replays := satN 0xFFFF (x.replays + (x.txSeq - seq))
        failSeq := seq
        fails := if x.failSeq = seq then x.fails + 1 else 1 })

/-- The flit's first request follows its first sending; eight more follow eight failed replays (R24). -/
def LinkEnd.exhausted (x : LinkEnd) : Bool := decide (9 ≤ x.fails)

/-- A held bundle's flits that its other end has not accepted wait to be sent on the edge's other bundles, and both ends
stand at what was sent (R24). -/
def releaseFlits (s : State) (cc b : Nat) : State :=
  let x := s.link (bundleKey cc b)
  let y := s.link (peerKey cc b)
  let open_ := (x.replay.filter (fun f => decide (y.rxNext ≤ f.seq))).map FlitSent.key ++
    (y.replay.filter (fun f => decide (x.rxNext ≤ f.seq))).map FlitSent.key
  let s := s.modLink (bundleKey cc b) (fun x =>
    { x with rxNext := max x.rxNext y.txSeq, replay := [], replayReq := none, discarding := false, fails := 0 })
  let s := s.modLink (peerKey cc b) (fun z =>
    { z with rxNext := max z.rxNext x.txSeq, replay := [], replayReq := none, discarding := false, fails := 0 })
  { s with flits := s.flits.map (fun t => if open_.contains t.key then { t with sent := false } else t) }

/-- The owner holds a bundle, and a planned retrain is scheduled (R24). -/
def holdBundle (s : State) (cc b : Nat) : State :=
  let x := s.link (bundleKey cc b)
  let y := s.link (peerKey cc b)
  if !x.carries || !(x.exhausted || y.exhausted) then s
  else modBundle (releaseFlits s cc b) cc b (fun z => { z with state := .held, planPending := true })

/-! ### Spares and widths (R25, R26) -/

/-- The spare choice of one direction and the failing lanes beyond it. While VD_REPICK is clear the fused choice stays. -/
def chooseSpares (fresh : Bool) (fused : Spares) (bad : List Nat) : Spares × List Nat :=
  if fresh then ({ s0 := bad.getD 0 0x1F, s1 := bad.getD 1 0x1F }, bad.drop 2)
  else (fused, bad.filter (fun i => i != fused.s0 && i != fused.s1))

/-- The quads in which no lane fails beyond the spares. -/
def goodQuads (beyond : List Nat) : List Nat := (List.range 4).filter (fun q => !beyond.any (fun i => i / 4 == q))

/-- The working data lanes of some quads. -/
def quadLanes (qs : List Nat) : Nat := qs.foldl (fun m q => m + 15 * 16 ^ q) 0

/-- The WIDTH code of a number of quads. -/
def widthCode (n : Nat) : Nat := 4 - n

/-- A bundle after a lane check: a fresh choice of spares at both ends, its width, and its state. `tx` and `rx` are the
Concourse's directions. -/
def trainBundle (s : State) (cc b : Nat) (chk : LaneCheck) : State :=
  let x := s.link (bundleKey cc b)
  let fresh := s.feat 13
  let t := chooseSpares fresh x.fusedTx (chk.tx.map Fin.val).eraseDups
  let r := chooseSpares fresh x.fusedRx (chk.rx.map Fin.val).eraseDups
  let qs := goodQuads (t.2 ++ r.2)
  let set (tx rx : Spares) (z : LinkEnd) : LinkEnd := { z with
    state := if qs.isEmpty then .retired else .active
    width := if qs.isEmpty then z.width else widthCode qs.length
    halfRate := false
    lanes := quadLanes qs
    disagree := false
    xchgFails := 0
    tx := tx
    rx := rx
    record := quadLanes qs
    planPending := false
    retraining := false
    planned := false }
  (s.modLink (bundleKey cc b) (set t.1 r.1)).modLink (peerKey cc b) (set r.1 t.1)

/-- A ring edge's bundle has been retrained: RING_PREF.MODE of both Concourses of the edge returns to 0b00, without
notice (R21). -/
def prefReset (s : State) (cc b : Nat) : State :=
  if 40 ≤ b then s
  else { s with pkg := { s.pkg with ringPref := tabDel (peerKey cc b / 64) (tabDel cc s.pkg.ringPref) } }

/-! ### Retrains (R27, R28) -/

/-- The bundles of a Concourse on the same edge or connection. -/
def edgeBundles (b : Nat) : List Nat :=
  if b < 20 then List.range 20 else if b < 40 then (List.range 20).map (· + 20) else (List.range 6).map (· + 40)

/-- The Signal Box starts a planned retrain: one bundle of an edge or connection at a time (R27). -/
def planRetrain (s : State) (l : Link) : State :=
  match l with
  | .bundle cc b =>
    let x := s.link (bundleKey cc b)
    let busy := (edgeBundles b).any (fun i => (s.link (bundleKey cc i)).planned)
    if !sbWorks s || s.stopping || busy || x.retraining || !(x.carries || x.state == .held) then s
    else modBundle (releaseFlits s cc b) cc b (fun z =>
      { z with state := .held, retraining := true, planned := true, planPending := false })
  | .host cc =>
    let x := s.hlink cc
    if !sbWorks s || s.stopping || !(x.state == 2 || x.state == 4) then s
    else s.modHlink cc (fun x => { x with state := 3, trainFails := 0, planPending := false, sbHeld := true })

/-- The Signal Box holds both ends of a link in safe mode for a full retrain; a planned retrain that is pending merges
into it (R28 step 4, R324). -/
def fullRetrain (s : State) (l : Link) : State :=
  if !sbWorks s || s.stopping then s
  else match l with
    | .bundle cc b =>
      if (s.link (bundleKey cc b)).state ≠ .safeMode then s
      else modBundle (releaseFlits s cc b) cc b (fun z =>
        { z with state := .held, retraining := true, planned := false, planPending := false })
    | .host cc =>
      if (s.hlink cc).state ≠ 4 then s
      else s.modHlink cc (fun x => { x with state := 3, trainFails := 0, planPending := false, sbHeld := true })

/-- A retrain that was interrupted when only the named Concourse's end had done its lane check and spare choice: the two
ends hold different records, and the bundle stays held (R28). -/
def trainOneEnd (s : State) (cc b : Nat) (chk : LaneCheck) : State :=
  let x := s.link (bundleKey cc b)
  let t := chooseSpares (s.feat 13) x.fusedTx (chk.tx.map Fin.val).eraseDups
  let r := chooseSpares (s.feat 13) x.fusedRx (chk.rx.map Fin.val).eraseDups
  let s := s.modLink (bundleKey cc b) (fun z => { z with tx := t.1, rx := r.1, record := quadLanes (goodQuads (t.2 ++ r.2)) })
  modBundle s cc b (fun z => { z with retraining := false, planned := false, disagree := true })

/-- A retrain ends (R21, R25, R26). While the keepers hold, links are not retrained, and what is held stays held
(R29). -/
def retrainEnds (s : State) (l : Link) (chk : LaneCheck) : State :=
  if !sbWorks s then s
  else match l with
    | .bundle cc b =>
      if !(s.link (bundleKey cc b)).retraining then s
      else if chk.both then prefReset (trainBundle s cc b chk) cc b
      else trainOneEnd s cc b chk
    | .host cc =>
      if (s.hlink cc).state ≠ 3 then s
      else
        let rec_ := chk.modules.toNat + 256 * (chk.half &&& chk.modules).toNat
        if chk.both then s.modHlink cc (fun x => { x with
          state := 2, modules := chk.modules.toNat, half := (chk.half &&& chk.modules).toNat, xchgFails := 0, trainFails := 0
          record := rec_, far := rec_, disagree := false, sbHeld := false })
        else s.modHlink cc (fun x => { x with record := rec_, disagree := true })

/-- The quads whose lanes both records report working. -/
def commonQuads (own far : Nat) : List Nat :=
  (List.range 4).filter (fun q => own / 16 ^ q % 16 == 15 && far / 16 ^ q % 16 == 15)

/-- A parameter exchange: each end sends the record that it holds. Both ends take the widest common width where both
confirm it, `own` and `far` being the widths that they confirm, as a WIDTH code or a set of modules; an exchange that ends
otherwise has failed (R28). A bundle that is held takes part only where its ends' records
differ, and not while the keepers hold (R29). A host link's records hold its working modules in bits 7–0 and those at x32
in bits 15–8 (R324). -/
def exchange (s : State) (l : Link) (own far : Option Nat) (ended : Bool) : State :=
  match l with
  | .bundle cc b =>
    let x := s.link (bundleKey cc b)
    let y := s.link (peerKey cc b)
    if !(x.state == .active || (x.state == .held && x.disagree && sbWorks s)) || x.retraining || !ended then s
    else
      let qs := commonQuads x.record y.record
      if !qs.isEmpty && own == some (widthCode qs.length) && far == own then
        modBundle s cc b (fun z =>
          { z with state := .active, width := widthCode qs.length, lanes := quadLanes qs, xchgFails := 0, disagree := false })
      else modBundle s cc b (fun z => { z with xchgFails := min 3 (z.xchgFails + 1) })
  | .host cc =>
    let x := s.hlink cc
    if !(x.state == 2 || (x.state == 3 && x.disagree && sbWorks s)) || !ended then s
    else
      let common := (x.record &&& x.far) % 256
      if common != 0 && own == some common && far == own then
        s.modHlink cc (fun x => { x with
          state := 2, modules := common, half := (x.record / 256 ||| x.far / 256) &&& common, xchgFails := 0, disagree := false
          sbHeld := false })
      else s.modHlink cc (fun x => { x with xchgFails := min 3 (x.xchgFails + 1) })

/-- The `n` lowest-numbered lanes of a record. -/
def lowestLanes (n rec_ : Nat) : Nat :=
  (((List.range 16).filter (fun i => rec_.testBit i)).take n).foldl (fun m i => m + 2 ^ i) 0

/-- After the third failed exchange the owner puts the link into safe mode: x4 at half rate, on the lowest-numbered four
lanes of its own record, or module 0 alone (R28 step 3, R321, R324). -/
def safeMode (s : State) (l : Link) : State :=
  match l with
  | .bundle cc b =>
    if (s.link (bundleKey cc b)).xchgFails < 3 ∨ (s.link (bundleKey cc b)).state = .safeMode then s
    else
      let own := (s.link (if ownsBundle cc b then bundleKey cc b else peerKey cc b)).record
      modBundle s cc b (fun z => { z with state := .safeMode, width := 3, halfRate := true, lanes := lowestLanes 4 own })
  | .host cc =>
    if (s.hlink cc).xchgFails < 3 ∨ (s.hlink cc).state = 4 then s
    else s.modHlink cc (fun x => { x with state := 4, modules := 1, half := 0 })

/-! ### The rows -/

/-- FLIT_RECEIVE. -/
def execFlitReceive (l : FlitEnd) (seq : Nat) (f : Flit) (s : State) : Out := .next (flitIn s l seq f)

/-- REPLAY_REQUEST. -/
def execReplayRequest (l : FlitEnd) (seq : Nat) (s : State) : Out := .next (replayIn s l seq)

/-- BUNDLE_HELD. -/
def execBundleHeld (cc : Fin 4) (b : Fin 46) (s : State) : Out := .next (holdBundle s cc b)

/-- PLANNED_RETRAIN. -/
def execPlannedRetrain (l : Link) (s : State) : Out := .next (planRetrain s l)

/-- RETRAIN_COMPLETE. -/
def execRetrainComplete (l : Link) (chk : LaneCheck) (s : State) : Out := .next (retrainEnds s l chk)

/-- PARAMETER_EXCHANGE. -/
def execParameterExchange (l : Link) (own far : Option Nat) (ended : Bool) (s : State) : Out :=
  .next (exchange s l own far ended)

/-- LINK_SAFE_MODE. -/
def execLinkSafeMode (l : Link) (s : State) : Out := .next (safeMode s l)

/-- FULL_RETRAIN. -/
def execFullRetrain (l : Link) (s : State) : Out := .next (fullRetrain s l)

end Sys2Proof.Machine
end

