-- ==== Sys2Proof/Machine/Submit.lean ====
section
/-! DEFINITION. The transfer, near-memory and system classes: submissions to shunters, launches, atomics, Tickets, cache
maintenance and flags (R89–R95, R264, R299). -/

namespace Sys2Proof.Machine

/-- A row of an engine's single-lane instruction that no Cupola unit has. -/
def engRow (s : State) (who : Agent) (w : Word) (body : Nat → Entry → State) : State :=
  match who with
  | .engine e => single s who w (body e.val)
  | .unit _ => s

/-- The local address of R89. -/
def submitAddr (en : Entry) : Nat := (en.s1.toNat + bitsN (wImm en.word) 21 0) % 2 ^ 22

/-- Submits a transfer descriptor to a shunter of the engine; `at_` is its local address, 0 for SHUNT.R (R90, R96, R152). -/
def submitDesc (s : State) (who : Agent) (e : Nat) (en : Entry) (words : List Word) (at_ : Nat) : State :=
  let g := s.eng e
  let f := descF words
  let st := 2 * e + bitsN (wImm en.word) 34 34
  match descCheck f s.pkg.feature g.asn true (decide (f.ctEngine = e)) with
  | 0 =>
    if s.shut || backPressured s f.asn || decide (8 ≤ (s.stream st).slots.length) then s
    else complete (acceptDesc s st words) e en 128
  | 0x2B => agRaise s who en 0x33 f.asn
  | _ => agRaise s who en 0x30 at_

/-- The 128 bytes of a descriptor in the tile store, or the exception that reading them raises (R90, R441). -/
def localDesc (s : State) (who : Agent) (e : Nat) (en : Entry) (go : State → List Word → Nat → State) : State :=
  let l := submitAddr en
  match lowestOut tsSize [(l, 128)] with
  | some x => agRaise s who en 0x02 x
  | none =>
    if l % 128 ≠ 0 then agRaise s who en 0x03 l
    else
      let s := senseTs s e l 128
      if (s.eng e).tsPois l 128 then agRaise s who en 0x20 l
      else go s (wordsOf ((s.eng e).tsRead l 128) 16) l

/-- SHUNT.R (R89, R90). -/
def execShuntR (o : MOp) (s : State) : Out :=
  .next (engRow s o.who (mkWord 0x00 4 o) (fun e en => submitDesc s o.who e en en.regs 0))

/-- SHUNT.T (R89, R90). -/
def execShuntT (o : MOp) (s : State) : Out :=
  .next (engRow s o.who (mkWord 0x01 4 o) (fun e en =>
    localDesc s o.who e en (fun s ws l => submitDesc s o.who e en ws l)))

/-- The credit word of a shunter (R91). -/
def creditWord (t : Stream) : Nat := (8 - t.slots.length) % 2 ^ 16 + t.endedSeq % 2 ^ 32 * 2 ^ 32

/-- SHUNTQ (R91). -/
def execShuntq (o : MOp) (s : State) : Out :=
  .next (engRow s o.who (mkWord 0x02 4 o) (fun e en =>
    let l := submitAddr en
    let imm := wImm en.word
    match lowestOut tsSize [(l, 8)] with
    | some x => agRaise s o.who en 0x02 x
    | none =>
      if l % 8 ≠ 0 then agRaise s o.who en 0x03 l
      else
        let c := creditWord (s.stream (2 * e + bitsN imm 34 34))
        let s := s.modEng e (fun g => g.tsWrite [{ addr := l, bytes := leBytes 8 c }])
        let s := if imm.testBit 33 then tcAdd s e (bitsN imm 32 27) 1 else s
        complete s e en 128))

/-- CUPX (R89, R90, R180). -/
def execCupx (o : MOp) (s : State) : Out :=
  .next (engRow s o.who (mkWord 0x00 5 o) (fun e en =>
    localDesc s o.who e en (fun s ws l =>
      let g := s.eng e
      let f := launchF ws
      match launchCheck s f g.asn (decide (f.ctEngine = e)) with
      | 0 =>
        if s.shut || backPressured s f.asn then s
        else acceptLaunch (complete s e en 128) (ccOfEngine e) (some e) 0 ws
      | 0x47 => agRaise s o.who en 0x33 f.asn
      | _ => agRaise s o.who en 0x31 l)))

/-- Bytes of a SIZE code (R92). -/
def atomicBytes (c : Nat) : Nat := 2 * 2 ^ c

/-- CUPA (R92): accepted at the head of the near-memory queue and performed later at the home Cupola unit. -/
def execCupa (o : MOp) (s : State) : Out :=
  .next (engRow s o.who (mkWord 0x01 5 o) (fun e en =>
    let imm := wImm en.word
    let a := en.s1.toNat
    let l := submitAddr en
    let n := atomicBytes (bitsN imm 30 29)
    let ret := imm.testBit 28
    match lowestOut tsSize (if ret then [(l, 8)] else []) with
    | some x => agRaise s o.who en 0x02 x
    | none =>
      let bad := (if a % n ≠ 0 then [a] else []) ++ (if ret && l % 8 != 0 then [l] else [])
      match bad with
      | x :: r => agRaise s o.who en 0x03 (r.foldl min x)
      | [] =>
        let asn := (s.eng e).asn
        if s.shut || backPressured s asn then s
        else
          let k := s.nextKey
          let s := complete s e en 128
          { s with
            nextKey := k + 1
            atomics := s.atomics ++ [(k, { src := 0, dsn := en.dsn, engine := e, asn := asn, va := a, aop := bitsN imm 34 31,
                                           size := n, op := en.s2, cmp := en.sd, ret := ret, local_ := l, tc := bitsN imm 27 22 })] }))

/-! ### TSEND (R94, R328, R329) -/

/-- The endpoint from which an agent sends (R94, R193). -/
def senderOf (who : Agent) : Nat :=
  match who with
  | .engine e => epEngine e.val
  | .unit u => epCupola (dieOfUnit u.val)

/-- The ASN of an agent: ENG_ASN, or its launch's (R194). -/
def agAsn (s : State) (who : Agent) : Nat :=
  match who with
  | .engine e => (s.eng e.val).asn
  | .unit u => (((s.unit u.val).inv.bind (fun i => findLaunch s i.launch)).map (fun l => (launchF l.words).asn)).getD 0

/-- Whether a waiting request is the agent's own. -/
def ownRequest (who : Agent) (t mine : TkSend) : Bool :=
  match who with
  | .engine _ => !t.auto && t.sender == mine.sender
  | .unit _ => t == mine

/-- The Ticket leaves when the endpoint has a credit for it; until then it keeps its place among those that wait. -/
def sendOrWait (s : State) (who : Agent) (en : Entry) (ep : Nat) (mine : TkSend) : State :=
  let s := s.modEp ep (fun p =>
    if p.waiting.any (fun t => ownRequest who t mine) then p else { p with waiting := p.waiting ++ [mine] })
  let p := s.ep ep
  match p.waiting.find? (fun t => mayLeave p t.sender) with
  | some t =>
    if epFree p && ownRequest who t mine then
      let s := s.modEp ep (fun p => { p with waiting := p.waiting.erase t, inflight := p.inflight ++ [mine] })
      agDone (grantCredits s ep) who en 128
    else s
  | none => s

/-- TSEND (R94). Its checks come in the order range, alignment, poison, endpoint (log entry 134). -/
def execTsend (o : MOp) (s : State) : Out :=
  let w := mkWord 0x00 7 o
  .next (single s o.who w (fun en =>
    let ep := (agS s o.who (wS1 w)).toNat % 2 ^ 32
    let l := agBase o.who ((agS s o.who (wS2 w)).toNat + bitsN (wImm w) 21 0)
    match lowestOut (agLocal o.who) [(l, 64)] with
    | some x => agRaise s o.who en 0x02 x
    | none =>
      if l % 64 ≠ 0 then agRaise s o.who en 0x03 l
      else
        let s := agSense s o.who l 64
        if agPois s o.who l 64 then agRaise s o.who en 0x20 l
        else
          let payload := agRead s o.who l 64
          let asn := agAsn s o.who
          if !epAccepts s ep asn payload then agRaise s o.who en 0x38 ep
          else sendOrWait s o.who en ep { sender := senderOf o.who, asn := asn, payload := payload, auto := false }))

/-! ### Cache maintenance and flags (R93, R95, R299, R301) -/

/-- A maintenance operation on the line of a translated address. A fault is a load fault; an address of the MMIO range is
an access exception (R76, R95). -/
def maintain (s : State) (opc : Nat) (o : MOp) (act : Nat → Nat → State → State) : State :=
  let w := mkWord opc 7 o
  engRow s o.who w (fun e en =>
    let g := s.eng e
    let va := (g.sReg (wS1 w) + wImmS w).toNat
    match translate s (ccOfEngine e) (engKeys e) g.asn va .r true with
    | (_, .wait) => s
    | (s, .fault r pte lv) => agRaise (scalarFault s e g.asn va 9 en.dsn .r r pte lv) o.who en 0x11 va
    | (t, .ok x) =>
      let pa := x.pa va
      if region t pa ≠ .unified then agRaise t o.who en 0x18 va
      else if memWaits t pa 1 || storesWait t (t.eng e).own then s
      else complete (act e (pa / 64) (drainEngine t e)) e en 128)

/-- CCLEAN (R299). -/
def execCclean (o : MOp) (s : State) : Out := .next (maintain s 0x01 o (fun _ l s => cleanLine s l false))

/-- CFLUSH (R299). -/
def execCflush (o : MOp) (s : State) : Out := .next (maintain s 0x02 o (fun _ l s => cleanLine s l true))

/-- CINVAL (R299): only this engine's copy; a dirty one is written back to its home first. -/
def execCinval (o : MOp) (s : State) : Out :=
  .next (maintain s 0x03 o (fun e l s =>
    let s := if look 0 (s.eng e).sc l = 2 then homeTouch s l true else s
    s.modEng e (fun g => { g with sc := tabDel l g.sc })))

/-- FLAGCLR (R93, R95). -/
def execFlagclr (o : MOp) (s : State) : Out :=
  let w := mkWord 0x04 7 o
  .next (engRow s o.who w (fun e en =>
    complete (s.modEng e (fun g => { g with fp := g.fp &&& ~~~(BitVec.ofNat 5 (wImm w)) })) e en 128))

end Sys2Proof.Machine
end

