-- ==== Sys2Proof/Machine/Mainline.lean ====
section
/-! DEFINITION. Mainline: ports, the arrival and acknowledgement of frames, remote windows, and what a package does for
others' writes, reads and atomics (R334–R342). The payloads of requests, responses and probes are not documented;
their layout here is a convention of the model (assumption log). -/

namespace Sys2Proof.Machine

/-! ### Ports (R334, R336) -/

/-- A port comes up at 400 or 800 Gb/s. -/
def portUpAt (s : State) (p speed : Nat) : State :=
  if speed ≠ 1 ∧ speed ≠ 2 then s
  else s.modPort p (fun x => if x.disable then x else { x with state := 2, speed := speed })

/-- A port goes down; its paths spread over the ports that are left. -/
def portDown (s : State) (p : Nat) : State :=
  s.modPort p (fun x => if x.disable then x else { x with state := 0, speed := 0 })

/-- A write of ML_PORT.DISABLE. -/
def portDisable (s : State) (p : Nat) (v : Bool) : State :=
  s.modPort p (fun x =>
    if v then { x with disable := true, state := 3, speed := 0 }
    else if x.disable then { x with disable := false, state := 1 }
    else x)

/-- The mask of the ports that are up, which a probe response reports (R338). -/
def upMask (s : State) : Nat := (List.range 8).foldl (fun m p => if s.portUp p then m + 2 ^ p else m) 0

/-! ### Arrival and acknowledgement (R337, R338) -/

/-- How far a PSN lies above the lowest one not yet received. -/
def Path.ahead (p : Path) (psn : Nat) : Nat := (psn + 2 ^ 32 - p.rxAck) % 2 ^ 32

/-- Whether a numbered frame is new: within 4,096 of ACK_PSN and not received before. -/
def Path.isNew (p : Path) (psn : Nat) : Bool := decide (p.ahead psn < 4096) && !nHas (psn % 2 ^ 32) p.rxSeen

/-- Moves the lowest PSN not received past those received. -/
def Path.slide (p : Path) : Nat → Path
  | 0 => p
  | n + 1 => if nHas p.rxAck p.rxSeen then
      Path.slide { p with rxSeen := nDel p.rxAck p.rxSeen, rxAck := (p.rxAck + 1) % 2 ^ 32 } n
    else p

/-- Marks a PSN received. -/
def Path.receive (p : Path) (psn : Nat) : Path :=
  let q := { p with rxSeen := nIns (psn % 2 ^ 32) p.rxSeen }
  q.slide q.rxSeen.length

/-- The 64-byte bitmap of the 512 PSNs after ACK_PSN. -/
def Path.bitmap (p : Path) : List Byte :=
  leBytes 64 (p.rxSeen.foldl (fun m q => if p.ahead q < 512 then m + 2 ^ (p.ahead q) else m) 0)

/-- Acknowledges what has been received from a package. -/
def sendAck (s : State) (pkg tag : Nat) : State :=
  sendPlain s { type := 7, src := s.pkgId, dst := pkg, opTag := tag, payload := (s.path pkg).bitmap }

/-- Whether a frame is accepted at a port: the port is up, the CRC holds and the frame is for this package (R336,
R337). -/
def frameForUs (s : State) (p : Nat) (f : Frame337) : Bool :=
  s.portUp p && pkgIdOk s.pkgId && f.dst == s.pkgId && pkgIdOk f.src && decide (f.payload.length ≤ 4096)

/-- A frame with a bad FCS or a bad CRC is counted and discarded. -/
def badFrame (s : State) (p : Nat) : State :=
  if s.portUp p then s.modPort p (fun x => { x with fcsErr := satN 0xFFFF (x.fcsErr + 1) }) else s

/-- A numbered frame arrives: a new one is performed exactly once and then acknowledged, a duplicate only acknowledged.
One that must wait at the homes, for which `act` gives none, stays unacknowledged and will come again. -/
def numbered (s : State) (p : Nat) (f : Frame337) (chk : FrameCheck) (act : State → Option State) : State :=
  if !frameSound f chk then badFrame s p
  else if !frameForUs s p f then s
  else if !(s.path f.src).isNew f.psn then
    if decide (2 ^ 31 ≤ (s.path f.src).ahead f.psn) || nHas (f.psn % 2 ^ 32) (s.path f.src).rxSeen then sendAck s f.src f.opTag else s
  else match act s with
    | none => s
    | some s => sendAck (s.modPath f.src (fun q => q.receive f.psn)) f.src f.opTag

/-- A frame without a number arrives. -/
def unnumbered (s : State) (p : Nat) (f : Frame337) (chk : FrameCheck) (act : State → State) : State :=
  if !frameSound f chk then badFrame s p else if frameForUs s p f then act s else s

/-- Whether an acknowledgement covers a PSN. -/
def ackCovers (f : Frame337) (psn : Nat) : Bool :=
  decide ((f.ackPsn + 2 ^ 32 - psn) % 2 ^ 32 < 2 ^ 31) ||
    (let d := (psn + 2 ^ 32 - f.ackPsn - 1) % 2 ^ 32
     decide (d < 512) && (leNat f.payload).testBit d)

/-- One frame of a remote car has landed: the car completes with its last (R170). -/
def carAcked (s : State) (st seq car : Nat) : State :=
  match (s.stream st).slots.findIdx? (fun d => d.seq == seq && nHas car d.inflight) with
  | none => s
  | some i =>
    let left := match (s.stream st).slots[i]? with
      | some d => look 0 d.sent car
      | none => 0
    let s := modDesc s st i (fun d => { d with sent := put 0 d.sent car (left - 1) })
    if left ≤ 1 then
      let s := carDone s st i car false
      match streamEngine st with
      | some e => engResetDone s e
      | none => s
    else s

/-- An acknowledgement frame (R338, R339). -/
def ackArrives (s : State) (f : Frame337) : State :=
  let done := (s.path f.src).unacked.filter (fun u => ackCovers f u.frame.psn)
  let s := s.modPath f.src (fun p => { p with unacked := p.unacked.filter (fun u => !ackCovers f u.frame.psn) })
  let s := forAll done (fun u s => if isWrite u.frame && decide (u.frame.stream < 576) then carAcked s u.frame.stream u.seq u.car else s) s
  releaseGuarded s f.src

/-- A frame's timeout expires: it is sent again, on another port when one is up, and its timeout doubles up to 2 ms;
at most 12 times (R338, R340). -/
def retransmit (s : State) (pkg psn : Nat) : State :=
  match (s.path pkg).unacked.find? (fun u => u.frame.psn == psn && decide (u.tries < 12)) with
  | none => s
  | some u =>
    let n := s.fresh
    let s := n.2
    let ups := upPorts s (pathTm s pkg)
    let other := ups.filter (fun p => p != u.port)
    let from_ := if other.isEmpty then ups else other
    let port := from_[Config.orderPick n.1 from_.length % max 1 from_.length]?
    let v := { u with tries := u.tries + 1, timeout := min 2000 (2 * u.timeout), port := port.getD u.port }
    let s := s.modPath pkg (fun p => { p with unacked := p.unacked.map (fun w => if w.frame.psn == psn then v else w) })
    match port with
    | some k =>
      let s := s.modPort k (fun x => { x with retx := satN 0xFFFF (x.retx + 1) })
      tmEvent (k / 4) 0x05 1 { s with sent := onWire s u.frame k (n.1 + 1) :: s.sent }
    | none => s

/-! ### Windows (R341, R342) -/

/-- An entry of the window table. -/
structure Win where
  va : Nat
  len : Nat
  asn : Nat
  rights : Nat
  lo : Nat
  hi : Nat
deriving DecidableEq, Repr

/-- Reads the fields of a window entry. -/
def winOf (bs : List Byte) : Win :=
  { va := (w64At bs 0).toNat, len := (w64At bs 8).toNat, asn := u32At bs 16 % 2 ^ 20, rights := u32At bs 16 / 2 ^ 24 % 8,
    lo := u16At bs 20, hi := u16At bs 22 }

/-- The window entry that a remote address names, cached at the Terminus once read. An entry that cannot be read counts
as unused; none while its line waits at the home (R234, R247). -/
def winEntry (s : State) (tm idx : Nat) : State × Option Win :=
  let c := look [] s.winCache (256 * tm + idx)
  if !c.isEmpty then (s, some (winOf c))
  else
    let pa := s.winBase + 32 * idx
    if region s pa ≠ .unified then (s, some (winOf []))
    else if memWaits s pa 32 then (s, none)
    else
      let s := memTouch s pa 32
      if memPoisoned s pa 32 then (s, some (winOf []))
      else
        let bs := memRead s pa 32
        ({ s with winCache := put [] s.winCache (256 * tm + idx) bs }, some (winOf bs))

/-- What a remote operation meets at its window: physical pieces, a refusal, or a wait. -/
inductive WinRes where
  | ok (l : List (Nat × Nat))
  | refused
  | wait
deriving DecidableEq, Repr

/-- Translates the range of a remote operation; a fault refuses it. -/
def windowPieces (s : State) (cc asn va n : Nat) (acc : Acc) : State × WinRes :=
  match translateRange s cc [cc] asn va n acc false with
  | (s, .ok l) => (s, .ok (l.map (fun p => (p.1, p.2.1))))
  | (s, .fault _ _ _ _) => (s, .refused)
  | (s, .wait) => (s, .wait)

/-- The checks of R342 for `n` bytes at a remote address, with the right numbered `right`. No fault enters a Siding. A
package that is being reset refuses every operation (R390). -/
def windowCheck (s : State) (tm : Nat) (f : Frame337) (right n : Nat) (acc : Acc) : State × WinRes :=
  let off := f.addr % 2 ^ 56
  match winEntry s tm (f.addr / 2 ^ 56 % 256) with
  | (s, none) => (s, .wait)
  | (s, some w) =>
    if s.stopping ∨ w.len = 0 ∨ f.src < w.lo ∨ w.hi < f.src ∨ !w.rights.testBit right ∨ w.len < off + n then (s, .refused)
    else windowPieces s tm w.asn ((w.va + off) % 2 ^ 64) n acc

/-- Refuses an operation with a refusal frame (R342). -/
def refuse (s : State) (f : Frame337) : State :=
  sendFrame s { frame := { type := 8, prio := f.prio, src := s.pkgId, dst := f.src, stream := f.stream, opTag := f.opTag } }

/-- Whether any of some pieces must wait at its home. -/
def piecesWait (s : State) (l : List (Nat × Nat)) : Bool := l.any (fun p => memWaits s p.1 p.2)

/-- Writes bytes over physical pieces. -/
def writePieces (s : State) (l : List (Nat × Nat)) (bytes : List Byte) (poison : Bool) : State :=
  (l.foldl (fun (r : State × List Byte) p => (memWrite r.1 .other p.1 (r.2.take p.2) poison, r.2.drop p.2)) (s, bytes)).1

/-! ### What others ask of the package (R224, R226, R342) -/

/-- A remote write, or a GUARD write: it lands through the homes, or is refused. Its sender has held a GUARD write until
the earlier writes of its stream were acknowledged (R339). -/
def remoteWrite (tm : Nat) (f : Frame337) (s : State) : Option State :=
  match windowCheck s tm f 0 f.payload.length .w with
  | (_, .wait) => none
  | (s, .refused) => some (refuse s f)
  | (s, .ok l) => if piecesWait s l then none else some (writePieces s l f.payload (f.flags.testBit 2))

/-- The runs of a range's bytes that are alike in poison, at most 4,096 bytes each. -/
def respRuns (addr : Nat) (bs : List PByte) : List (Nat × List PByte) :=
  remoteRuns { loc := false, addr := addr, data := bs }

/-- A remote read request: the payload names the number of bytes. It is answered from the homes, a poisoned line
poisoned (R226, R254). -/
def remoteRead (tm : Nat) (f : Frame337) (s : State) : Option State :=
  let n := u32At f.payload 0
  if n = 0 ∨ 2 ^ 20 < n then some (refuse s f)
  else match windowCheck s tm f 1 n .r with
    | (_, .wait) => none
    | (s, .refused) => some (refuse s f)
    | (s, .ok l) =>
      if piecesWait s l then none
      else
        let bs := memPB s l
        let s := forAll l (fun p s => memTouch s p.1 p.2) s
        let runs := respRuns f.addr bs
        some (forAll runs.zipIdx (fun r s => sendFrame s {
          frame := { type := 4, flags := 4 * b2n (r.1.2.any Prod.snd) + 8 * b2n (r.2 + 1 == runs.length), prio := f.prio,
                     src := s.pkgId, dst := f.src, stream := f.stream, opTag := f.opTag, addr := r.1.1,
                     payload := r.1.2.map Prod.fst } }) s)

/-- A remote atomic request: byte 0 of the payload holds AOP and SIZE, bytes 8–15 the operand and 16–23 the compare
value. It waits at the home Cupola unit (R204, R342). -/
def remoteAtomic (tm : Nat) (f : Frame337) (s : State) : Option State :=
  let aop := u16At f.payload 0 % 16
  let size := u16At f.payload 0 / 16 % 4
  let n := atomicBytes size
  if !aopOk aop size || f.addr % n != 0 then some (refuse s f)
  else match windowCheck s tm f 2 n .a with
    | (_, .wait) => none
    | (s, .ok ((pa, _) :: _)) =>
      let x : Atomic :=
        { src := 1, va := pa, aop := aop, size := n, op := w64At f.payload 8, cmp := w64At f.payload 16,
          reply := [BitVec.ofNat 64 f.src, BitVec.ofNat 64 f.opTag, BitVec.ofNat 64 f.stream, BitVec.ofNat 64 f.prio] }
      some { s with nextKey := s.nextKey + 1, atomics := s.atomics ++ [(s.nextKey, x)] }
    | (s, _) => some (refuse s f)

/-- The response to a remote atomic: the old value, or POISON (R206). -/
def atomicReply (s : State) (x : Atomic) (old : Option Nat) : State :=
  let w (i : Nat) : Nat := (wordAt x.reply i).toNat
  let f : Frame337 :=
    { type := 6, flags := 8 + 4 * b2n old.isNone, prio := w 3, src := s.pkgId, dst := w 0, stream := w 2, opTag := w 1,
      payload := leBytes 8 (old.getD 0) }
  sendFrame s { frame := f }

/-- Performs an accepted atomic of an engine or of another package (R204). -/
def atomicRun (s : State) (k : Nat) : State :=
  match s.atomics.find? (fun p => p.1 == k) with
  | none => s
  | some (_, x) =>
    if x.src = 0 then cupaPerform s k x
    else if (s.holding && !x.atUnit) || !atomicReady s x.va x.size then s
    else
      let r := performAtomic s .other x.va x.size x.aop x.op.toNat x.cmp.toNat false
      atomicReply (dropAtomic r.1 k) x r.2

/-- A probe is answered with the ports that are up. One that asks for a fresh start, since its sender held this package
unreachable, restarts the numbering here too (R340). -/
def probeArrives (s : State) (f : Frame337) : State :=
  let fresh := f.payload.getD 0 0 == 1
  let s := if fresh then s.modPath f.src (fun p => { p with
      rxAck := 0, rxSeen := [], txPsn := p.unacked.length % 2 ^ 32,
      unacked := p.unacked.zipIdx.map (fun u => { u.1 with frame := { u.1.frame with psn := u.2 } }) })
    else s
  sendPlain s { type := 0x21, src := s.pkgId, dst := f.src, payload := leBytes 1 (upMask s) }

/-- ML_WIN.INV: every cached window entry is discarded (R341). -/
def winInvalidate (s : State) : State := { s with winCache := [], winInv := true }

/-- Every Terminus has read its entries again. -/
def winReread (s : State) : State := { s with winInv := false }

/-! ### The rows -/

/-- ML_LINK_UP. -/
def execMlLinkUp (p : Fin 8) (speed : BitVec 4) (s : State) : Out := .next (portUpAt s p speed.toNat)

/-- ML_LINK_DOWN. -/
def execMlLinkDown (p : Fin 8) (s : State) : Out := .next (portDown s p)

/-- ML_PORT_DISABLE. -/
def execMlPortDisable (p : Fin 8) (v : Bool) (s : State) : Out := .next (portDisable s p v)

/-- ML_WRITE. -/
def execMlWrite (p : Fin 8) (f : Frame337) (chk : FrameCheck) (s : State) : Out :=
  .next (numbered s p { f with type := 1 } chk (remoteWrite (p / 4) { f with type := 1 }))

/-- ML_GUARD_WRITE. -/
def execMlGuardWrite (p : Fin 8) (f : Frame337) (chk : FrameCheck) (s : State) : Out :=
  .next (numbered s p { f with type := 2 } chk (remoteWrite (p / 4) { f with type := 2 }))

/-- ML_READ_REQUEST. -/
def execMlReadRequest (p : Fin 8) (f : Frame337) (chk : FrameCheck) (s : State) : Out :=
  .next (numbered s p { f with type := 0x03 } chk (remoteRead (p / 4) f))

/-- ML_ATOMIC_REQUEST. -/
def execMlAtomicRequest (p : Fin 8) (f : Frame337) (chk : FrameCheck) (s : State) : Out :=
  .next (numbered s p { f with type := 0x05 } chk (remoteAtomic (p / 4) f))

/-- ATOMIC_PERFORM. -/
def execAtomicPerform (k : Nat) (s : State) : Out := .next (atomicRun s k)

/-- ML_ACKNOWLEDGEMENT. -/
def execMlAcknowledgement (p : Fin 8) (f : Frame337) (chk : FrameCheck) (s : State) : Out :=
  .next (unnumbered s p { f with type := 0x07 } chk (fun s => ackArrives s f))

/-- ML_RETRANSMIT_TIMEOUT. -/
def execMlRetransmitTimeout (pkg psn : Nat) (s : State) : Out := .next (retransmit s pkg psn)

/-- ML_PROBE. -/
def execMlProbe (p : Fin 8) (f : Frame337) (chk : FrameCheck) (s : State) : Out :=
  .next (unnumbered s p { f with type := 0x20 } chk (fun s => probeArrives s f))

/-- ML_WIN_INV: a write of INV in either Terminus block acts on both. -/
def execMlWinInv (_ : Fin 2) (s : State) : Out := .next (winInvalidate s)

end Sys2Proof.Machine
end

