-- ==== Sys2Proof/Machine/RemoteOps.lean ====
section
/-! DEFINITION. Remote-operation rings: entries and their checks, responses, local faults, records and ends (R343,
R344). -/

namespace Sys2Proof.Machine

/-! ### Entries -/

/-- The fields of a remote-operation entry. -/
structure RopF where
  opc : Nat
  prio : Nat
  relAbort : Bool
  aop : Nat
  size : Nat
  asn : Nat
  dst : Nat
  len : Nat
  remote : Nat
  local_ : Nat
  operand : Nat
  compare : Nat
  record : Nat
  ctInc : Nat
  ctTc : Nat
  ctEn : Bool
  ctEngine : Nat
  zerosOk : Bool
deriving DecidableEq, Repr

/-- Reads the fields of an entry. -/
def ropF (b : List Byte) : RopF :=
  let at_ (i : Nat) : Nat := (b.getD i 0).toNat
  { opc := at_ 0, prio := at_ 1 % 4, relAbort := (at_ 1).testBit 2, aop := at_ 2 % 16, size := at_ 2 / 16 % 4,
    asn := u32At b 4 % 2 ^ 20, dst := u16At b 8, len := u32At b 12, remote := (w64At b 16).toNat,
    local_ := (w64At b 24).toNat, operand := (w64At b 32).toNat, compare := (w64At b 40).toNat, record := (w64At b 48).toNat,
    ctInc := at_ 56, ctTc := at_ 57 % 64, ctEn := (at_ 57).testBit 7, ctEngine := at_ 58,
    zerosOk := at_ 1 / 8 == 0 && at_ 3 == 0 && u32At b 4 / 2 ^ 20 == 0 && u16At b 10 == 0 && !(at_ 57).testBit 6 &&
      (b.drop 59).all (fun x => x == 0) && (at_ 0 != 2 || at_ 2 / 64 == 0) }

/-- The checks of R344: the code of the refusal, or 0. -/
def ropCheck (s : State) (f : RopF) (ringAsn : Nat) : Nat :=
  let opOk := f.opc == 1 || (f.opc == 2 && aopOk f.aop f.size)
  let lenOk := if f.opc = 2 then f.len == 0 else decide (64 ≤ f.len) && decide (f.len ≤ 2 ^ 20) && f.len % 64 == 0
  let alignOk := f.record % 32 == 0 &&
    (if f.opc = 2 then f.local_ % 8 == 0 && f.remote % atomicBytes f.size == 0 else f.local_ % 64 == 0)
  if ringAsn != 0 && f.asn != ringAsn then 0x54
  else if !f.zerosOk || !opOk then 0x51
  else if !lenOk || !alignOk then 0x52
  else if f.ctEn && !bulkCtOk s f.ctEngine f.asn then 0x53
  else 0

/-- A remote-operation record. -/
def ropRecord (seq status cause flags old : Nat) : List Byte :=
  leBytes 8 seq ++ leBytes 1 status ++ leBytes 1 cause ++ leBytes 1 flags ++ leBytes 5 0 ++ leBytes 8 old ++ leBytes 8 0

/-! ### Ends (R344) -/

/-- Changes the operation with a tag. -/
def modRop (s : State) (tag : Nat) (f : RemOp → RemOp) : State :=
  { s with remOps := s.remOps.map (fun x => if x.tag = tag then f x else x) }

/-- The operation with a tag. -/
def findRop (s : State) (tag : Nat) : Option RemOp := s.remOps.find? (fun x => x.tag == tag)

/-- The accepted operations of a ring. -/
def ringRops (s : State) (k : Nat) : List RemOp := s.remOps.filter (fun x => 8 * x.tm + x.ring == k)

/-- A ring's reset ends once it holds no operation (R173). -/
def roResetDone (s : State) (k : Nat) : State :=
  if (s.roRing k).resetting && (ringRops s k).isEmpty then s.modRoRing k Ring.cleared else s

/-- The Siding entry of an operation's local fault or record fault. -/
def ropFault (x : RemOp) (kind access va reason pte level : Nat) : FaultEnt :=
  { id := 0, reason := reason, access := access, va := va, asn := (ropF x.entry).asn, kind := kind, unit := 0x20 + x.ring,
    reqSeq := x.seq, pte := pte, level := level }

/-- Steps of an end after the data is visible: the record, then the increment. With `skip` the record write was answered
with an error. -/
def ropEnd (s : State) (tag : Nat) (skip : Bool) : State :=
  match findRop s tag with
  | none => s
  | some x =>
    match if x.recFault.isSome then none else x.final with
    | none => s
    | some (status, cause) =>
      let f := ropF x.entry
      let rel := status == 3 && f.relAbort && f.ctEn
      let out (s : State) : State :=
        let s := { s with remOps := s.remOps.filter (fun y => y.tag != tag) }
        let k := 8 * x.tm + x.ring
        let s := roResetDone (s.modRoRing k (fun r => { r with seqEnded := x.seq })) k
        if f.ctEn && (status == 1 || f.relAbort) then tcAdd s f.ctEngine f.ctTc f.ctInc else s
      if skip || f.record == 0 then out s
      else
        let old := if f.opc = 2 then x.old.toNat else x.landed
        match tryRecord s x.tm f.asn f.record .other (ropRecord x.seq status cause (b2n x.poison + 8 * b2n rel) old) with
        | (s, .done) => out s
        | (s, .waits) => s
        | (s, .fault r p l) =>
          let q := recordFault s x.tm f.asn (ropFault x 4 2 f.record r p l)
          modRop q.1 tag (fun x => { x with recFault := some q.2 })

/-- An operation ends with a status and cause, unless it has come to its end already. -/
def ropFinish (s : State) (tag status cause : Nat) : State :=
  match findRop s tag with
  | none => s
  | some x =>
    if x.final.isSome then s
    else ropEnd (modRop s tag (fun x => { x with final := some (status, cause), fault := none, fetched := [] })) tag false

/-! ### Landing (R344) -/

/-- Lands data at LOCAL + `off`: nothing is written where a page of it faults; the operation then waits for the answer. -/
def ropLand (s : State) (x : RemOp) (off : Nat) (bytes : List Byte) (poison : Bool) : State × Bool :=
  let f := ropF x.entry
  let va := (f.local_ + off) % 2 ^ 64
  match translateRange s x.tm [x.tm] f.asn va bytes.length .w false with
  | (_, .wait) => (s, false)
  | (t, .fault va rs p l) =>
    let q := recordFault t x.tm f.asn (ropFault x 0x0B 2 va rs p l)
    (modRop q.1 x.tag (fun x => { x with fault := some q.2 }), false)
  | (t, .ok l) =>
    let l := l.map (fun p => (p.1, p.2.1))
    if piecesWait t l then (s, false) else (writePieces t l bytes poison, true)

/-- Lands what has arrived, in order of arrival, as far as nothing waits; the operation ends with its last byte. Each
piece is marked poisoned by a leading 1. -/
def ropDrain (tag : Nat) : Nat → State → State
  | 0, s => s
  | n + 1, s =>
    match findRop s tag with
    | none => s
    | some x =>
      match x.fetched with
      | [] => s
      | (off, b :: bytes) :: rest =>
        if x.fault.isSome || x.final.isSome then s
        else
          let poison := b == 1
          match ropLand s x off bytes poison with
          | (s, false) => s
          | (s, true) =>
            let f := ropF x.entry
            let s := modRop s tag (fun x => { x with
              fetched := rest
              landed := if f.opc = 1 then x.landed + bytes.length else x.landed
              poison := x.poison || poison })
            let all := f.opc == 2 || decide (f.len ≤ x.landed + bytes.length)
            if all then ropFinish s tag 1 0 else ropDrain tag n s
      | (_, []) :: rest => ropDrain tag n (modRop s tag (fun x => { x with fetched := rest }))

/-- Runs an operation's landing. -/
def ropRun (s : State) (tag : Nat) : State :=
  match findRop s tag with
  | some x => ropDrain tag x.fetched.length s
  | none => s

/-- A read response: its bytes lie at the remote address in ADDR (R344). -/
def readResponse (f : Frame337) (s : State) : State :=
  match findRop s f.opTag with
  | none => s
  | some x =>
    let e := ropF x.entry
    let off := (f.addr + 2 ^ 64 - e.remote) % 2 ^ 64
    if e.opc ≠ 1 ∨ e.dst ≠ f.src ∨ f.payload.isEmpty ∨ e.len < off + f.payload.length ∨ x.final.isSome then s
    else
      let piece := (off, (if f.flags.testBit 2 then 1 else 0) :: f.payload)
      ropRun (modRop s f.opTag (fun x => { x with fetched := x.fetched ++ [piece] })) f.opTag

/-- An atomic response: OLD, the return value at LOCAL, and the end. Of a poisoned one OLD is not stated, and no value
is returned (R206, R344). -/
def atomicResponse (f : Frame337) (s : State) : State :=
  match findRop s f.opTag with
  | none => s
  | some x =>
    let e := ropF x.entry
    if e.opc ≠ 2 ∨ e.dst ≠ f.src ∨ x.final.isSome then s
    else if f.flags.testBit 2 then
      let n := s.fresh
      ropFinish (modRop n.2 f.opTag (fun x => { x with poison := true, old := Config.freeWord n.1 0 })) f.opTag 1 0
    else
      let old := w64At f.payload 0
      let s := modRop s f.opTag (fun x => { x with old := old })
      if e.local_ = 0 then ropFinish s f.opTag 1 0
      else
        let piece := (0, (0 : Byte) :: leBytes 8 old.toNat)
        ropRun (modRop s f.opTag (fun x => { x with fetched := x.fetched ++ [piece] })) f.opTag

/-! ### Rings (R171–R173, R343) -/

/-- The request frame of an operation. -/
def ropFrame (s : State) (x : RemOp) : Frame337 :=
  let f := ropF x.entry
  { type := if f.opc = 1 then 3 else 5
    flags := 8
    prio := f.prio
    src := s.pkgId
    dst := f.dst
    stream := 576 + 8 * x.tm + x.ring
    opTag := x.tag
    addr := f.remote
    payload := if f.opc = 1 then leBytes 4 f.len
      else leBytes 8 (f.aop + 16 * f.size) ++ leBytes 8 f.operand ++ leBytes 8 f.compare }

/-- A remote-operation ring takes its next entry (R344). -/
def roAccept (s : State) (tm r : Nat) : State :=
  let k := 8 * tm + r
  let ring := s.roRing k
  if !ring.open? || decide (16 ≤ (ringRops s k).length) || s.shut || !pkgIdOk s.pkgId || termFailed s tm then s
  else match readEntry s tm ring 64 with
    | (s, .waits) => s
    | (s, .poisoned) => s.modRoRing k Ring.refuse
    | (s, .fault va rs p l) =>
      let q := recordFault s tm ring.asn (ringFault (0x20 + r) ring.consumer ring.asn va rs p l)
      q.1.modRoRing k (fun x => { x with fault := some q.2 })
    | (t, .ok bs) =>
      let f := ropF bs
      if backPressured t f.asn then s
      else match ropCheck t f ring.asn with
        | 0 =>
          let seq := (ring.seqLast + 1) % 2 ^ 64
          let g := newTag t
          let x : RemOp := { tm := tm, ring := r, seq := seq, entry := bs, tag := g.1 }
          let t := (g.2.modRoRing k (fun x => { x.advance with seqLast := seq }))
          let t := { t with nextKey := t.nextKey + 1, remOps := t.remOps ++ [{ x with born := t.nextKey }] }
          if opsRefused t f.dst then ropFinish t x.tag 3 0x0A else sendFrame t { frame := ropFrame t x }
        | c =>
          match refusedRecord t tm (refusedAsn ring.asn f.asn) f.record (ropRecord 0 4 c 0 0) with
          | some t => t.modRoRing k Ring.refuse
          | none => s

/-- RESET of a remote-operation ring: every accepted entry ends ABORTED with CAUSE 0x09 (R173). -/
def roReset (s : State) (tm r : Nat) : State :=
  let k := 8 * tm + r
  let s := s.modRoRing k (fun x => { x with resetting := true })
  roResetDone (forAll (ringRops s k) (fun x s => ropFinish s x.tag 3 9) s) k

/-- A write of RO_CTRL. -/
def roCtrl (s : State) (tm r : Nat) (v : Word) : State :=
  let s := s.modRoRing (8 * tm + r) (fun x => x.setCtrl v)
  if bit v 33 then roReset s tm r else s

/-- The effect of an answer on a remote operation (R265). -/
def answerRop (s : State) (key : Nat) (retry : Bool) (x : RemOp) : State :=
  if x.fault = some key then
    if retry then ropRun (modRop s x.tag (fun x => { x with fault := none })) x.tag else ropFinish s x.tag 3 0x0B
  else if x.recFault = some key then
    ropEnd (modRop s x.tag (fun x => { x with recFault := none })) x.tag (!retry)
  else s

/-- The effect of an answer on the remote-operation rings and their operations. -/
def answerRo (s : State) (key : Nat) (retry : Bool) : State :=
  let s := { s with roRings := tabMapD {} s.roRings (fun _ r =>
    if r.fault = some key then (if retry then { r with fault := none } else { r.refuse with fault := none }) else r) }
  forAll s.remOps (fun x s => answerRop s key retry x) s

/-! ### The rows -/

/-- RO_DOORBELL. -/
def execRoDoorbell (tm : Fin 2) (r : Fin 8) (p : BitVec 32) (s : State) : Out :=
  .next (s.modRoRing (8 * tm + r) (fun x => x.doorbell p.toNat))

/-- RO_CTRL_RESET. -/
def execRoCtrlReset (tm : Fin 2) (r : Fin 8) (s : State) : Out := .next (roReset s tm r)

/-- RO_CTRL_ENABLE. -/
def execRoCtrlEnable (tm : Fin 2) (r : Fin 8) (v : Word) (s : State) : Out := .next (roCtrl s tm r v)

/-- REMOTE_OP_ENTRY_ACCEPT. -/
def execRemoteOpEntryAccept (tm : Fin 2) (r : Fin 8) (s : State) : Out := .next (roAccept s tm r)

/-- JUNCTION_DOORBELL_TICKET. -/
def execJunctionDoorbellTicket (tm : Fin 2) (s : State) : Out := .next (doorbellTicket s (epJunction tm))

/-- ML_READ_RESPONSE. -/
def execMlReadResponse (p : Fin 8) (f : Frame337) (chk : FrameCheck) (s : State) : Out :=
  .next (numbered s p { f with type := 0x04 } chk (fun s => some (readResponse f s)))

/-- ML_ATOMIC_RESPONSE. -/
def execMlAtomicResponse (p : Fin 8) (f : Frame337) (chk : FrameCheck) (s : State) : Out :=
  .next (numbered s p { f with type := 0x06 } chk (fun s => some (atomicResponse f s)))

end Sys2Proof.Machine
end

