-- ==== Sys2Proof/Machine/Collectives.lean ====
section
/-! DEFINITION. Junction collectives: groups, descriptors and their checks, contributions and their combination, CAUTION,
abort, records and ends (R345–R350). How a contribution is laid out in frames is not documented: here every member sends
its contribution to every member that needs it, in frames of at most 4,032 bytes of data behind 16 bytes that present
the descriptor's parameters (assumption log). -/

namespace Sys2Proof.Machine

/-! ### Descriptors and groups (R347, R348) -/

/-- The fields of a collective descriptor. -/
structure CollF where
  opc : Nat
  fmt : Nat
  rop : Nat
  group : Nat
  root : Nat
  sat : Bool
  prio : Nat
  relAbort : Bool
  asn : Nat
  send : Nat
  recv : Nat
  count : Nat
  ctInc : Nat
  ctTc : Nat
  ctEn : Bool
  ctEngine : Nat
  record : Nat
  tag : Nat
  zerosOk : Bool
deriving DecidableEq, Repr

/-- Reads the fields of a collective descriptor. -/
def collF (l : List Word) : CollF :=
  let w (j : Nat) : Word := wordAt l j
  { opc := fld (w 0) 63 56, fmt := fld (w 0) 55 52, rop := fld (w 0) 51 48, group := fld (w 0) 47 40,
    root := fld (w 0) 39 24, sat := bit (w 0) 23, prio := fld (w 0) 22 21, relAbort := bit (w 0) 20, asn := fld (w 0) 19 0,
    send := (w 1).toNat, recv := (w 2).toNat, count := (w 3).toNat,
    ctInc := fld (w 4) 63 56, ctTc := fld (w 4) 55 50, ctEn := bit (w 4) 49, ctEngine := fld (w 4) 47 40,
    record := (w 5).toNat, tag := fld (w 6) 31 0,
    zerosOk := !bit (w 4) 48 && fld (w 4) 39 0 == 0 && fld (w 6) 63 32 == 0 &&
      (List.range 9).all (fun i => w (7 + i) == 0) }

/-- The floating-point format of an FMT. -/
def collFp : Nat → Option FpFmt
  | 0x0 => some .fp32
  | 0x1 => some .bf16
  | 0x3 => some .e4m3
  | 0x4 => some .e5m2
  | _ => none

/-- Bytes of an element, or none where FMT names none (R345). -/
def collBytes : Nat → Option Nat
  | 0x0 => some 4
  | 0x1 => some 2
  | 0x3 => some 1
  | 0x4 => some 1
  | 0x5 => some 1
  | 0x8 => some 4
  | 0xA => some 8
  | _ => none

/-- Bytes of one member's block: COUNT elements. -/
def CollF.block (f : CollF) : Nat := f.count * (collBytes f.fmt).getD 1

/-- A group's members in rank order and this package's rank, or none where the entry is invalid (R347). -/
def groupOf (s : State) (g : Nat) : Option (List Nat × Nat) :=
  let pa := s.grpBase + 16 * g
  if region s pa ≠ .unified ∨ memPoisoned s pa 16 then none
  else
    let bs := memRead s pa 16
    let m := u16At bs 0
    let rank := u16At bs 2
    let list := (w64At bs 8).toNat
    if m < 2 ∨ 4096 < m ∨ m ≤ rank ∨ u32At bs 4 ≠ 0 ∨ region s list ≠ .unified ∨ region s (list + 2 * m - 1) ≠ .unified ∨
        memPoisoned s list (2 * m) then none
    else
      let ids := (List.range m).map (fun i => leNat (memRead s (list + 2 * i) 2))
      if ids.getD rank 0 = s.pkgId then some (ids, rank) else none

/-- Where a group's member list lies, and how long it is. -/
def groupList (s : State) (g : Nat) : Nat × Nat :=
  let bs := memRead s (s.grpBase + 16 * g) 16
  ((w64At bs 8).toNat, 2 * u16At bs 0)

/-- Whether the reads of a group's entry and member list wait at their homes (R234, R247). -/
def groupWaits (s : State) (g : Nat) : Bool :=
  memWaits s (s.grpBase + 16 * g) 16 || memWaits s (groupList s g).1 (groupList s g).2

/-- A group's entry, and its member list where the entry is valid, have been read at their homes. -/
def groupRead (s : State) (g : Nat) : State :=
  let l := groupList s g
  let s := memTouch s (s.grpBase + 16 * g) 16
  if (groupOf s g).isSome then memTouch s l.1 l.2 else s

/-- The checks of R349 but the group's: whether a descriptor is acceptable. -/
def collOk (s : State) (f : CollF) (ringAsn members : Nat) : Bool :=
  let es := (collBytes f.fmt).getD 1
  let reduces := f.opc == 1 || f.opc == 2
  f.zerosOk && decide (1 ≤ f.opc) && decide (f.opc ≤ 5) && (collBytes f.fmt).isSome &&
    (if reduces then decide (f.rop ≤ 2) || (decide (f.rop ≤ 5) && (collFp f.fmt).isNone) else f.rop == 0) &&
    decide (1 ≤ f.count) && decide (f.count < 2 ^ 32) && f.send % es == 0 && f.recv % es == 0 && f.record % 32 == 0 &&
    (f.opc != 4 || decide (f.root < members)) && (ringAsn == 0 || f.asn == ringAsn) &&
    (!f.ctEn || bulkCtOk s f.ctEngine f.asn)

/-- A collective record. -/
def collRecord (c : Coll) (seq status cause : Nat) (released : Bool) (faultRank tag : Nat) : List Byte :=
  leBytes 8 seq ++ leBytes 1 status ++ leBytes 1 cause ++
    leBytes 1 (b2n c.poison + 2 * b2n c.caution + 8 * b2n released) ++ leBytes 1 0 ++ leBytes 2 c.cautionRank ++
    leBytes 2 faultRank ++ leBytes 4 tag ++ leBytes 4 c.cautionFrames ++ leBytes 8 0

/-! ### Access to collectives -/

/-- Whether a collective is the one that a Terminus, a ring and a sequence number name. -/
def Coll.is (c : Coll) (tm ring seq : Nat) : Bool := c.tm == tm && c.ring == ring && c.seq == seq

/-- Changes a collective. -/
def modColl (s : State) (x : Coll) (f : Coll → Coll) : State :=
  { s with colls := s.colls.map (fun c => if c.is x.tm x.ring x.seq then f c else c) }

/-- The present state of a collective. -/
def findColl (s : State) (x : Coll) : Option Coll := s.colls.find? (fun c => c.is x.tm x.ring x.seq)

/-- The collectives of a ring. -/
def ringColls (s : State) (k : Nat) : List Coll := s.colls.filter (fun c => 4 * c.tm + c.ring == k)

/-- A ring's reset ends once it holds no collective (R173). -/
def crResetDone (s : State) (k : Nat) : State :=
  if (s.crRing k).resetting && (ringColls s k).isEmpty then s.modCrRing k Ring.cleared else s

/-- The Siding entry of a collective's local fault or record fault (R349). -/
def collFault (c : Coll) (kind access va reason pte level : Nat) : FaultEnt :=
  { id := 0, reason := reason, access := access, va := va, asn := (collF c.words).asn, kind := kind, unit := 0x30 + c.ring,
    reqSeq := c.seq, pte := pte, level := level }

/-! ### Ends (R348, R349) -/

/-- The record and the increment of a collective that has come to its end. With `skip` the record write was answered
with an error. -/
def collEnd (s : State) (x : Coll) (skip : Bool) : State :=
  match findColl s x with
  | none => s
  | some c =>
    match if c.recFault.isSome then none else c.final with
    | none => s
    | some (status, cause, rank) =>
      let f := collF c.words
      let rel := status == 3 && f.relAbort && f.ctEn
      let out (s : State) : State :=
        let s := { s with colls := s.colls.filter (fun y => !y.is x.tm x.ring x.seq) }
        let k := 4 * c.tm + c.ring
        let s := crResetDone (s.modCrRing k (fun r => { r with seqEnded := c.seq })) k
        if f.ctEn && (status == 1 || f.relAbort) then tcAdd s f.ctEngine f.ctTc f.ctInc else s
      if skip || f.record == 0 then out s
      else match tryRecord s c.tm f.asn f.record .other (collRecord c c.seq status cause rel rank f.tag) with
        | (s, .done) => out s
        | (s, .waits) => s
        | (s, .fault r p l) =>
          let q := recordFault s c.tm f.asn (collFault c 4 2 f.record r p l)
          modColl q.1 x (fun c => { c with recFault := some q.2 })

/-- A collective ends with a status, cause and rank, unless it has come to its end already. -/
def collFinish (s : State) (x : Coll) (status cause rank : Nat) : State :=
  match findColl s x with
  | none => s
  | some c =>
    if c.final.isSome then s
    else collEnd (modColl s x (fun c => { c with final := some (status, cause, rank), fault := none, contribs := [] })) x false

/-! ### Frames -/

/-- The 16 bytes that present a descriptor's OPC, FMT, ROP, ROOT and COUNT. -/
def collParams (f : CollF) : List Byte := leBytes 8 (f.opc + 256 * f.fmt + 4096 * f.rop + 65536 * f.root) ++ leBytes 8 f.count

/-- Whether a line's channel makes an access wait: it is being retrained, or retired and perhaps at this line (R350). -/
def lineSlow (s : State) (n l : Nat) : Bool :=
  match slotOfPa s (l * 64) with
  | none => false
  | some (ch, _) =>
    (s.chan ch).state == .retraining ||
      ((s.stack (ch / 32)).retireState == 1 && (s.stack (ch / 32)).retiredCh == ch % 32 && Config.freeBool n l)

/-- Whether the package sets CAUTION in the frames of a collective (R350): a stack is hot, thermal control has lowered a
Spire's voltage, or an access of it waits on a channel. -/
def cautionNow (s : State) (n : Nat) (pieces : List (Nat × Nat)) : Bool :=
  s.feat 12 &&
    (s.stks.any (fun p => p.2.thermal == 2 || p.2.thermal == 3) ||
      s.spires.any (fun p => decide (0 < p.2.dieCut) || decide (0 < p.2.stackCut)) ||
      pieces.any (fun p => (linesOf p.1 p.2).any (lineSlow s n)))

/-- The address field of a collective frame. -/
def collAddr (f : CollF) (off : Nat) : Nat := f.group * 2 ^ 56 + f.tag * 2 ^ 24 + off / 64 % 2 ^ 24

/-- Sends one frame of a collective to a member, and counts it (R426). -/
def sendColl (s : State) (c : Coll) (dst flags off : Nat) (payload : List Byte) : State :=
  let f := collF c.words
  let s := tmEvent c.tm 0x01 1 s
  let s := if flags % 2 = 1 then tmEvent c.tm 0x03 1 s else s
  let frame : Frame337 :=
    { type := 0x10, flags := flags, prio := f.prio, src := s.pkgId, dst := dst, stream := 1024 + f.group, opTag := c.seq % 2 ^ 32,
      addr := collAddr f off, payload := payload }
  sendFrame s { frame := frame }

/-- Sends ABORT to every other member with the cause it ends with there and the rank at fault (R349, R350). -/
def sendAbort (s : State) (c : Coll) (cause rank : Nat) : State :=
  forAll c.members.zipIdx (fun m s =>
    if m.2 = c.rank then s
    else sendColl s c m.1 2 0 (collParams (collF c.words) ++ leBytes 1 cause ++ leBytes 2 rank)) s

/-- The pieces of a contribution of at most 4,032 bytes that are alike in poison, from offset 0 on. -/
def collRuns (bs : List PByte) : List (Nat × List PByte) :=
  (linePieces 0 bs.length).foldl (fun acc p =>
    let r := (bs.drop p.1).take p.2
    match acc.getLast? with
    | some (a, l) =>
      if l.length + r.length ≤ 4032 ∧ l.any Prod.snd = r.any Prod.snd then acc.dropLast ++ [(a, l ++ r)]
      else acc ++ [(p.1, r)]
    | none => acc ++ [(p.1, r)]) []

/-- Sends bytes from offset `off` of a contribution on to a member, the last of them or not. -/
def sendContrib (s : State) (c : Coll) (dst off : Nat) (caution last : Bool) (bs : List PByte) : State :=
  let runs := collRuns bs
  forAll runs.zipIdx (fun r s =>
    sendColl s c dst (b2n caution + 4 * b2n (r.1.2.any Prod.snd) + 8 * b2n (last && r.2 + 1 == runs.length)) (off + r.1.1)
      (collParams (collF c.words) ++ r.1.2.map Prod.fst)) s

/-! ### The member's own part -/

/-- Whether each member is given a block of its own (R345). -/
def CollF.blockEach (f : CollF) : Bool := f.opc == 2 || f.opc == 5

/-- A part of a member's send buffer, read and sent as one: bytes `off` to `off + len` of its block `block`. -/
structure Chunk where
  block : Nat
  off   : Nat
  len   : Nat
deriving DecidableEq, Repr

/-- The number of a chunk among those of its collective. -/
def Chunk.key (k : Chunk) : Nat := k.block * 2 ^ 24 + k.off / 4032

/-- The chunks that a member sends (R345). -/
def sendChunks (f : CollF) (rank members : Nat) : List Chunk :=
  let blocks := if f.blockEach then List.range members else if f.opc = 4 ∧ rank ≠ f.root then [] else [0]
  blocks.flatMap (fun b => (List.range ((f.block + 4031) / 4032)).map (fun k =>
    { block := b, off := 4032 * k, len := min 4032 (f.block - 4032 * k) }))

/-- Whether a chunk goes to rank `j`. -/
def Chunk.goesTo (k : Chunk) (f : CollF) (j : Nat) : Bool := !f.blockEach || k.block == j

/-- Bytes of the send buffer that a member reads. -/
def sendLen (f : CollF) (rank members : Nat) : Nat :=
  match f.opc with
  | 2 => f.block * members
  | 5 => f.block * members
  | 4 => if rank = f.root then f.block else 0
  | _ => f.block

/-- Bytes of the receive buffer. -/
def recvLen (f : CollF) (members : Nat) : Nat := if f.opc = 3 ∨ f.opc = 5 then f.block * members else f.block

/-- Translates a buffer of a collective: its pieces, or none where a walk waits or a page faults, which then holds it. -/
def collPieces (s : State) (c : Coll) (va n : Nat) (recv : Bool) : State × Option (List (Nat × Nat)) :=
  let f := collF c.words
  let acc : Acc := if recv then .w else .r
  match translateRange s c.tm [c.tm] f.asn va n acc false with
  | (s, .ok l) => (s, some (l.map (fun p => (p.1, p.2.1))))
  | (_, .wait) => (s, none)
  | (t, .fault va rs p l) =>
    let q := recordFault t c.tm f.asn (collFault c 0x0C acc.code va rs p l)
    (modColl q.1 c (fun c => { c with fault := some q.2, faultIsRecv := recv }), none)

/-- The physical pieces of a chunk, of those of the whole send buffer. -/
def chunkPieces (f : CollF) (l : List (Nat × Nat)) (k : Chunk) : List (Nat × Nat) :=
  let from_ := k.block * f.block + k.off
  (l.foldl (fun (r : Nat × List (Nat × Nat)) p =>
    let lo := max from_ r.1
    let hi := min (from_ + k.len) (r.1 + p.2)
    (r.1 + p.2, if lo < hi then r.2 ++ [(p.1 + (lo - r.1), hi - lo)] else r.2)) (0, [])).2

/-- The chunks not sent yet. -/
def Coll.unsent (c : Coll) : List Chunk :=
  (sendChunks (collF c.words) c.rank c.members.length).filter (fun k => !nHas k.key c.sent)

/-- Reads one chunk and sends it to every member that it goes to; the member's own part joins what it has received. -/
def sendChunk (s : State) (x : Coll) (l : List (Nat × Nat)) (caution : Bool) (k : Chunk) : State :=
  match findColl s x with
  | none => s
  | some c =>
    let f := collF c.words
    let p := chunkPieces f l k
    let bs := memPB s p
    let s := forAll p (fun p s => memTouch s p.1 p.2) s
    let last (j : Nat) : Bool := (c.unsent.filter (fun q => q.goesTo f j)).length == 1
    let s := forAll (c.members.zipIdx.filter (fun m => m.2 != c.rank && k.goesTo f m.2))
      (fun m s => sendContrib s c m.1 k.off caution (last m.2) bs) s
    let mine := if k.goesTo f c.rank then
        (collRuns bs).map (fun r =>
          { rank := c.rank, off := k.off + r.1, data := r.2.map Prod.fst, poison := r.2.any Prod.snd : Contrib })
      else []
    modColl s x (fun c => { c with sent := nIns k.key c.sent, contribs := c.contribs ++ mine })

/-- Reads the send buffer and sends what can be read of it: a part that waits at its home, as one in a stack in
self-refresh does, is sent later (R350). -/
def collSend (s : State) (c : Coll) : State :=
  let f := collF c.words
  if c.unsent.isEmpty || c.fault.isSome || c.final.isSome then s
  else match collPieces s c f.send (sendLen f c.rank c.members.length) false with
    | (s, none) => s
    | (s, some l) =>
      let q := s.fresh
      let caution := cautionNow q.2 q.1 (c.unsent.flatMap (chunkPieces f l))
      forAll c.unsent (fun k s => if piecesWait s (chunkPieces f l k) then s else sendChunk s c l caution k) q.2

/-! ### Combination (R346) -/

/-- The bytes that a rank has contributed. -/
def rankBytes (c : Coll) (rank : Nat) : Nat :=
  (c.contribs.filter (fun x => x.rank == rank)).foldl (fun n x => n + x.data.length) 0

/-- The ranks whose contributions a member needs. -/
def neededRanks (c : Coll) : List Nat :=
  if (collF c.words).opc = 4 then [(collF c.words).root] else List.range c.members.length

/-- Whether every contribution is complete. -/
def collReady (c : Coll) : Bool :=
  c.unsent.isEmpty && (neededRanks c).all (fun r => decide ((collF c.words).block ≤ rankBytes c r))

/-- A rank's block with its poison. -/
def rankBlock (c : Coll) (rank : Nat) : List PByte :=
  let t : Tab PByte := (c.contribs.filter (fun x => x.rank == rank)).foldl
    (fun t x => (x.data.zipIdx).foldl (fun t b => tabIns (x.off + b.2) (b.1, x.poison) t) t) []
  (List.range (collF c.words).block).map (fun i => look (0, false) t i)

/-- One step of a reduction on the working values: FP32 encodings of floating-point elements, else the element. -/
def combine (f : CollF) (a b : Nat) : Nat :=
  match collFp f.fmt with
  | some _ =>
    match f.rop with
    | 0 => (fpOp2 .fp32 .rne .add a b).1
    | 1 => (fpOp2 .fp32 .rne .min a b).1
    | _ => (fpOp2 .fp32 .rne .max a b).1
  | none =>
    let w := 8 * (collBytes f.fmt).getD 1
    match f.rop with
    | 0 => (a + b) % 2 ^ w
    | 1 => if sextN w a ≤ sextN w b then a else b
    | 2 => if sextN w a ≤ sextN w b then b else a
    | 3 => a &&& b
    | 4 => a ||| b
    | _ => Nat.xor a b

/-- Combines values pairwise in an order that the spec does not fix (R144, R346). -/
def combineAll (f : CollF) (n : Nat) : Nat → List Nat → Nat
  | _, [] => 0
  | _, [x] => x
  | 0, x :: _ => x
  | k + 1, x :: y :: t =>
    let l := x :: y :: t
    let i := Config.orderPick (n + 2 * k) l.length % max 1 l.length
    let l' := l.eraseIdx i
    let j := Config.orderPick (n + 2 * k + 1) l'.length % max 1 l'.length
    combineAll f n k (combine f (l.getD i 0) (l'.getD j 0) :: l'.eraseIdx j)

/-- An element as a working value, and back with one rounding (R346). -/
def toWork (f : CollF) (x : Nat) : Nat :=
  match collFp f.fmt with
  | some t => (fpConv t .fp32 .rne false x).1
  | none => x

def fromWork (f : CollF) (x : Nat) : Nat :=
  match collFp f.fmt with
  | some t => (fpConv .fp32 t .rne f.sat x).1
  | none => x

/-- The elements of a block with their poison. -/
def blockEls (f : CollF) (bs : List PByte) : List (Nat × Bool) := elsOf ((collBytes f.fmt).getD 1) f.count bs

/-- The reduction over all members, element by element. -/
def reduceBlocks (f : CollF) (n : Nat) (blocks : List (List PByte)) : List PByte :=
  let es := (collBytes f.fmt).getD 1
  let els := blocks.map (blockEls f)
  (List.range f.count).flatMap (fun i =>
    let col := els.map (fun b => b.getD i (0, false))
    let v := fromWork f (combineAll f (n * 2 ^ 48 + i * 2 ^ 14) blocks.length (col.map (fun x => toWork f x.1)))
    (leBytes es v).map (fun b => (b, col.any Prod.snd)))

/-- The receive buffer's bytes. -/
def collResult (c : Coll) (n : Nat) : List PByte :=
  let f := collF c.words
  let blocks := (neededRanks c).map (rankBlock c)
  if f.opc = 1 ∨ f.opc = 2 then reduceBlocks f n blocks else blocks.flatten

/-- Writes bytes with their poison over physical pieces: a line that receives a poisoned byte is poisoned. -/
def putPieces (s : State) (l : List (Nat × Nat)) (bs : List PByte) : State :=
  (l.foldl (fun (r : State × List PByte) p =>
    let mine := r.2.take p.2
    (memWriteBy r.1 .other p.1 (mine.map Prod.fst) (fun ln =>
      (linePieces p.1 p.2).any (fun q => q.1 / 64 == ln && ((mine.drop (q.1 - p.1)).take q.2).any Prod.snd)), r.2.drop p.2))
    (s, bs)).1

/-- Writes the result and ends the collective, once every contribution is there and RECV can be written. -/
def collComplete (s : State) (x : Coll) : State :=
  match findColl s x with
  | none => s
  | some c =>
    if !collReady c || c.fault.isSome || c.final.isSome then s
    else
      let f := collF c.words
      match collPieces s c f.recv (recvLen f c.members.length) true with
      | (s, none) => s
      | (s, some l) =>
        if piecesWait s l then s
        else
          let q := s.fresh
          let bs := collResult c q.1
          let s := if f.opc ≤ 2 then tmEvent c.tm 0x04 (f.block * c.members.length / 64) q.2 else q.2
          let s := putPieces s l bs
          let s := modColl s x (fun c => { c with poison := c.poison || bs.any Prod.snd })
          collFinish s x 1 0 0xFFFF

/-- Moves a collective on as far as it can go. -/
def collRun (s : State) (x : Coll) : State :=
  match findColl s x with
  | none => s
  | some c => collComplete (collSend s c) x

/-! ### Arrival (R349, R350) -/

/-- A frame of a collective that this member holds. -/
def collFrame (s : State) (x : Coll) (fr : Frame337) : State :=
  match findColl s x with
  | none => s
  | some c =>
    let f := collF c.words
    match c.members.idxOf? fr.src with
    | none => s
    | some rank =>
      if c.final.isSome then s
      else if fr.flags.testBit 1 then
        let cause := if (fr.payload.getD 16 0).toNat = 0x21 then 0x21 else 0x20
        collFinish s x 3 cause (if cause = 0x21 then u16At fr.payload 17 else rank)
      else
        let s := if fr.flags.testBit 0 then modColl s x (fun c => { c with
            caution := true
            cautionRank := min c.cautionRank rank
            cautionFrames := satN 0xFFFFFFFF (c.cautionFrames + 1) }) else s
        if fr.payload.take 16 ≠ collParams f then collFinish (sendAbort s c 0x21 rank) x 3 0x21 rank
        else
          let y : Contrib :=
            { rank := rank, off := fr.addr % 2 ^ 24 * 64, data := fr.payload.drop 16, poison := fr.flags.testBit 2 }
          collComplete (modColl s x (fun c => { c with contribs := c.contribs ++ [y] })) x

/-- Whether a frame belongs to a collective. -/
def collMatches (c : Coll) (fr : Frame337) : Bool :=
  (collF c.words).group == fr.addr / 2 ^ 56 % 256 && (collF c.words).tag == fr.addr / 2 ^ 24 % 2 ^ 32

/-- A collective frame arrives: for a collective that this member has not started yet it is kept (R349). -/
def collArrives (s : State) (tm : Nat) (fr : Frame337) : State :=
  let s := tmEvent tm 0x02 1 s
  match s.colls.find? (fun c => collMatches c fr) with
  | some c => collFrame s c fr
  | none =>
    let g := fr.addr / 2 ^ 56 % 256
    let t := fr.addr / 2 ^ 24 % 2 ^ 32
    if s.early.any (fun e => e.group == g && e.tag == t) then
      { s with early := s.early.map (fun e => if e.group == g && e.tag == t then { e with frames := e.frames ++ [fr] } else e) }
    else { s with early := s.early ++ [{ group := g, tag := t, frames := [fr] }] }

/-! ### Rings (R348) -/

/-- A member that cannot be reached, by rank. -/
def lostRank (s : State) (members : List Nat) (rank : Nat) : Option Nat :=
  (members.zipIdx.find? (fun m => m.2 != rank && opsRefused s m.1)).map Prod.snd

/-- A collective ring takes its next descriptor. -/
def crAccept (s : State) (tm r : Nat) : State :=
  let k := 4 * tm + r
  let ring := s.crRing k
  if !ring.open? || decide (16 ≤ (ringColls s k).length) || s.shut || !pkgIdOk s.pkgId || termFailed s tm then s
  else match readEntry s tm ring 128 with
    | (s, .waits) => s
    | (s, .poisoned) => s.modCrRing k Ring.refuse
    | (s, .fault va rs p l) =>
      let q := recordFault s tm ring.asn (ringFault (0x30 + r) ring.consumer ring.asn va rs p l)
      q.1.modCrRing k (fun x => { x with fault := some q.2 })
    | (t, .ok bs) =>
      let ws := wordsOf bs 16
      let f := collF ws
      let blank : Coll := { tm := tm, ring := r, seq := 0, words := ws, members := [], rank := 0 }
      let refused (c : Nat) : State :=
        match refusedRecord t tm (refusedAsn ring.asn f.asn) f.record (collRecord blank 0 4 c false 0xFFFF f.tag) with
        | some t => t.modCrRing k Ring.refuse
        | none => s
      if backPressured t f.asn then s
      else if (s.fwOf tm).failed.testBit 3 then refused 0x63
      else if groupWaits t f.group then s
      else match groupOf t f.group with
        | none => refused 0x61
        | some (members, rank) =>
          if !collOk t f ring.asn members.length then refused 0x62
          else
            let seq := (ring.seqLast + 1) % 2 ^ 64
            let t := (groupRead t f.group).modCrRing k (fun x => { x.advance with seqLast := seq })
            let c : Coll := { tm := tm, ring := r, seq := seq, words := ws, members := members, rank := rank, born := t.nextKey }
            let t := { t with nextKey := t.nextKey + 1, colls := t.colls ++ [c] }
            match lostRank t members rank with
            | some j => collFinish t c 3 0x0A j
            | none =>
              let frames := (t.early.filter (fun e => e.group == f.group && e.tag == f.tag)).flatMap Early.frames
              let t := { t with early := t.early.filter (fun e => !(e.group == f.group && e.tag == f.tag)) }
              let t := collSend t c
              forAll frames (fun fr s => collFrame s c fr) (collComplete t c)

/-- RESET of a collective ring: every accepted descriptor ends ABORTED with CAUSE 0x09 (R173, R348). -/
def crReset (s : State) (tm r : Nat) : State :=
  let k := 4 * tm + r
  let s := s.modCrRing k (fun x => { x with resetting := true })
  crResetDone (forAll (ringColls s k) (fun c s => collFinish s c 3 9 0xFFFF) s) k

/-- A write of CR_CTRL. -/
def crCtrl (s : State) (tm r : Nat) (v : Word) : State :=
  let s := s.modCrRing (4 * tm + r) (fun x => x.setCtrl v)
  if bit v 33 then crReset s tm r else s

/-- A collective is cancelled: it ends here with CAUSE 0x0C, and every other member is told (R350). -/
def collCancel (s : State) (c : Coll) : State :=
  if c.final.isSome then s else collFinish (sendAbort s c 0x20 c.rank) c 3 0x0C c.rank

/-- A write of JN_CANCEL: a value that names no running collective of the ring is ignored (R350). -/
def jnCancelWrite (s : State) (tm r : Nat) (v : Word) : State :=
  match s.colls.find? (fun c => c.is tm r v.toNat) with
  | some c => collCancel s c
  | none => s

/-- The effect of an answer on a collective (R265, R349). -/
def answerColl (s : State) (key : Nat) (retry : Bool) (c : Coll) : State :=
  if c.fault = some key then
    if retry then collRun (modColl s c (fun c => { c with fault := none })) c
    else collFinish (sendAbort s c 0x20 c.rank) c 3 0x0B c.rank
  else if c.recFault = some key then
    collEnd (modColl s c (fun c => { c with recFault := none })) c (!retry)
  else s

/-- The effect of an answer on the collective rings and their collectives. -/
def answerCr (s : State) (key : Nat) (retry : Bool) : State :=
  let s := { s with crRings := tabMapD {} s.crRings (fun _ r =>
    if r.fault = some key then (if retry then { r with fault := none } else { r.refuse with fault := none }) else r) }
  forAll s.colls (fun c s => answerColl s key retry c) s

/-! ### The rows -/

/-- CR_DOORBELL. -/
def execCrDoorbell (tm : Fin 2) (r : Fin 4) (p : BitVec 32) (s : State) : Out :=
  .next (s.modCrRing (4 * tm + r) (fun x => x.doorbell p.toNat))

/-- CR_CTRL_RESET. -/
def execCrCtrlReset (tm : Fin 2) (r : Fin 4) (s : State) : Out := .next (crReset s tm r)

/-- CR_CTRL_ENABLE. -/
def execCrCtrlEnable (tm : Fin 2) (r : Fin 4) (v : Word) (s : State) : Out := .next (crCtrl s tm r v)

/-- COLLECTIVE_ENTRY_ACCEPT. -/
def execCollectiveEntryAccept (tm : Fin 2) (r : Fin 4) (s : State) : Out := .next (crAccept s tm r)

/-- JN_CANCEL. -/
def execJnCancel (tm : Fin 2) (r : Fin 4) (v : Word) (s : State) : Out := .next (jnCancelWrite s tm r v)

/-- ML_COLLECTIVE. -/
def execMlCollective (p : Fin 8) (f : Frame337) (chk : FrameCheck) (s : State) : Out :=
  .next (numbered s p { f with type := 0x10 } chk (fun s => some (collArrives s (p / 4) f)))

end Sys2Proof.Machine
end

