-- ==== Sys2Proof/Machine/Hbm.lean ====
section
/-! DEFINITION. HBM channels: reads, writes and the write-combining buffer, error logs, retraining, retirement,
temperature responses, patrol scrub and the traffic generator (R270–R290). -/

namespace Sys2Proof.Machine

/-! ### Errors (R253, R279, R284, R285) -/

/-- The log entry that a correction takes (R285). -/
def logIndex (l : Tab LogEntry) (sector : Nat) : Nat × Bool :=
  match firstBelow 16 (fun k => (look {} l k).valid && (look {} l k).sector == sector) with
  | some k => (k, false)
  | none =>
    match firstBelow 16 (fun k => !(look {} l k).valid) with
    | some k => (k, false)
    | none =>
      let low := (List.range 16).foldl (fun m k => min m (look {} l k).count) 0xFFFF
      ((firstBelow 16 (fun k => (look {} l k).count == low)).getD 0, true)

/-- A correctable error: counted and entered in the log (R284, R285). -/
def corrected (c : Chan) (sector symbol : Nat) : Chan :=
  let p := logIndex c.log sector
  let old := look {} c.log p.1
  let count := if old.valid && old.sector == sector then satN 0xFFFF (old.count + 1) else 1
  { c with
    ce := satN 0xFFFF (c.ce + 1)
    log := put {} c.log p.1 { count := count, valid := true, symbol := symbol, sector := sector }
    replaced := if p.2 then satN 0xFF (c.replaced + 1) else c.replaced }

/-- An uncorrectable sector: counted, and the channel retires at the limit of HBM_POLICY (R279, R284). -/
def uncorrected (c : Chan) (sector limit : Nat) : Chan :=
  let sect := nIns sector c.ueSect
  { c with
    ue := satN 0xFFFF (c.ue + 1)
    ueSect := sect
    mustRetire := c.mustRetire || (limit != 0 && decide (limit ≤ sect.length)) }

/-- `n` records of a channel's error log are records of its Concourse (R31). -/
def logRecords (s : State) (ch n : Nat) : State := iter n (fun _ s => (bumpSeq s (siteCC (ch / 96))).2) s

/-- What the check of one sector finds, acted on: 0 nothing, 1 + symbol a correction, 37 uncorrectable (R284). A line
already poisoned is no error. An uncorrectable line of the unified range is recovered under R253. -/
def sectorCheck (s : State) (ch sector err : Nat) : State :=
  let line := paLine s ch (sector / 64) (sector / 2 % 32)
  let poisoned := match line with
    | some l => nHas l s.poison
    | none => false
  if err = 0 || poisoned then s
  else if err ≤ 36 then (logRecords s ch 1).modChan ch (fun c => corrected c sector (err - 1))
  else
    let s := s.modChan ch (fun c => uncorrected c sector s.pkg.ueRetire)
    match line with
    | some l => { s with recovering := nIns l s.recovering }
    | none => s

/-- The check of both sectors of a line: sector 0 plus 38 × sector 1. -/
def lineCheck (s : State) (ch line err : Nat) : State :=
  sectorCheck (sectorCheck s ch (2 * line) (err % 38)) ch (2 * line + 1) (err / 38 % 38)

/-! ### Reads, writes and the write-combining buffer (R275, R276) -/

/-- Puts the bytes of a channel write where they are read: the line of the unified range that the slot holds, else
the slot itself. A write of a whole line clears the line's poison (R255). -/
def hbmPut (s : State) (ch line first : Nat) (bytes : List Byte) : State :=
  match paLine s ch (line / 32) (line % 32) with
  | some l =>
    { s with
      mem := memPut s.mem (l * 64 + first) bytes
      poison := if bytes.length = 64 then nDel l s.poison else s.poison
      recovering := if bytes.length = 64 then nDel l s.recovering else s.recovering }
  | none => s.modChan ch (fun c => { c with reserve := memPut c.reserve (line * 64 + first) bytes })

/-- A channel performs one request. -/
def hbmPerform (ch : Nat) (q : HbmReq) (s : State) : State :=
  if q.write then
    let s := hbmEvent s ch 0x05
    let s := hbmPut s ch q.line q.first q.bytes
    if q.bytes.length = 64 then s.modChan ch (fun c => { c with wcb := c.wcb.filter (fun w => w.line != q.line) })
    else wcbWrite s ch q.line (byteMask q.first q.bytes.length)
  else
    let s := forAll ((s.chan ch).wcb.filter (fun w => w.line == q.line)) (fun w s => senseEntry s ch w) s
    let s := s.modChan ch (fun c => { c with
      wcb := (c.wcb.filter (fun w => !(w.line == q.line && w.latent == 2))).map (fun w =>
        if w.line = q.line then { w with latent := 0 } else w) })
    lineCheck (hbmEvent s ch 0x04) ch q.line q.err

/-- Whether a channel serves requests. -/
def Chan.serves (c : Chan) : Bool := c.state == .active || c.state == .failing

/-- The credits of a channel: the entries of its queue, 128 under WA-03 where the Cupola die is at B0, and half of them
while the stack is at its 95 °C response (R35, R275, R288; log entry 147). -/
def chanCredits (s : State) (ch : Nat) : Nat :=
  (if s.sig.wa.testBit 3 && (s.ident (siteCU (dieOfUnit ch))).stepping == 0x0B00 then 128 else 256) /
    (if (s.stack (ch / 32)).thermal = 1 then 2 else 1)

/-- A request reaches a channel: it is performed, or waits in the queue of a channel that is being retrained or is in
self-refresh. Where no credit is left its requester waits (R275). A channel out of service, or without that slot, takes
none. -/
def hbmRequest (s : State) (ch : Nat) (q : HbmReq) : State :=
  let c := s.chan ch
  if 2 ^ 26 ≤ q.line ∨ q.line / 32 > 2097151 ∨ 64 < q.first + q.bytes.length ∨ (q.write ∧ q.bytes = []) then s
  else if c.serves && (decide (2031616 ≤ q.line / 32) || (granuleOf s ch (q.line / 32)).isSome) then hbmPerform ch q s
  else if !c.rests then s
  else if c.waiting.isEmpty && decide (c.queue.length < chanCredits s ch) then
    s.modChan ch (fun c => { c with queue := c.queue ++ [q] })
  else s.modChan ch (fun c => { c with waiting := c.waiting ++ [q] })

/-- The waiting requests are performed in arrival order (R278). -/
def hbmRelease (s : State) (ch : Nat) : State :=
  let c := s.chan ch
  forAll (c.queue ++ c.waiting) (hbmPerform ch) (s.modChan ch (fun c => { c with queue := [], waiting := [] }))

/-! ### Retraining and retirement (R278–R281) -/

/-- The state of a channel in service. -/
def serviceState (s : State) (ch : Nat) : ChanState :=
  if (s.chan ch).failing then .failing else .active

/-- The Signal Box starts a planned retrain (R278). -/
def retrainStart (s : State) (ch : Nat) : State :=
  let stk := ch / 32
  let busy := (List.range 32).any (fun i => (s.chan (32 * stk + i)).state == .retraining)
  if !sbWorks s || s.stopping || !(s.chan ch).serves || busy || decide (105 ≤ (s.stack stk).temp) then s
  else s.modChan ch (fun c => { c with state := .retraining })

/-- A retrain ends: counted, with its redundant lanes. A stack at 115 °C then enters self-refresh; else the waiting
requests are performed. A channel that failed its lane check is to be retired (R279). -/
def retrainDone (s : State) (ch : Nat) (ok : Bool) (lanes : Nat) : State :=
  if (s.chan ch).state ≠ .retraining then s
  else
    let sleep := decide (3 ≤ (s.stack (ch / 32)).thermal)
    let s := s.modChan ch (fun c => { c with
      retrains := satN 0xFFFF (c.retrains + 1)
      lanes := if ok then lanes % 256 else c.lanes
      mustRetire := c.mustRetire || !ok
      state := if sleep then .selfRefresh else serviceState s ch })
    if sleep then drainWcb s ch else hbmRelease s ch

/-- Where the context store goes, stack `not` aside: the reserve of a stack without a retired channel, the slow-tier
reserve, or the engines' own slots (R362 step 2). -/
def ctxPlace (s : State) (not : Nat) : Nat :=
  ((List.range 12).find? (fun p => p != not && (s.stack p).retiredCh == 0xFF)).getD
    (if s.pkg.slowReady && s.pkg.slowBytes != 0 then 12 else 13)

/-- A second bad channel of a stack is marked failing, and the stack reported as needing service. FAILING_CH names the first
(R279, R281; log entry 148). -/
def markFailing (s : State) (ch : Nat) : State :=
  let s := (s.modChan ch (fun c => { c with failing := true })).modStack (ch / 32) (fun k =>
    { k with failingCh := if k.failingCh = 0xFF then ch % 32 else k.failingCh })
  { s with sig := { s.sig with serviceDies := s.sig.serviceDies ||| 2 ^ siteCU (ch / 32) } }

/-- The Signal Box retires a channel, or marks it failing where the stack's reserve is in use (R279–R281). A context
store in that reserve moves first to the next place of R362. -/
def retireChannel (s : State) (ch : Nat) : State :=
  let stk := ch / 32
  let k := s.stack stk
  if k.retiredCh != 0xFF then
    if k.retiredCh = ch % 32 then s.modChan ch (fun c => { c with mustRetire := false })
    else
      let s := markFailing s ch
      s.modChan ch (fun c => { c with mustRetire := false, state := if c.serves then .failing else c.state })
  else
    let s := if s.sig.ctxStore = some stk then { s with sig := { s.sig with ctxStore := some (ctxPlace s stk) } } else s
    let s := s.modStack stk (fun k => { k with retiredCh := ch % 32, retireState := 1, moveNext := 0 })
    s.modChan ch (fun c => { c with mustRetire := false })

/-- CHANNEL_RETIRE acts on a channel that meets a condition of R279. -/
def retireDue (s : State) (ch : Nat) : State :=
  if sbWorks s && (s.chan ch).mustRetire then logbook (retireChannel s ch) else s

/-- The controller moves the next granule of a stack's retiring channel: its entries are evicted, what the sector code finds
is handled (R284), and its map entry switched. After the last the channel is retired (R280). Nothing moves while the
channel is being retrained or is in self-refresh (R278, R288). -/
def moveGranule (s : State) (stk : Nat) (bad : List (Fin 64 × Fin 38)) : State :=
  let k := s.stack stk
  let ch := 32 * stk + k.retiredCh
  if k.retireState ≠ 1 || (s.chan ch).rests then s
  else
    let l := k.moveNext
    let s := evictIf s ch (fun w => w.line / 32 == l)
    let s := forAll bad (fun p s => sectorCheck s ch (l * 64 + p.1.val) p.2.val) s
    if l + 1 < 2031616 then s.modStack stk (fun k => { k with moveNext := l + 1 })
    else
      let s := s.modStack stk (fun k => { k with moveNext := l + 1, retireState := 2 })
      s.modChan ch (fun c => { c with state := .retired, queue := [], wcb := [] })

/-! ### Temperature (R288) -/

/-- The response in force after a reading. -/
def thermalLevel (was temp : Nat) : Nat :=
  let on (k hot cold : Nat) : Bool := decide (hot ≤ temp) || (decide (k ≤ was) && decide (cold ≤ temp))
  if on 3 115 100 then 3 else if on 2 105 100 then 2 else if on 1 95 90 then 1 else 0

/-- The channels of a stack enter self-refresh after their write-combining buffers have drained. One being retrained
finishes first (R278). -/
def stackSleep (s : State) (stk : Nat) : State :=
  iter 32 (fun i s =>
    let ch := 32 * stk + i
    if (s.chan ch).serves then (drainWcb s ch).modChan ch (fun c => { c with state := .selfRefresh }) else s) s

/-- The channels of a stack leave self-refresh and perform what waits. -/
def stackWake (s : State) (stk : Nat) : State :=
  iter 32 (fun i s =>
    let ch := 32 * stk + i
    if (s.chan ch).state = .selfRefresh then
      hbmRelease (s.modChan ch (fun c => { c with state := serviceState s ch })) ch
    else s) s

/-- Whether every logic supply is held at 0.75 V: no start has released the cores yet (R388, R390). -/
def suppliesHeld (s : State) : Bool :=
  s.pkg.startWait.isSome || s.pkg.pwr == .cold || s.pkg.pwr == .standby || s.pkg.pwr == .off

/-- A stack's temperature is read, and its response starts, goes on or ends. -/
def readTemp (s : State) (stk temp : Nat) : State :=
  let k := s.stack stk
  let temp := satN 0xFF temp
  if k.thermal = 4 then s.modStack stk (fun k => { k with temp := temp, heat := thermalLevel k.heat temp })
  else
    let lv := thermalLevel k.thermal temp
    let s := s.modStack stk (fun k => { k with temp := temp, thermal := lv })
    let s := if lv = 3 ∧ k.thermal ≠ 3 then stackSleep s stk else if lv ≠ 3 ∧ k.thermal = 3 then stackWake s stk else s
    let cc := stk / 3
    let hot := [0, 1, 2].any (fun p => decide (2 ≤ (s.stack (3 * cc + p)).thermal) && (s.stack (3 * cc + p)).thermal != 4)
    if !sbWorks s || suppliesHeld s then s
    else
      forAll [2 * cc, 2 * cc + 1] (fun sp s => s.modSpire sp (fun p =>
        let cut := if !hot then 0 else if 2 ≤ lv ∧ 105 ≤ temp then min 200 (p.stackCut + 50) else p.stackCut
        SpirePwr.settle { p with stackCut := cut })) s

/-! ### Patrol scrub (R287) -/

/-- Whether Inspection runs: a Signal Box works, not a relief controller, and INSP_EN is 1 (R365). -/
def inspects (s : State) : Bool := sbWorks s && !s.stopping && s.sig.keeper == .watching && s.sig.inspEn

/-- One sector is read by patrol scrub, as part of Inspection. A granule that has moved is scrubbed at its new slot, and a
retired channel at its own. -/
def scrubSector (s : State) (ch sector err : Nat) : State :=
  let c := s.chan ch
  if !inspects s || !(c.serves || c.state == .retired) || decide (2 ^ 27 ≤ sector) ||
      (decide (sector / 64 < 2031616) && c.state != .retired && (granuleOf s ch (sector / 64)).isNone) then s
  else (sectorCheck s ch sector err).modChan ch (fun c => { c with scrubbed := c.scrubbed + 1 })

/-! ### The traffic generator (R290) -/

/-- A word of a run's pattern at byte address `a` in the channel. -/
def tgWord (t : TgSet) (a : Nat) : Word :=
  match t.pattern with
  | 0 => t.seed
  | 1 => BitVec.ofNat 64 a
  | 2 => t.seed ^^^ BitVec.ofNat 64 (a * 0x9E3779B97F4A7C15)
  | _ => BitVec.ofNat 64 (2 ^ (a / 8 % 64))

/-- Whether a reserve slot holds part of the context store: which slots do is not documented. -/
def ctxHolds (s : State) (ch slot : Nat) : Bool := s.sig.ctxStore == some (ch / 32) && Config.freeBool ch slot

/-- Whether a run may use a slot: a free reserve slot, or any slot of a retired channel. -/
def tgFree (s : State) (ch slot : Nat) : Bool :=
  let k := s.stack (ch / 32)
  (s.chan ch).state == .retired || (decide (2031616 ≤ slot) && k.retireState == 0 && !ctxHolds s ch slot)

/-- The settings that a write of TG_CTRL leaves: MODE 0b11 is undefined and leaves the field (R8). -/
def TgSet.withCtrl (t : TgSet) (v : Word) : TgSet :=
  { t with
    pattern := if fld v 23 20 ≤ 3 then fld v 23 20 else t.pattern
    mode := if fld v 19 18 ≤ 2 then fld v 19 18 else t.mode
    random := bit v 17
    raw := bit v 16
    passes := fld v 7 0 }

/-- A run starts, or is refused. -/
def tgBegin (s : State) (ch : Nat) (t : TgSet) (sb : Bool) : State :=
  let c := s.chan ch
  let refuse (r : Nat) : State := s.modChan ch (fun c => { c with tgDone := true, result := r, sbRun := sb })
  if c.run.isSome then s
  else if t.last < t.first || (List.range (t.last + 1 - t.first)).any (fun i => !tgFree s ch (t.first + i)) then refuse 2
  else if !(c.serves || c.state == .retired) then refuse 4
  else s.modChan ch (fun c => { c with
    run := some t
    sbRun := sb
    mismatch := 0
    failSym := 0
    failSect := 0 })

/-- A write of TG_CTRL: START before ABORT. -/
def tgCtrl (s : State) (ch : Nat) (v : Word) : State :=
  let s := s.modChan ch (fun c => { c with tg := c.tg.withCtrl v })
  if bit v 32 then tgBegin s ch (s.chan ch).tg false else s

/-- Words of a run's range. -/
def TgSet.words (t : TgSet) : Nat := (t.last + 1 - t.first) * 256

/-- Writes the pattern at the words that `f` picks. -/
def tgWrite (c : Chan) (t : TgSet) (f : Nat → Bool) : Chan :=
  iter t.words (fun i c =>
    let a := t.first * 2048 + 8 * i
    if f (i / 8) then { c with reserve := memPut c.reserve a (leBytes 8 (tgWord t a).toNat) } else c) c

/-- The words of the range that do not hold the pattern, as indices. -/
def tgBad (c : Chan) (t : TgSet) : List Nat :=
  (List.range t.words).filter (fun i =>
    let a := t.first * 2048 + 8 * i
    BitVec.ofNat 64 (leNat ((List.range 8).map (fun j => look 0 c.reserve (a + j)))) != tgWord t a)

/-- The first byte of a word that does not hold the pattern. -/
def badByte (c : Chan) (t : TgSet) (a : Nat) : Nat :=
  ((List.range 8).find? (fun j => look 0 c.reserve (a + j) != (leBytes 8 (tgWord t a).toNat).getD j 0)).getD 0

/-- A run ends: what it wrote stands, and what its checks found is reported. `mismatch` counts the words in which the
DRAM answered otherwise than it was written, first at `sector` and the symbol of `more`. Corrections of a check with RAW = 0
are logged (R284), and a run of Inspection that finds a mismatch makes the channel due to retire (R279). -/
def tgDone (s : State) (ch mismatch sector : Nat) (more : TgFound) : State :=
  let c := s.chan ch
  match c.run with
  | none => s
  | some t =>
    let passes := max 1 t.passes
    let c := if t.mode = 1 then c else tgWrite c t (fun _ => true)
    let bad := if t.mode = 1 then tgBad c t else []
    let found := if t.mode = 0 then 0 else satN 0xFFFFFFFF (bad.length * passes + mismatch)
    let at_ := match bad with
      | i :: _ => if t.random then (sector % 2 ^ 27, more.symbol % 32)
        else ((t.first * 2048 + 8 * i) / 32, 8 * i % 32 + badByte c t (t.first * 2048 + 8 * i))
      | [] => (sector % 2 ^ 27, more.symbol % 32)
    let fixes := if t.raw || t.mode == 0 then [] else more.corrected
    let c := fixes.foldl (fun c p => corrected c (p.1 % 2 ^ 27) (p.2 % 36)) c
    (logRecords s ch fixes.length).setChan ch { c with
      mustRetire := c.mustRetire || (c.sbRun && found != 0)
      run := none
      tgDone := true
      mismatch := found
      result := if found = 0 then 0 else 1
      failSect := if found = 0 then 0 else at_.1
      failSym := if found = 0 then 0 else at_.2 }

/-- A run is aborted: which of its lines it had written and what it had found is not given. -/
def tgAbort (s : State) (ch : Nat) : State :=
  match (s.chan ch).run with
  | none => s
  | some t =>
    let q := s.fresh
    q.2.modChan ch (fun c =>
      let c := if t.mode = 1 then c else tgWrite c t (fun l => Config.freeBool q.1 l)
      { c with
        run := none
        tgDone := true
        result := 3
        mismatch := if t.mode = 0 then 0 else fld (Config.freeWord q.1 0) 31 0 })

/-- The error log is cleared: VALID and COUNT of every entry. -/
def logClear (s : State) (ch : Nat) : State :=
  s.modChan ch (fun c => { c with log := tabMapD {} c.log (fun _ x => { x with valid := false, count := 0 }) })

/-! ### The rows -/

/-- HBM_READ. -/
def execHbmRead (ch : Fin 384) (line err : Nat) (s : State) : Out :=
  .next (hbmRequest s ch { write := false, line := line, err := err })

/-- HBM_WRITE. -/
def execHbmWrite (ch : Fin 384) (line first : Nat) (bytes : List Byte) (s : State) : Out :=
  .next (hbmRequest s ch { write := true, line := line, first := first, bytes := bytes })

/-- REFRESH: a refresh of one bank changes nothing that anything can observe (R270). -/
def execRefresh (_ : Fin 384) (s : State) : Out := .next s

/-- STACK_TEMP_READ. -/
def execStackTempRead (stk : Fin 12) (temp : Nat) (s : State) : Out := .next (readTemp s stk temp)

/-- CHANNEL_RETRAIN. -/
def execChannelRetrain (ch : Fin 384) (s : State) : Out := .next (retrainStart s ch)

/-- CHANNEL_RETRAIN_COMPLETE. -/
def execChannelRetrainComplete (ch : Fin 384) (ok : Bool) (lanes : Nat) (s : State) : Out :=
  .next (retrainDone s ch ok lanes)

/-- CHANNEL_RETIRE. -/
def execChannelRetire (ch : Fin 384) (s : State) : Out := .next (retireDue s ch)

/-- GRANULE_MOVE. -/
def execGranuleMove (stk : Fin 12) (bad : List (Fin 64 × Fin 38)) (s : State) : Out := .next (moveGranule s stk bad)

/-- PATROL_SCRUB. -/
def execPatrolScrub (ch : Fin 384) (sector err : Nat) (s : State) : Out := .next (scrubSector s ch sector err)

/-- TG_CTRL_START. -/
def execTgCtrlStart (ch : Fin 384) (v : Word) (s : State) : Out := .next (tgCtrl s ch (v ||| 0x100000000#64))

/-- TG_CTRL_ABORT. -/
def execTgCtrlAbort (ch : Fin 384) (s : State) : Out := .next (tgAbort s ch)

/-- TG_RUN_COMPLETE. -/
def execTgRunComplete (ch : Fin 384) (mismatch sector : Nat) (found : TgFound) (s : State) : Out :=
  .next (tgDone s ch mismatch sector found)

/-- HBM_CH_ERR_LOG_CLEAR. -/
def execHbmChErrLogClear (ch : Fin 384) (s : State) : Out := .next (logClear s ch)

end Sys2Proof.Machine
end

