-- ==== Sys2Proof/Machine/Unreach.lean ====
section
/-! DEFINITION. Refusals, unreachable destinations and their probes, and the answers that software gives to faults
(R163, R170, R265, R340, R342). -/

namespace Sys2Proof.Machine

/-- The remote cars of a descriptor that no acknowledgement will complete are given up, and the descriptor ends ABORTED
with CAUSE 0x0A. -/
def dropRemote (s : State) (st i : Nat) (lost : Nat → Bool) : State :=
  let s := modDesc s st i (fun d => { d with
    inflight := d.inflight.filter (fun j => !lost j), sent := d.sent.filter (fun p => !lost p.1) })
  let s := settleStream (abortDesc s st i 0x0A) st
  match streamEngine st with
  | some e => engResetDone s e
  | none => s

/-- A refusal frame arrives: what carried its operation identifier ends with CAUSE 0x0A (R342). -/
def refusalArrives (s : State) (f : Frame337) : State :=
  let p := s.path f.src
  let mine (u : Unacked) : Bool := u.frame.opTag == f.opTag
  let s := s.setPath f.src { p with
    unacked := p.unacked.filter (fun u => !mine u), guarded := p.guarded.filter (fun u => !mine u) }
  let s := match (p.unacked ++ p.guarded).find? (fun u => mine u && isWrite u.frame) with
    | none => s
    | some u =>
      match (s.stream u.frame.stream).slots.findIdx? (fun d => d.seq == u.seq) with
      | none => s
      | some i => dropRemote s u.frame.stream i (fun j => j == u.car)
  let s := match findRop s f.opTag with
    | some x => if (ropF x.entry).dst = f.src then ropFinish s f.opTag 3 0x0A else s
    | none => s
  releaseGuarded s f.src

/-- The accepted remote descriptors of a stream to a package end (R340). -/
def endRemoteDescs (s : State) (pkg st : Nat) : State :=
  iter (s.stream st).slots.length (fun k s =>
    let i := (s.stream st).slots.length - 1 - k
    match (s.stream st).slots[i]? with
    | some d =>
      let f := descF d.words
      if f.remote && f.dstPkg == pkg then dropRemote s st i (fun _ => true) else s
    | none => s) s

/-- Every outstanding operation to a package ends as R340 says. -/
def endOperations (s : State) (pkg : Nat) : State :=
  let s := s.modPath pkg (fun p => { p with unacked := [], guarded := [] })
  let s := forAll (s.streams.map Prod.fst) (fun st s => endRemoteDescs s pkg st) s
  let s := forAll (s.remOps.filter (fun x => (ropF x.entry).dst == pkg)) (fun x s => ropFinish s x.tag 3 0x0A) s
  forAll s.colls (fun c s =>
    match c.members.zipIdx.find? (fun m => m.1 == pkg && m.2 != c.rank) with
    | some m => collFinish s c 3 0x0A m.2
    | none => s) s

/-- A frame sent again 12 times without acknowledgement makes its destination unreachable (R340). -/
def unreachable (s : State) (pkg : Nat) : State :=
  if (s.path pkg).unreachable || !(s.path pkg).unacked.any (fun u => decide (12 ≤ u.tries)) then s
  else
    let s := { s with sig := { s.sig with
      unreachLast := pkg, unreachCount := satN 0xFFFFFFFF (s.sig.unreachCount + 1) } }
    endOperations (s.modPath pkg (fun p => { p with unreachable := true })) pkg

/-- A probe to a package, asking for a fresh start of the numbering where it is unreachable (R340, R359). -/
def sendProbe (s : State) (pkg : Nat) : State :=
  sendPlain s { type := 0x20, src := s.pkgId, dst := pkg, payload := leBytes 1 (b2n (s.path pkg).unreachable) }

/-- A probe response: the ports that the peer reports up, the destination reachable again with its PSNs restarted, and a
tandem partner that answers keeps the pair ACTIVE over Mainline (R338, R340, R359). -/
def probeResponse (s : State) (f : Frame337) : State :=
  let s := s.modPath f.src (fun p =>
    let p := { p with peerPorts := (f.payload.getD 0 0).toNat }
    if p.unreachable then { p with unreachable := false, rxAck := 0, rxSeen := [], txPsn := 0 } else p)
  if s.td.state = 4 ∧ s.td.probes ≠ 0 ∧ f.src = s.td.partner then
    { s with td := { s.td with viaMl := true, probes := 0 } }
  else s

/-- An answer to the fault `id` of a Siding (R265). -/
def answer (s : State) (k id : Nat) (retry : Bool) : State :=
  sdAnswer s k id (fun s key =>
    advanceExpects (answerCr (answerRo (answerLocal s key retry) key retry) key retry))

/-! ### The rows -/

/-- ML_REFUSAL. -/
def execMlRefusal (p : Fin 8) (f : Frame337) (chk : FrameCheck) (s : State) : Out :=
  .next (numbered s p { f with type := 0x08 } chk (fun s => some (refusalArrives s f)))

/-- ML_PROBE_RESPONSE. -/
def execMlProbeResponse (p : Fin 8) (f : Frame337) (chk : FrameCheck) (s : State) : Out :=
  .next (unnumbered s p { f with type := 0x21 } chk (fun s => probeResponse s f))

/-- DESTINATION_UNREACHABLE. -/
def execDestinationUnreachable (pkg : Nat) (s : State) : Out := .next (unreachable s pkg)

/-- UNREACHABLE_PROBE_TIMER. -/
def execUnreachableProbeTimer (pkg : Nat) (s : State) : Out :=
  .next (if (s.path pkg).unreachable then sendProbe s pkg else s)

/-- SD_ANSWER_RETRY. -/
def execSdAnswerRetry (cc d : Fin 4) (id : BitVec 32) (s : State) : Out := .next (answer s (4 * cc + d) id.toNat true)

/-- SD_ANSWER_ERROR. -/
def execSdAnswerError (cc d : Fin 4) (id : BitVec 32) (s : State) : Out := .next (answer s (4 * cc + d) id.toNat false)

end Sys2Proof.Machine
end

