-- ==== Sys2Proof/Machine/Tandem.lean ====
section
/-! DEFINITION. The tandem pair: pairing, epochs, mirrored writes and checkpoints, loss of contact, claims and failover
(R352–R360, R415, R416). The frames of the Tandem port are not documented; their content here is a convention of the model
(assumption log). -/

namespace Sys2Proof.Machine

/-- Changes the tandem state. -/
def modTd (s : State) (f : Tandem → Tandem) : State := { s with td := f s.td }

/-- Hands a frame to the link (R416). -/
def tdSendFrame (s : State) (f : TdFrame) : State :=
  if !s.td.keyed then s
  else modTd s (fun t => { t with out := f :: t.out, txFrames := t.txFrames + 1, rekey := t.rekey || decide (2 ^ 32 ≤ t.txFrames + 1) })

/-! ### Checkpoints as words -/

/-- `n` words of a value, low word first. -/
def splitWords (n v : Nat) : List Word := (List.range n).map (fun i => BitVec.ofNat 64 (v / 2 ^ (64 * i)))

/-- The value of words, low word first. -/
def joinWords (l : List Word) : Nat := l.foldr (fun w v => w.toNat + 2 ^ 64 * v) 0

/-- The words of a checkpoint. -/
def ckptWords (c : Ckpt) : List Word :=
  (List.range 32).map (look 0 c.s) ++
  (List.range 8).flatMap (fun i => splitWords 4 (look 0 c.p i).toNat) ++
  (List.range 32).flatMap (fun i => splitWords 32 (look 0 c.v i).toNat) ++
  (List.range 32).flatMap (fun i => splitWords 4 (look 0 c.vp i).toNat) ++
  (List.range 64).map (fun i => (look 0 c.tc i).setWidth 64) ++
  [c.fp.setWidth 64] ++ splitWords 2 c.sr.toNat ++
  [BitVec.ofNat 64 c.dsn, BitVec.ofNat 64 c.pc, BitVec.ofNat 64 c.tag]

/-- A table of `n` registers of `k` words each, from word `at_` on. -/
def regsAt (w : Nat) (l : List Word) (at_ k n : Nat) : Tab (BitVec w) :=
  (List.range n).foldl (fun t i => put 0 t i (BitVec.ofNat w (joinWords ((l.drop (at_ + k * i)).take k)))) []

/-- The checkpoint that words hold. -/
def ckptOfWords (engine epoch : Nat) (l : List Word) : Ckpt :=
  { engine := engine, epoch := epoch, s := regsAt 64 l 0 1 32, p := regsAt 256 l 32 4 8, v := regsAt 2048 l 64 32 32,
    vp := regsAt 256 l 1088 4 32, tc := regsAt 32 l 1216 1 64, fp := (l.getD 1280 0).setWidth 5,
    sr := BitVec.ofNat 128 (joinWords ((l.drop 1281).take 2)), dsn := (l.getD 1283 0).toNat, pc := (l.getD 1284 0).toNat,
    tag := (l.getD 1285 0).toNat }

/-- Streams to the partner what has been logged and not yet sent (R355). -/
def tdStream (s : State) : State :=
  if !tdLogs s then s
  else
    let s := forAll (s.td.log.filter (fun w => decide (s.td.sentSeq ≤ w.seq)))
      (fun w s => tdSendFrame s (.write w.tag w.addr w.bytes w.poison)) s
    let s := forAll (s.td.ckptsOut.filter (fun c => !nHas c.engine s.td.ckptSent))
      (fun c s => modTd (tdSendFrame s (.checkpoint c.engine c.epoch (ckptWords c))) (fun t =>
        { t with ckptSent := nIns c.engine t.ckptSent })) s
    modTd s (fun t => { t with sentSeq := t.logSeq })

/-! ### Pairing (R353, R415) -/

/-- What is held for epochs in progress is dropped. -/
def Tandem.dropWork (t : Tandem) : Tandem :=
  { t with epochAhead := [], log := [], logSeq := 0, sentSeq := 0, lastTag := [], ckptsOut := [], ckptSent := [], ckptAcked := [],
           rx := [], rxLast := [], rxBad := [], rxWrites := 0, rxCkpts := [], probes := 0 }

/-- Step 1 of R353, from a state in which no pair runs: the lanes train. Without feature TANDEM nothing starts. -/
def tdPair (s : State) : State :=
  if !s.feat 6 then s
  else if [0, 5, 6, 7, 8, 0xC].contains s.td.state then
    modTd s (fun t => { t.dropWork with
      state := if t.lanesUp = 0 then 1 else 2, keyed := false, rekey := false, viaMl := false, leaveSent := false })
  else s

/-- Steps 2–5 of R353: authentication, and the checks of the partner's ID, feature level and mirror area. The copy
begins. -/
def tdAuthenticated (s : State) (a : TdAuth) : State :=
  if s.td.state ≠ 2 then s
  else modTd s (fun t =>
    if !a.ok then { t with state := 5 }
    else
      let t := { t with pFeature := a.feature, keyed := true, tagFails := 0, txFrames := 0, rxFrames := 0 }
      if a.partner ≠ t.partner then { t with state := 7, keyed := false }
      else if a.feature ≠ s.pkg.feature then { t with state := 6, keyed := false }
      else if !a.space then { t with state := 8, keyed := false }
      else { t.dropWork with state := 3, mirrorIsMemory := false, pEpoch := 0, ckpts := [] })

/-- The witnesses that TD_WITNESS names. -/
def witnesses (s : State) : List Nat :=
  (List.range (fld s.td.witness 49 48)).map (fun w => fld s.td.witness (16 * w + 15) (16 * w))

/-- Claim traffic to one package: its payload names the partner. -/
def sendClaim (s : State) (type pkg : Nat) : State :=
  sendFrame s { frame := { type := type, src := s.pkgId, dst := pkg, payload := leBytes 2 s.td.partner } }

/-- Step 6 of R353. A former winner releases its witnesses. -/
def mirrorCopied (s : State) : State :=
  if s.td.state ≠ 3 then s
  else
    let s := forAll (if s.td.grants.isEmpty then [] else witnesses s) (fun w s => sendClaim s 0x24 w) s
    modTd s (fun t => { t with state := 4, grants := [] })

/-! ### Epochs (R355–R357) -/

/-- Whether an engine lets epoch OPEN close. -/
def engineMovedOn (s : State) (e : Nat) : Bool :=
  !tdPart s e || nHas e s.td.epochAhead || (s.eng e).state == .idle || (s.eng e).state == .parked

/-- The conditions of R356. -/
def epochMayClose (s : State) : Bool :=
  s.td.state == 4 && !s.holding && (List.range 256).all (engineMovedOn s) && (!s.td.hostPart || s.td.hostStation) &&
  s.td.log.all (fun w => w.tag != s.td.opened) &&
  s.td.ckptsOut.all (fun c => c.epoch != s.td.opened || nHas c.engine s.td.ckptAcked)

/-- STATION counters advance (R86). -/
def stationCounters (s : State) : State :=
  let l := s.td.stationCtr
  forAll l (fun c s => tcAdd s c.1 c.2.1 1) (modTd s (fun t => { t with stationCtr := [] }))

/-- The open epoch closes. -/
def closeEpoch (s : State) : State :=
  let n := s.td.opened
  let s := tdSendFrame s (.closed n)
  let s := modTd s (fun t => { t with
    closed := n, opened := (n + 1) % 2 ^ 32, hostStation := false, epochAhead := [],
    log := t.log.filter (fun w => w.tag != n), ckptsOut := [], ckptSent := [], ckptAcked := [] })
  stationCounters s

/-- Whether the partner's epoch `n` is later than its last closed one. -/
def Tandem.unclosed (t : Tandem) (n : Nat) : Bool :=
  let d := (n + 2 ^ 32 - t.pEpoch) % 2 ^ 32
  d != 0 && decide (d < 2 ^ 31)

/-- Writes bytes to the partner's image, in the mirror area. -/
def imageWrite (s : State) (off : Nat) (bytes : List Byte) (poison : Bool) : State :=
  let a := fld s.td.mirror 63 28 * 65536 + off
  if fld s.td.mirror 27 0 * 65536 < off + bytes.length then s
  else { s with
    mem := memPut s.mem a bytes
    poison := if poison then forAll (linesOf a bytes.length) nIns s.poison
      else if bytes.length = 64 ∧ a % 64 = 0 then nDel (a / 64) s.poison else s.poison }

/-- Applies one of the partner's writes. A line left unspecified by an inversion takes free values until a later write
than both (R357). -/
def applyImage (s : State) (w : TdWrite) : State :=
  let l := w.addr / 64
  if look 0 s.td.rxBad l ≤ w.tag then
    imageWrite (modTd s (fun t => { t with rxBad := tabDel l t.rxBad })) w.addr w.bytes w.poison
  else
    let n := s.fresh
    imageWrite n.2 (l * 64) ((List.range 64).map (Config.freeByte n.1)) false

/-- A logged write of the partner arrives: those of an epoch already closed belong to the copy of the regions. -/
def tdWriteArrives (s : State) (tag off : Nat) (bytes : List Byte) (poison : Bool) : State :=
  let s := modTd s (fun t => { t with rxWrites := t.rxWrites + 1 })
  let w : TdWrite := { tag := tag, addr := off, bytes := bytes, poison := poison, seq := s.td.rxWrites }
  let s :=
    if !s.td.unclosed tag then imageWrite s off bytes poison
    else modTd s (fun t =>
      let l := off / 64
      let last := look 0 t.rxLast l
      { t with rx := t.rx ++ [w], rxLast := tabIns l (tag + 1) t.rxLast
               rxBad := if tag + 1 < last then tabIns l (max last (look 0 t.rxBad l)) t.rxBad else t.rxBad })
  tdSendFrame s (.ackWrites s.td.rxWrites)

/-- The partner has closed an epoch: its writes are applied together and its checkpoints become current (R235, R356). -/
def tdClosedArrives (s : State) (n : Nat) : State :=
  if !s.td.unclosed n then s
  else
    let before (k : Nat) : Bool := decide ((n + 2 ^ 32 - k) % 2 ^ 32 < 2 ^ 31)
    let now := s.td.rx.filter (fun w => before w.tag)
    let cs := s.td.rxCkpts.filter (fun c => before c.epoch)
    let s := forAll now (fun w s => applyImage s w) s
    modTd s (fun t => { t with
      pEpoch := n
      rx := t.rx.filter (fun w => !before w.tag)
      rxCkpts := t.rxCkpts.filter (fun c => !before c.epoch)
      ckpts := t.ckpts.filter (fun c => !cs.any (fun d => d.engine == c.engine)) ++ cs })

/-- What a frame of the partner carries takes effect (R355, R356, R375). -/
def tdAct (s : State) : TdFrame → State
  | .write tag off bytes poison => tdWriteArrives s (tag % 2 ^ 32) off bytes poison
  | .checkpoint e n ws =>
    tdSendFrame (modTd s (fun t => { t with
      rxCkpts := t.rxCkpts.filter (fun c => !(c.engine == e % 256 && c.epoch == n % 2 ^ 32)) ++ [ckptOfWords (e % 256) (n % 2 ^ 32) ws] }))
      (.ackCheckpoint (e % 256))
  | .ackWrites n => modTd s (fun t => { t with log := t.log.filter (fun w => decide (n ≤ w.seq)) })
  | .ackCheckpoint e => modTd s (fun t => { t with ckptAcked := nIns e t.ckptAcked })
  | .closed n => tdClosedArrives s (n % 2 ^ 32)
  | .hold bs => if s.td.notifyEn then sendNotice s (epDoorbell 0) 0 s.td.endpoint (bs.take 64 ++ leBytes (64 - bs.length) 0) else s
  | .alive => s

/-- A frame arrives over the port, or over Mainline while the port is silent. One whose tag fails is discarded; after 16
in a row, or 2^32 frames, the packages authenticate again (R416). -/
def tdFrameArrives (s : State) (f : TdFrame) (tagOk : Bool) : State :=
  if !s.td.keyed || (s.td.lanesUp == 0 && !s.td.viaMl) || !(s.td.state == 3 || s.td.state == 4) then s
  else if !tagOk then modTd s (fun t => { t with tagFails := t.tagFails + 1, rekey := t.rekey || decide (16 ≤ t.tagFails + 1) })
  else tdAct (modTd s (fun t => { t with
    tagFails := 0, probes := 0, rxFrames := t.rxFrames + 1, rekey := t.rekey || decide (2 ^ 32 ≤ t.rxFrames + 1) })) f

/-- Authentication is repeated while logging continues (R416). -/
def tdRekeyed (s : State) (a : TdAuth) : State :=
  if !s.td.rekey || !(s.td.state == 3 || s.td.state == 4) then s
  else modTd s (fun t =>
    if a.ok then { t with rekey := false, tagFails := 0, txFrames := 0, rxFrames := 0 }
    else { t with rekey := false, state := 5, keyed := false })

/-! ### Leaving (R358) -/

/-- The package goes on alone: nothing is logged, and counters that waited for a closure advance. -/
def tdAlone (s : State) (state : Nat) : State :=
  stationCounters (modTd s (fun t => { t.dropWork with state := state, keyed := false, viaMl := false, hostStation := false }))

/-- Leaves an active pair: everything held for the partner is acknowledged, the open epoch closes, and the leave notice
goes out. -/
def tdLeave (s : State) : State :=
  if s.td.state ≠ 4 then s
  else
    let s := tdStream s
    let s := tdSendFrame s (.ackWrites s.td.rxWrites)
    let s := closeEpoch s
    modTd (tdAlone s 0) (fun t => { t with leaveSent := true })

/-- ENABLE is written 0. Under a keeper hold an active pair leaves at the release. -/
def tdDisable (s : State) : State :=
  let s := modTd s (fun t => { t with enable := false })
  if s.td.state = 4 then (if s.holding then s else tdLeave s)
  else stationCounters (modTd s (fun t => { t.dropWork with
    state := 0, keyed := false, viaMl := false, grants := [], restoring := none, resume := false, hostStation := false }))

/-- The leave notice of the partner. -/
def tdLeft (s : State) : State := if s.td.state = 4 ∨ s.td.state = 3 then tdAlone s 0x0C else s

/-! ### Loss of contact, claims and failover (R359, R360) -/

/-- The failover notice of 64 bytes. -/
def tdNotice (s : State) (code restored discarded : Nat) : State :=
  if !s.td.notifyEn then s
  else sendNotice s epSb 0 s.td.endpoint (leBytes 2 s.td.partner ++ leBytes 1 code ++ leBytes 1 0 ++ leBytes 4 s.td.pEpoch ++
    leBytes 2 restored ++ leBytes 2 0 ++ leBytes 4 discarded ++ leBytes 48 0)

/-- The package becomes ISOLATED. -/
def isolate (s : State) : State :=
  let s := forAll ((List.range 256).filter (tdPart s)) (fun e s => settle (engPark s e) e) s
  tdNotice (modTd s (fun t => { t.dropWork with state := 0x0A, keyed := false })) 1 0 0

/-- A claim for the pair goes to every witness. -/
def claim (s : State) : State :=
  forAll (witnesses s) (fun w s => sendClaim s 0x22 w) (modTd s (fun t => { t with state := 9, probes := 0, grants := [] }))

/-- An entry of the takeover table: the local engine, ASN, owner endpoint and NOTIFY_EN. -/
def takeoverEntry (s : State) (i : Nat) : Nat × Nat × Nat × Bool :=
  let pa := s.td.takeover / 4096 * 4096 + 16 * i
  if region s pa ≠ .unified ∨ memPoisoned s pa 16 then (0xFFFF, 0, 0, false)
  else
    let bs := memRead s pa 16
    (u16At bs 0, u32At bs 4 % 2 ^ 20, u32At bs 8, (bs.getD 12 0).getLsbD 0)

/-- The entry of the takeover table has been read at its home. -/
def takeoverRead (s : State) (i : Nat) : State :=
  let pa := s.td.takeover / 4096 * 4096 + 16 * i
  if region s pa ≠ .unified then s else memTouch s pa 16

/-- Loads the checkpoint of the partner's engine `i` into local engine `e`, which stays PARKED. -/
def loadCkpt (s : State) (i e : Nat) : State :=
  match s.td.ckpts.find? (fun c => c.engine == i) with
  | none => s
  | some c =>
    let x := takeoverEntry s i
    let s := (takeoverRead s i).modEng e (fun g => { g with
      s := c.s, p := c.p, v := c.v, vp := c.vp, tc := c.tc, fp := c.fp, sr := c.sr, dsn := c.dsn, pc := c.pc,
      asn := x.2.1, ownerEp := x.2.2.1, notifyEn := x.2.2.2, state := .parked, cause := .software, exc := none, multi := false })
    modTd s (fun t => { t with restored := t.restored ++ [e] })

/-- Steps 3–5 of R360, as far as the takeover engines have been reset. -/
def failoverGo (s : State) : State :=
  match s.td.restoring with
  | none => s
  | some l =>
    let ready := l.filter (fun p => (s.eng p.2).state == .idle)
    let s := forAll ready (fun p s => loadCkpt s p.1 p.2) s
    let left := l.filter (fun p => !ready.contains p)
    if !left.isEmpty then modTd s (fun t => { t with restoring := some left })
    else
      let s := modTd s (fun t => { t with restoring := none, mirrorIsMemory := true, state := 0x0B })
      tdNotice s 0 s.td.restored.length s.td.discarded

/-- The package has won the claim: steps 1–3 of R360 begin. -/
def failover (s : State) : State :=
  let n := s.td.rx.length
  let g := s.td.grants
  let s := modTd s (fun t => { t.dropWork with
    grants := g, discarded := satN 0xFFFFFFFF n, keyed := false, restored := [], deadAfterGrant := false, resume := false })
  let l := (List.range 256).filterMap (fun i =>
    let x := takeoverEntry s i
    if x.1 < 256 then some (i, x.1) else none)
  let s := forAll l (fun p s => if (s.eng p.2).state == .idle then s else engReset s p.2) s
  failoverGo (modTd s (fun t => { t with restoring := some l }))

/-- Step 6 of R360. -/
def tdResume (s : State) : State :=
  if s.td.state ≠ 0x0B ∨ !s.td.resume ∨ !s.td.deadAfterGrant then s
  else
    let s := forAll s.td.restored (fun e s => settle (resumeEngine s e 0) e) s
    tdAlone (modTd s (fun t => { t with resume := false })) 0x0C

/-- Nothing has been heard for DEAD: in an active pair the probing starts, and after a failover RESUME may act. -/
def tdSilent (s : State) : State :=
  if s.td.state = 4 ∧ s.td.probes = 0 then sendProbe (modTd s (fun t => { t with probes := 1 })) s.td.partner
  else if s.td.state = 0x0B then tdResume (modTd s (fun t => { t with deadAfterGrant := true }))
  else s

/-- Ten milliseconds later: the next probe, or after the third the claim, or SUSPENDED where there are no witnesses. -/
def tdProbe (s : State) : State :=
  if s.td.state ≠ 4 ∨ s.td.probes = 0 then s
  else if s.td.probes < 3 then sendProbe (modTd s (fun t => { t with probes := t.probes + 1 })) s.td.partner
  else if fld s.td.witness 49 48 = 0 then modTd s (fun t => { t with state := 0x0D, probes := 0, log := [] })
  else claim s

/-- A claim arrives at this package as a witness: the first for a pair is granted (R359). -/
def claimArrives (s : State) (f : Frame337) : State :=
  let other := u16At f.payload 0
  let pair := min f.src other * 65536 + max f.src other
  let won := look 0 s.td.granted pair
  let ok := won == 0 || won == f.src + 1
  let s := if ok then modTd s (fun t => { t with granted := tabIns pair (f.src + 1) t.granted }) else s
  sendFrame s { frame := { type := 0x23, src := s.pkgId, dst := f.src, opTag := f.opTag, payload := leBytes 1 (b2n ok) } }

/-- A claim response: a majority of grants starts the failover, a refusal isolates the package (R359). -/
def claimAnswered (s : State) (f : Frame337) : State :=
  if s.td.state ≠ 9 ∨ s.td.restoring.isSome ∨ !(witnesses s).contains f.src then s
  else if f.payload.getD 0 0 ≠ 1 then isolate s
  else
    let s := modTd s (fun t => { t with grants := nIns f.src t.grants })
    if fld s.td.witness 49 48 / 2 + 1 ≤ s.td.grants.length then failover s else s

/-- A winner frees its grant. -/
def releaseArrives (s : State) (f : Frame337) : State :=
  let other := u16At f.payload 0
  let pair := min f.src other * 65536 + max f.src other
  if look 0 s.td.granted pair = f.src + 1 then modTd s (fun t => { t with granted := tabDel pair t.granted }) else s

/-! ### Registers -/

/-- A write of TD_CTRL. -/
def tdCtrl (s : State) (v : Word) : State :=
  let s := modTd s (fun t => { t with
    partner := fld v 63 48, dead := fld v 47 40, hostPart := bit v 36, notifyEn := bit v 35, endpoint := fld v 31 0
    hostStation := t.hostStation || bit v 37 })
  let s := if !bit v 32 then (if s.td.enable || s.td.state != 0 then tdDisable s else s)
    else tdPair (modTd s (fun t => { t with enable := true }))
  let s := if bit v 38 && s.td.state == 0x0D then claim s else s
  if bit v 39 && s.td.state == 0x0B then tdResume (modTd s (fun t => { t with resume := true })) else s

/-- TD_CTRL as it reads. -/
def tdCtrlWord (s : State) : Word :=
  let t := s.td
  pack [(48, 16, t.partner), (40, 8, t.dead), (39, 1, b2n t.resume), (37, 1, b2n t.hostStation), (36, 1, b2n t.hostPart),
    (35, 1, b2n t.notifyEn), (32, 1, b2n t.enable), (0, 32, t.endpoint)]

/-- TD_STATUS. -/
def tdStatusWord (s : State) : Word :=
  let t := s.td
  pack [(32, 32, t.discarded), (16, 16, t.inversions), (9, 1, b2n t.viaMl), (8, 1, b2n (t.lanesUp == 1 || t.lanesUp == 2)), (0, 8, t.state)]

/-- TD_CTRL as it stands, with no request bit. -/
def tdCtrlQuiet (s : State) : Word :=
  let t := s.td
  pack [(48, 16, t.partner), (40, 8, t.dead), (36, 1, b2n t.hostPart), (35, 1, b2n t.notifyEn), (32, 1, b2n t.enable),
    (0, 32, t.endpoint)]

/-- Half of the lanes is up or down (R352). -/
def tdLanes (s : State) (half : Nat) (up : Bool) : State :=
  if up && termFailed s half then s
  else modTd s (fun t =>
    let t := { t with lanesUp := if up then t.lanesUp ||| 2 ^ half else t.lanesUp &&& (3 - 2 ^ half) }
    if up && t.state == 1 then { t with state := 2 } else t)

/-! ### The rows -/

/-- TD_CTRL_ENABLE: a write of TD_CTRL with ENABLE 1. -/
def execTdCtrlEnable (v : Word) (s : State) : Out := .next (tdCtrl s (v ||| 0x1_0000_0000))

/-- TD_CTRL_DISABLE. -/
def execTdCtrlDisable (s : State) : Out := .next (tdCtrl s (tdCtrlQuiet s &&& ~~~(0x1_0000_0000 : Word)))

/-- TD_CTRL_HOST_STATION. -/
def execTdCtrlHostStation (s : State) : Out := .next (tdCtrl s (tdCtrlQuiet s ||| 0x20_0000_0000))

/-- TD_CTRL_FORCE. -/
def execTdCtrlForce (s : State) : Out := .next (tdCtrl s (tdCtrlQuiet s ||| 0x40_0000_0000))

/-- TD_CTRL_RESUME. -/
def execTdCtrlResume (s : State) : Out := .next (tdCtrl s (tdCtrlQuiet s ||| 0x80_0000_0000))

/-- TANDEM_AUTHENTICATE. -/
def execTandemAuthenticate (a : TdAuth) (s : State) : Out := .next (tdAuthenticated s a)

/-- MIRROR_COPY_COMPLETE. -/
def execMirrorCopyComplete (s : State) : Out := .next (mirrorCopied s)

/-- TANDEM_FRAME. -/
def execTandemFrame (f : TdFrame) (tagOk : Bool) (s : State) : Out := .next (tdFrameArrives s f tagOk)

/-- EPOCH_CLOSE. -/
def execEpochClose (s : State) : Out := .next (if epochMayClose s then closeEpoch s else s)

/-- TANDEM_LEAVE_NOTICE. -/
def execTandemLeaveNotice (s : State) : Out := .next (tdLeft s)

/-- TANDEM_DEAD_TIMEOUT. -/
def execTandemDeadTimeout (s : State) : Out := .next (tdSilent s)

/-- TANDEM_PROBE_TIMER. -/
def execTandemProbeTimer (s : State) : Out := .next (tdProbe s)

/-- TANDEM_CLAIM_TIMEOUT. -/
def execTandemClaimTimeout (s : State) : Out :=
  .next (if s.td.state = 9 ∧ s.td.restoring.isNone then isolate s else s)

/-- TANDEM_REKEY. -/
def execTandemRekey (a : TdAuth) (s : State) : Out := .next (tdRekeyed s a)

/-- TANDEM_LANES_DOWN. -/
def execTandemLanesDown (half : Fin 2) (s : State) : Out := .next (tdLanes s half false)

/-- TANDEM_LANES_UP. -/
def execTandemLanesUp (half : Fin 2) (s : State) : Out := .next (tdLanes s half true)

/-- ML_CLAIM. -/
def execMlClaim (p : Fin 8) (f : Frame337) (chk : FrameCheck) (s : State) : Out :=
  .next (numbered s p { f with type := 0x22 } chk (fun s => some (claimArrives s f)))

/-- ML_CLAIM_RESPONSE. -/
def execMlClaimResponse (p : Fin 8) (f : Frame337) (chk : FrameCheck) (s : State) : Out :=
  .next (numbered s p { f with type := 0x23 } chk (fun s => some (claimAnswered s f)))

/-- ML_RELEASE. -/
def execMlRelease (p : Fin 8) (f : Frame337) (chk : FrameCheck) (s : State) : Out :=
  .next (numbered s p { f with type := 0x24 } chk (fun s => some (releaseArrives s f)))

end Sys2Proof.Machine
end

