-- ==== Sys2Proof/Machine/RegRead.lean ====
section
/-! DEFINITION. What every register reads (R3, R5–R9, and the register tables of each chapter), and a read of the MMIO
range and the Ticket window. -/

namespace Sys2Proof.Machine

/-! ### Identity (R31) -/

/-- DIE_TYPE of a site. -/
def dieType (site : Nat) : Nat :=
  if site < 4 then 1 else if site < 0x10 then 2 else if site < 0x1C then 3 else if site < 0x22 then 4 else 5

/-- ORIENT of a site (R17, R18). -/
def dieOrient (site : Nat) : Nat := if site < 4 then site else if site < 0x10 then 2 * (site % 2) else 0

/-- The identity block. -/
def identRead (s : State) (site off : Nat) : Word :=
  let i := s.ident site
  match off with
  | 0x00 => pack [(48, 16, 0x0A71), (40, 8, dieType site), (32, 8, site), (30, 2, dieOrient site), (0, 24, i.serial)]
  | 0x08 => BitVec.ofNat 64 (i.stepping % 2 ^ 16)
  | 0x10 => BitVec.ofNat 64 (dieFeature s site)
  | 0x18 => i.certPtr
  | 0x20 => BitVec.ofNat 64 i.seq
  | _ => 0

/-! ### Links (R27, R324) -/

def LinkState.code : LinkState → Nat
  | .down => 0 | .training => 1 | .active => 2 | .held => 3 | .safeMode => 4 | .retired => 5

/-- VD_STATUS of a bundle (chapter 01). -/
def vdStatus (s : State) (cc b : Nat) : Word :=
  let l := s.link (bundleKey cc b)
  pack [(48, 16, l.replays), (32, 16, l.crcErrs), (27, 5, l.rx.s1), (22, 5, l.rx.s0), (17, 5, l.tx.s1), (12, 5, l.tx.s0),
    (8, 2, l.xchgFails), (6, 2, l.width), (5, 1, b2n l.halfRate), (4, 1, b2n (ownsBundle cc b)), (0, 4, l.state.code)]

/-- HL_STATUS (R324). -/
def hlStatus (s : State) (cc : Nat) : Word :=
  let l := s.hlink cc
  pack [(48, 16, l.retries), (40, 8, l.modules), (32, 8, l.half), (12, 4, l.lost), (8, 2, l.xchgFails), (0, 4, l.state)]

/-! ### Rings (R171, R201, R343, R348) -/

/-- The registers common to every ring: BASE and LOG2_N, CTRL, STATUS and SEQ. -/
def ringRead (r : Ring) (used state off : Nat) : Word :=
  match off with
  | 0x00 => pack [(12, 52, r.base / 4096), (0, 4, r.log2n)]
  | 0x08 => pack [(33, 1, b2n r.resetting), (32, 1, b2n r.enable), (0, 20, r.asn)]
  | 0x18 => pack [(32, 32, r.consumer), (24, 8, r.refused), (8, 8, used), (7, 1, b2n r.dbErr), (0, 4, state)]
  | 0x20 => BitVec.ofNat 64 r.seqEnded
  | _ => 0

/-- STATE of a ring: resetting, keeper hold, paused, running, idle or disabled. -/
def ringState (s : State) (r : Ring) (used : Nat) (paused : Bool) : Nat :=
  if r.resetting then 4 else if s.holding then 5 else if paused then 3 else if used ≠ 0 then 2 else if r.enable then 1 else 0

/-- Whether a descriptor is paused or pausing. -/
def Desc.isPaused (d : Desc) : Bool :=
  match d.phase with
  | .paused _ | .pausing _ => true
  | _ => false

/-- A read of a bulk shunter's registers. -/
def bsRead (s : State) (cc i off : Nat) : Word :=
  let t := s.stream (bulkStream cc i)
  let n := t.slots.length
  if off = 0x20 then BitVec.ofNat 64 t.endedSeq
  else ringRead t.ring n (ringState s t.ring n (t.slots.any Desc.isPaused)) off

/-- A read of a launch ring's registers. -/
def clRead (s : State) (cc r off : Nat) : Word :=
  let k := 4 * cc + r
  let l := s.launches.filter (fun p => p.2.engine.isNone && p.2.ring == k)
  ringRead (s.clRing k) l.length (ringState s (s.clRing k) l.length (l.any (fun p => p.2.paused.isSome))) off

/-- A read of a remote-operation ring's registers. -/
def roRead (s : State) (tm r off : Nat) : Word :=
  let k := 8 * tm + r
  let l := ringRops s k
  ringRead (s.roRing k) l.length (ringState s (s.roRing k) l.length (l.any (fun x => x.fault.isSome || x.recFault.isSome))) off

/-- A read of a collective ring's registers. -/
def crRead (s : State) (tm r off : Nat) : Word :=
  let k := 4 * tm + r
  let l := ringColls s k
  ringRead (s.crRing k) l.length (ringState s (s.crRing k) l.length (l.any (fun x => x.fault.isSome || x.recFault.isSome))) off

/-! ### Units -/

/-- A read of unit counter registers (R426). -/
def ucRead (s : State) (k off : Nat) : Word :=
  let u := s.uc k
  let n := if k < 16 then 8 else 4
  if off < 8 * n then look 0 u.cnt (off / 8)
  else if 0x40 ≤ off ∧ off < 0x40 + 8 * n then look 0 u.sel ((off - 0x40) / 8)
  else if off = 0x80 then u.ovf
  else if off = 0x88 then u.notify
  else 0

def ChanState.code : ChanState → Nat
  | .down => 0 | .training => 1 | .active => 2 | .retraining => 3 | .selfRefresh => 4 | .retired => 5 | .failing => 6

/-- HBM_STK (R289). -/
def stkRead (s : State) (stk : Nat) : Word :=
  let k := s.stack stk
  let st := if k.failingCh ≠ 0xFF then 3 else k.retireState
  pack [(56, 8, k.temp), (52, 4, k.thermal), (40, 8, k.retiredCh), (32, 8, k.failingCh), (30, 2, st), (0, 21, k.moveNext)]

/-- HBM_CH_ERR (R289). -/
def chErr (c : Chan) : Word := pack [(48, 16, c.ce), (32, 16, c.ue), (24, 8, c.replaced)]

/-- A read of a channel's registers (R289, R290). -/
def chanRead (s : State) (ch off : Nat) : Word :=
  let c := s.chan ch
  match off with
  | 0x000 => pack [(48, 16, c.retrains), (40, 8, c.lanes), (32, 8, c.wcb.length), (23, 9, c.queue.length), (0, 4, c.state.code)]
  | 0x008 => chErr c
  | 0x100 => pack [(20, 4, c.tg.pattern), (18, 2, c.tg.mode), (17, 1, b2n c.tg.random), (16, 1, b2n c.tg.raw), (0, 8, c.tg.passes)]
  | 0x108 => pack [(32, 21, c.tg.first), (0, 21, c.tg.last)]
  | 0x110 => c.tg.seed
  | 0x118 => pack [(32, 32, c.mismatch), (8, 8, c.result), (2, 1, b2n c.sbRun), (1, 1, b2n c.tgDone), (0, 1, b2n c.run.isSome)]
  | 0x120 => pack [(36, 6, c.failSym), (0, 27, c.failSect)]
  | _ =>
    if 0x010 ≤ off ∧ off < 0x090 then
      let e := look {} c.log ((off - 0x010) / 8)
      pack [(48, 16, e.count), (47, 1, b2n e.valid), (36, 6, e.symbol), (0, 27, e.sector)]
    else 0

/-- PC_STATUS (R309). -/
def pcStatus (s : State) (cc : Nat) : Word :=
  let c := s.pc cc
  pack [(48, 16, c.waysRetired), (32, 16, c.waysOff), (2, 1, b2n c.disabled), (1, 1, b2n c.cur.isSome)]

/-- PC_ERR (R309). -/
def pcErr (s : State) (cc : Nat) : Word :=
  let c := s.pc cc
  pack [(48, 16, c.ce), (32, 16, c.ueClean), (16, 16, c.ueDirty)]

/-- A read of the Platform cache registers. -/
def pcRead (s : State) (cc off : Nat) : Word :=
  match off with
  | 0x00 => BitVec.ofNat 64 (b2n (s.pc cc).disable)
  | 0x08 => BitVec.ofNat 64 (s.pc cc).mask
  | 0x10 => pcStatus s cc
  | 0x18 => BitVec.ofNat 64 (s.pc cc).lastClean
  | 0x20 => pcErr s cc
  | _ => 0

/-- TT_STATUS (R268). -/
def ttStatus (s : State) (cc : Nat) : Word :=
  let t := s.tt cc
  pack [(48, 16, t.recovered), (32, 16, t.poisoned), (16, 16, t.dupShort), (0, 16, t.pinOver)]

def KeeperState.code : KeeperState → Nat
  | .watching => 0 | .hold => 1 | .relief => 2 | .holdRefused => 3

/-- LB_ERR (R384). -/
def lbErr (s : State) (cc : Nat) : Word := pack [(48, 16, look 0 s.sig.lbCe cc), (32, 16, look 0 s.sig.lbUe cc)]

/-- A read of the keeper registers (R384). -/
def kpRead (s : State) (cc off : Nat) : Word :=
  match off with
  | 0x08 => pack [(56, 8, s.sig.refusal), (12, 4, look 0 s.sig.consistResult cc), (8, 4, s.sig.reliefResult),
      (3, 1, b2n (s.sig.cmds.any (fun c => c.keeper == some cc) || s.sig.keeperConsist.any (fun c => c.1 == cc))), (0, 3, s.sig.keeper.code)]
  | 0x10 => pack [(32, 1, b2n s.sig.notifyEn), (0, 32, s.sig.notifyEp)]
  | 0x20 => lbErr s cc
  | _ => 0

/-- A read in a Concourse block. -/
def ccRead (s : State) (cc off : Nat) : Word :=
  if off = 0x1000 then BitVec.ofNat 64 s.pkg.feature
  else if off = 0x1800 then BitVec.ofNat 64 (look 0 s.pkg.ringPref cc)
  else if 0x2000 ≤ off ∧ off < 0x2000 + 8 * 46 then vdStatus s cc ((off - 0x2000) / 8)
  else if 0x10000 ≤ off ∧ off < 0x10400 then bsRead s cc ((off - 0x10000) / 0x40) (off % 0x40)
  else if off = 0x10400 then BitVec.ofNat 64 (epDoorbell cc)
  else if 0x11000 ≤ off ∧ off < 0x11100 then clRead s cc ((off - 0x11000) / 0x40) (off % 0x40)
  else if off = 0x12000 then BitVec.ofNat 64 (look 0 s.kAddr cc)
  else if off = 0x12010 then kstatusRead s cc
  else if off = 0x13000 then BitVec.ofNat 64 s.astBase
  else if off = 0x13008 then BitVec.ofNat 64 (s.book cc).invVa
  else if off = 0x13010 then pack [(63, 1, b2n ((s.book cc).cur.isSome || !(s.book cc).held.isEmpty))]
  else if 0x14000 ≤ off ∧ off < 0x14100 then
    let d := (off - 0x14000) / 0x40
    let k := s.siding (4 * cc + d)
    match off % 0x40 with
    | 0x00 => pack [(12, 52, k.base / 4096), (0, 4, k.log2n)]
    | 0x08 => pack [(33, 1, b2n k.enable), (32, 1, b2n k.notifyEn), (0, 32, k.endpoint)]
    | 0x10 => BitVec.ofNat 64 k.consumer
    | 0x18 => sdStatus s cc d
    | _ => 0
  else if off = 0x15000 then pack [(32, 16, s.pkg.dupPoolGib), (8, 8, s.pkg.pinLimit), (0, 8, s.pkg.promote)]
  else if off = 0x15008 then ttStatus s cc
  else if 0x16000 ≤ off ∧ off < 0x16018 then stkRead s (3 * cc + (off - 0x16000) / 8)
  else if off = 0x16020 then pack [(8, 8, s.pkg.ueRetire), (0, 8, s.pkg.scrubHours)]
  else if 0x17000 ≤ off ∧ off < 0x17028 then pcRead s cc (off - 0x17000)
  else if off = 0x18000 then hlStatus s cc
  else if 0x19000 ≤ off ∧ off < 0x19028 then kpRead s cc (off - 0x19000)
  else if 0x1A000 ≤ off ∧ off < 0x1A090 then ucRead s cc (off - 0x1A000)
  else if 0x20000 ≤ off ∧ off < 0x20000 + 0x400 * 96 then chanRead s (96 * cc + (off - 0x20000) / 0x400) (off % 0x400)
  else 0

/-- A read in a Spire block (R66, chapter 15). -/
def spRead (s : State) (sp off : Nat) : Word :=
  if off = 0x1000 then
    let p := s.spire sp
    pack [(16, 16, p.mv), (4, 4, if p.drowse then 2 else 0), (0, 1, b2n p.permit)]
  else if 0x0100_0000 ≤ off ∧ off < 0x0120_0000 then engRead s (32 * sp + (off - 0x0100_0000) / 0x10000) (off % 0x10000)
  else 0

/-- A read in a Cupola die block (R286, R426). -/
def cuRead (s : State) (m off : Nat) : Word :=
  if 0x4000 ≤ off ∧ off < 0x4100 then
    let u := s.unit (32 * m + (off - 0x4000) / 8)
    pack [(48, 16, u.ceCount), (32, 16, u.ueCount), (0, 19, u.lastErr)]
  else if 0x5000 ≤ off ∧ off < 0x5090 then ucRead s (4 + m) (off - 0x5000)
  else 0

def SbRole.code : SbRole → Nat
  | .standby => 0 | .active => 1 | .failed => 2

/-- The Signal Box of a Terminus. -/
def sbOf (s : State) (t : Nat) : SigBox := if t = 0 then s.sig.sb0 else s.sig.sb1

/-- SB_STATUS (R378). -/
def sbStatus (s : State) (t : Nat) : Word :=
  let b := sbOf s t
  pack [(48, 16, s.sig.takeovers), (32, 16, b.restarts), (24, 8, s.sig.cmdResult),
    (15, 1, b2n (b.role == .active && s.sig.inspEn && s.sig.keeper == .watching)), (8, 4, b.pairsOk), (2, 2, b.role.code),
    (1, 1, b2n (!s.sig.cmds.isEmpty))]

def PwrState.code : PwrState → Nat
  | .enteringIdle => 1 | .idle => 2 | .enteringStandby => 4 | _ => 0

/-- ML_PORT (R336). -/
def portRead (s : State) (p : Nat) : Word :=
  let x := s.port p
  pack [(48, 16, x.retx), (32, 16, x.fcsErr), (12, 4, x.speed), (4, 1, b2n x.disable), (0, 4, x.state)]

/-- FW_STATUS and FW_CTRL of a Terminus (R411), and the DBG registers (R418). -/
def trustRead (s : State) (t off : Nat) : Word :=
  let f := s.fwOf t
  match off with
  | 0x9000 => pack [(48, 16, f.svnFused), (32, 16, f.svnActive), (16, 8, f.failed), (8, 1, b2n f.fallback), (0, 2, f.slot)]
  | 0x9008 => pack [(32, 8, f.result), (2, 1, b2n f.busy)]
  | 0x9010 => BitVec.ofNat 64 f.addr
  | 0x9100 => BitVec.ofNat 64 s.sec.nonce
  | 0x9108 => BitVec.ofNat 64 s.sec.tokenAddr
  | 0x9110 => pack [(8, 8, s.sec.result)]
  | 0x9118 => BitVec.ofNat 64 s.sec.unlocked
  | _ => 0

/-- A read in a Terminus block. -/
def tmRead (s : State) (t off : Nat) : Word :=
  if off = 0x3000 then s.mlId
  else if off = 0x3008 then pack [(12, 52, s.winBase / 4096), (0, 1, b2n s.winInv)]
  else if off = 0x3010 then BitVec.ofNat 64 s.grpBase
  else if 0x3100 ≤ off ∧ off < 0x3120 then portRead s (4 * t + (off - 0x3100) / 8)
  else if 0x4000 ≤ off ∧ off < 0x4200 then roRead s t ((off - 0x4000) / 0x40) (off % 0x40)
  else if 0x5000 ≤ off ∧ off < 0x5100 then crRead s t ((off - 0x5000) / 0x40) (off % 0x40)
  else if off = 0x6000 then tdCtrlWord s
  else if off = 0x6008 then tdStatusWord s
  else if off = 0x6010 then pack [(32, 32, s.td.closed), (0, 32, s.td.opened)]
  else if off = 0x6018 then s.td.mirror
  else if off = 0x6020 then BitVec.ofNat 64 s.td.takeover
  else if off = 0x6028 then s.td.witness
  else if 0x6080 ≤ off ∧ off < 0x60A0 then look 0 s.td.parts ((off - 0x6080) / 8)
  else if 0x6100 ≤ off ∧ off < 0x6180 then look 0 s.td.regions ((off - 0x6100) / 8)
  else if off = 0x7010 then sbStatus s t
  else if off = 0x7018 then pack [(16, 8, s.sig.inspHours), (8, 8, s.sig.watchMs), (0, 1, b2n s.sig.inspEn)]
  else if off = 0x8000 then
    pack [(48, 16, s.pkg.warmCount), (32, 8, s.pkg.cause), (1, 1, b2n s.pkg.slowDone), (0, 1, b2n s.pkg.slowReady)]
  else if off = 0x8008 then BitVec.ofNat 64 (if s.pkg.idleRefused then 5 else s.pkg.pwr.code)
  else if off = 0x8010 then
    pack [(48, 16, s.pkg.powerW), (17, 1, b2n s.pkg.thermal), (16, 1, b2n s.pkg.limited), (0, 16, s.pkg.limitW)]
  else if 0xA000 ≤ off ∧ off < 0xA090 then ucRead s (16 + t) (off - 0xA000)
  else trustRead s t off

/-- A read in the block of a site. An unpopulated site reads zero (R3). -/
def blockRead (s : State) (site off : Nat) : Word :=
  if !sitePopulated site then 0
  else if off < 0x1000 then identRead s site off
  else if site < 4 then ccRead s site off
  else if site < 0x10 then spRead s (site - 8) off
  else if site < 0x1C then cuRead s (site - 0x10) off
  else if site < 0x22 then 0
  else tmRead s (site - 0x28) off

/-- An aligned 64-bit read of the MMIO range or the Ticket window. The window holds the pages of harts 0–127 (R330). -/
def mmioRead (s : State) (pa : Nat) : Word :=
  if ticketBase ≤ pa then
    (if (pa - ticketBase) / 4096 < 128 then tkRead s ((pa - ticketBase) / 4096) (pa % 4096) else 0)
  else blockRead s ((pa - mmioBase) / 2 ^ 32) (pa % 2 ^ 32)

/-- Whether a read must wait: the window of an engine that is being migrated (R63), or whose Spire lies in drowse and
must wake first (R394). -/
def mmioReadWaits (s : State) (pa : Nat) : Bool :=
  let site := (pa - mmioBase) / 2 ^ 32
  let off := pa % 2 ^ 32
  decide (pa < ticketBase) && decide (8 ≤ site) && decide (site < 0x10) && decide (0x0100_0000 ≤ off) && decide (off < 0x0120_0000) &&
    (let e := 32 * (site - 8) + (off - 0x0100_0000) / 0x10000
     (s.eng e).migrating.isSome || asleep s e)

end Sys2Proof.Machine
end

