-- ==== Sys2Proof/Machine/Consist.lean ====
section
/-! DEFINITION. The consist record and its summary (R379–R383). -/

namespace Sys2Proof.Machine

/-- Bytes filled up with zeros to a length. -/
def padTo (n : Nat) (l : List Byte) : List Byte := l ++ List.replicate (n - l.length) 0

/-- Words as bytes. -/
def wordBytes (l : List Word) : List Byte := l.flatMap (fun w => leBytes 8 w.toNat)

/-- Numbers as bytes of one width. -/
def numBytes (n : Nat) (l : List Nat) : List Byte := l.flatMap (leBytes n)

/-- MODE of a record: Signal Box, keeper or relief (R382). -/
def recMode (s : State) : Nat := if s.holding then 2 else if s.sig.keeper == .relief then 3 else 1

/-- PKG_STATE. -/
def pkgState (s : State) : Nat :=
  match s.sig.keeper with
  | .holdRefused => 3
  | .hold => 2
  | _ => 1

/-- ACTIVE_SB. -/
def activeSb (s : State) : Nat :=
  if s.sig.keeper == .relief then 2
  else if s.sig.sb0.role == .active then 0 else if s.sig.sb1.role == .active then 1 else 0xFF

/-- SB_HEALTH. -/
def sbHealth (s : State) : Nat := b2n (s.sig.sb0.role != .failed) + 2 * b2n (s.sig.sb1.role != .failed)

/-- The site of the die that composes, where the keeper of Concourse `cc` may be it. -/
def composerSite (s : State) (cc : Nat) : Nat :=
  match recMode s, activeSb s, s.sig.reliefHart with
  | 2, _, _ => siteCC cc
  | 3, _, some h => siteCP (h / 64)
  | _, 1, _ => siteTM 1
  | _, _, _ => siteTM 0

/-- Logical engines on a slot. -/
def enginesPlaced (s : State) : Nat := countIf (fun e => !(s.eng e).unplaced) (List.range 256)

/-- Retired channels. -/
def channelsRetired (s : State) : Nat := countIf (fun p : Nat × Chan => p.2.state == .retired) s.chans

/-- Faults in parked lists. -/
def parkedTotal (s : State) : Nat := (List.range 4).foldl (fun n cc => n + (s.book cc).parked.length) 0

/-! ### Paused work -/

/-- One entry of 32 bytes. -/
def pausedEntry (submitter kind cause done seq : Nat) (progress : List Byte) (unit : Nat) : List Byte :=
  leBytes 2 submitter ++ leBytes 1 kind ++ leBytes 1 cause ++ leBytes 4 done ++ leBytes 8 seq ++ padTo 15 (progress.take 15) ++
    leBytes 1 unit

/-- CAUSE of work other than descriptors and launches: held by the keepers, or by a translation fault. -/
def waitCause (s : State) : Nat := if s.holding then 6 else 1

/-- Entries in the order of the numbers beside them, the lowest first. -/
def byAge : List (Nat × List Byte) → List (List Byte) :=
  let rec put_ (x : Nat × List Byte) : List (Nat × List Byte) → List (Nat × List Byte)
    | [] => [x]
    | y :: t => if x.1 < y.1 then x :: y :: t else y :: put_ x t
  fun l => (l.foldl (fun a x => put_ x a) []).map Prod.snd

/-- Paused descriptors, each with its age. -/
def pausedDescs (s : State) : List (Nat × List Byte) :=
  s.streams.flatMap (fun p => p.2.slots.filterMap (fun d =>
    match d.phase with
    | .paused c =>
      let sub := if p.1 < 512 then p.1 / 2 else 0x1000 + 0x100 * ((p.1 - 512) / 16) + (p.1 - 512) % 16
      some (d.born,
        pausedEntry sub 1 c d.counted d.seq (numBytes 3 ((descF d.words).progress d.counted)) (if p.1 < 512 then p.1 % 2 else 0))
    | _ => none))

/-- Paused launches, each with its age. -/
def pausedLaunches (s : State) : List (Nat × List Byte) :=
  s.launches.filterMap (fun p => p.2.paused.map (fun c =>
    let sub := p.2.engine.getD (0x2000 + 0x100 * p.2.cc + p.2.ring % 4)
    (p.1, pausedEntry sub 3 c p.2.ended p.2.seq (leBytes 8 p.2.dealtTo) 0)))

/-- Atomics, EXPECT requests, remote operations and collectives that wait for an answer or for the release of a hold, each
with its age. -/
def pausedOthers (s : State) : List (Nat × List Byte) :=
  (s.atomics.filter (fun p => p.2.src == 0 && (s.holding || p.2.fault.isSome))).map (fun p =>
      (p.1, pausedEntry p.2.engine 4 (waitCause s) 0 p.2.dsn [] 0)) ++
  (s.expects.filter (fun p => s.holding || p.2.fault.isSome)).map (fun p =>
      (p.1, pausedEntry p.2.engine 5 (waitCause s) p.2.counted p.2.dsn [] 0)) ++
  (s.remOps.filter (fun x => x.fault.isSome || x.recFault.isSome)).map (fun x =>
      (x.born, pausedEntry (0x3000 + 0x100 * x.tm + x.ring) 6 (waitCause s) x.landed x.seq [] 0)) ++
  (s.colls.filter (fun c => c.fault.isSome || c.recFault.isSome)).map (fun c =>
      (c.born, pausedEntry (0x4000 + 0x100 * c.tm + c.ring) 7 (waitCause s) 0 c.seq [] 0))

/-- Every paused piece of work, the oldest first: the one accepted first (log entry 160). -/
def pausedWork (s : State) : List (List Byte) := byAge (pausedDescs s ++ pausedLaunches s ++ pausedOthers s)

/-! ### Sections (R382) -/

/-- The header, 256 bytes. -/
def consistHeader (s : State) (cc : Nat) : List Byte :=
  let site := composerSite s cc
  let valid := if recMode s = 2 then 0x0DF7 else 0x1FFF
  padTo 256 (
    leBytes 4 0x54534E43 ++ leBytes 2 1 ++ leBytes 1 (recMode s) ++ leBytes 1 (pkgState s) ++ leBytes 8 (s.ident site).seq ++
    leBytes 2 s.pkgId ++ leBytes 1 site ++ leBytes 1 s.sig.refusal ++ leBytes 4 s.sig.wa ++ leBytes 8 s.pkg.feature ++
    leBytes 8 s.sig.refusalDies ++ leBytes 8 s.sig.failedDies ++ leBytes 8 s.sig.serviceDies ++ leBytes 1 (activeSb s) ++
    leBytes 1 (sbHealth s) ++ leBytes 2 (s.sig.reliefHart.getD 0xFFFF) ++ leBytes 2 valid ++ leBytes 2 0 ++
    leBytes 4 (enginesPlaced s) ++ leBytes 4 (pausedWork s).length ++ leBytes 4 (parkedTotal s) ++ leBytes 4 (channelsRetired s) ++
    leBytes 8 s.sig.logHead)

/-- The die table. -/
def dieTable (s : State) : List Byte :=
  (List.range 64).flatMap (fun i =>
    let d := s.ident i
    padTo 32 (if sitePopulated i then
      leBytes 8 d.seq ++ leBytes 8 (dieFeature s i) ++ leBytes 2 d.stepping ++ leBytes 1 (dieType i) ++ leBytes 1 d.state ++ leBytes 4 d.serial
    else []))

/-- The engine map. -/
def engineMap (s : State) : List Byte :=
  (List.range 256).flatMap (fun e =>
    let g := s.eng e
    let p := physSlot s e
    leBytes 1 (if g.unplaced then 0xFF else p / 36) ++ leBytes 1 (p % 36) ++ leBytes 1 g.state.code ++
      leBytes 1 (b2n (nHas e s.sig.lost) + 2 * b2n (look 0 s.sig.swapped e != 0)))

/-- The state of a physical slot. -/
def slotState (s : State) (n : Nat) : Nat :=
  let v := look 0 s.sig.slots n
  if 3 ≤ v then v - 1
  else if s.sig.quarantined.testBit (siteSP (n / 36)) then 4
  else if slotTaken s n then 0 else 1

/-- Links. -/
def linkSection (s : State) : List Byte :=
  (List.range 4).flatMap (fun cc => (List.range 46).flatMap (fun b => leBytes 4 ((vdStatus s cc b).toNat % 2 ^ 32))) ++
  wordBytes ((List.range 4).map (hlStatus s)) ++
  (if recMode s = 2 then [] else wordBytes ((List.range 8).map (portRead s)))

/-- HBM and caches. -/
def hbmSection (s : State) : List Byte :=
  wordBytes ((List.range 12).map (stkRead s)) ++ numBytes 1 ((List.range 384).map (fun ch => (s.chan ch).state.code)) ++
  wordBytes ((List.range 4).map (pcStatus s))

/-- Tiles of the unified range in HBM. -/
def hbmTiles (s : State) : Nat :=
  let n := min s.hFrames (s.uBytes / 65536)
  let out := countIf (fun p : Nat × Tile => decide (p.1 < n) && (match p.2.frame with | some (.slow _) => true | _ => false)) s.tiles
  let in_ := countIf (fun p : Nat × Tile => decide (n ≤ p.1) && (match p.2.frame with | some (.hbm _) => true | _ => false)) s.tiles
  n - out + in_

/-- Tier occupancy and slow-tier devices. -/
def tierSection (s : State) : List Byte :=
  numBytes 8 [s.hBytes, s.pkg.slowBytes, s.pkg.dupPool, s.uBytes, hbmTiles s, s.uBytes / 65536 - hbmTiles s,
    countIf (fun p : Nat × Tile => p.2.dup.isSome) s.tiles, countIf (fun p : Nat × Tile => p.2.place == 1) s.tiles] ++
  s.pkg.slowDevs.flatMap (fun d => leBytes 1 d.1 ++ leBytes 1 d.2.1 ++ leBytes 1 d.2.2.2 ++ leBytes 5 0 ++ leBytes 8 d.2.2.1)

/-- Sidings. -/
def sidingSection (s : State) : List Byte :=
  (List.range 4).flatMap (fun cc => (List.range 4).flatMap (fun d =>
    let k := s.siding (4 * cc + d)
    leBytes 8 (sdStatus s cc d).toNat ++ leBytes 4 k.consumer ++ leBytes 1 (b2n k.enable) ++ leBytes 3 0))

/-- Parked faults, the oldest first and at most 64. -/
def parkedSection (s : State) : List Byte :=
  ((byAge ((List.range 4).flatMap (fun cc => (s.book cc).parked.map (fun p => (p.2.born,
    leBytes 4 p.2.id ++ leBytes 1 cc ++ leBytes 1 p.1 ++ leBytes 1 p.2.reason ++ leBytes 1 p.2.kind ++ leBytes 8 p.2.va))))).take
    64).flatten

/-- The tandem section; keepers leave it zero (R381). -/
def tandemSection (s : State) : List Byte :=
  if recMode s = 2 then []
  else wordBytes [tdStatusWord s, pack [(32, 32, s.td.closed), (0, 32, s.td.opened)], tdCtrlWord s, BitVec.ofNat 64 s.td.pFeature, s.td.witness]

/-- Error-log heads. -/
def errorSection (s : State) : List Byte :=
  (List.range 4).flatMap (fun cc => padTo 64 (numBytes 8 ((s.tt cc).errLog.reverse.take 8))) ++
  wordBytes ((List.range 4).map (ttStatus s)) ++ wordBytes ((List.range 4).map (pcErr s)) ++
  wordBytes [pack [(32, 32, s.sig.unreachCount), (0, 16, s.sig.unreachLast)],
    pack [(48, 16, satN 0xFFFF s.sig.holds), (32, 16, satN 0xFFFF s.sig.reliefs),
      (16, 16, satN 0xFFFF (s.sig.sb0.restarts + s.sig.sb1.restarts)), (0, 16, s.sig.takeovers)]] ++
  wordBytes ((List.range 4).map (lbErr s))

/-- Engine errors; keepers leave them zero. -/
def engErrSection (s : State) : List Byte :=
  if recMode s = 2 then [] else (List.range 256).flatMap (fun e => leBytes 2 (s.eng e).ceCount ++ leBytes 2 (s.eng e).ueCount)

/-- The consist record, 16 KiB. -/
def consistRecord (s : State) (cc : Nat) : List Byte :=
  consistHeader s cc ++ dieTable s ++ engineMap s ++ padTo 768 (numBytes 1 ((List.range 288).map (slotState s))) ++
  padTo 1024 (linkSection s) ++ padTo 512 (hbmSection s) ++ padTo 512 ((tierSection s).take 512) ++ padTo 256 (sidingSection s) ++
  padTo 1024 (parkedSection s) ++ padTo 4096 ((pausedWork s).take 128).flatten ++ padTo 256 (tandemSection s) ++
  padTo 512 (errorSection s) ++ wordBytes ((List.range 384).map (fun ch => chErr (s.chan ch))) ++ padTo 1024 (engErrSection s)

/-- The summary, 64 bytes (R383). -/
def summary (s : State) (cc status addr : Nat) : List Byte :=
  leBytes 1 1 ++ leBytes 1 status ++ leBytes 1 (recMode s) ++ leBytes 1 (pkgState s) ++ leBytes 4 0 ++ leBytes 8 addr ++
  leBytes 8 s.pkg.feature ++ leBytes 4 (enginesPlaced s) ++ leBytes 4 (channelsRetired s) ++ leBytes 8 s.uBytes ++
  leBytes 4 (pausedWork s).length ++ leBytes 4 (parkedTotal s) ++ leBytes 4 s.td.closed ++ leBytes 1 s.td.state ++
  leBytes 1 (sbHealth s) ++ leBytes 2 0 ++ leBytes 8 (s.ident (composerSite s cc)).seq

/-- Whether a buffer is good (R379). -/
def bufferOk (s : State) (addr : Nat) : Bool := addr % 16384 == 0 && decide (addr + 16384 ≤ s.uBytes)

/-- Writes the record, bytes 0x0000–0x000F last. -/
def writeRecord (s : State) (cc addr : Nat) : State :=
  let bs := consistRecord s cc
  memWrite (memWrite s .other (addr + 16) (bs.drop 16) false) .other addr (bs.take 16) false

/-- Composes into a buffer: the new state and STATUS, or nothing while a tile of the buffer must be waited for. -/
def compose (s : State) (cc addr : Nat) : Option (State × Nat) :=
  if !bufferOk s addr then some (s, 2)
  else if memWaits s addr 16384 then none
  else some (writeRecord s cc addr, 1)

/-- The endpoint that sends notices for a keeper: the doorbell endpoint of its Concourse (R375). -/
def keeperNotify (s : State) (cc : Nat) (bytes : List Byte) : State :=
  if s.sig.notifyEn then sendNotice s (epDoorbell cc) 0 s.sig.notifyEp bytes else s

/-- CONSIST as a Signal Box or relief controller performs it (R378, R379). -/
def consistRun (s : State) : State :=
  match sbFront s 1 with
  | none => s
  | some (c, t) =>
    let cc := c.keeper.getD 0
    match compose t cc c.addr with
    | none => s
    | some (t, status) =>
      let bytes := summary t cc status c.addr
      let t := match c.keeper with
        | some k => { t with sig := { t.sig with consistResult := put 0 t.sig.consistResult k (status - 1) } }
        | none => t
      let t := match c.keeper with
        | some _ => if t.sig.notifyEn then sendNotice t epSb 0 t.sig.notifyEp bytes else t
        | none => if c.reply = 0 then t else sendNotice t epSb 0 c.reply bytes
      let t := sbEnd t c (if status = 1 then 0 else 2)
      sbFlush t.sig.cmds t

/-- CONSIST as a keeper performs it in a hold (R379); none while a tile of the buffer must be waited for. -/
def keeperCompose (s : State) (cc addr : Nat) : Option State :=
  (compose s cc addr).map (fun r =>
    let bytes := summary r.1 cc r.2 addr
    keeperNotify { r.1 with sig := { r.1.sig with consistResult := put 0 r.1.sig.consistResult cc (r.2 - 1) } } cc bytes)

/-- The oldest CONSIST that a keeper has in progress is performed, or forwarded once the hold has ended. -/
def keeperConsistGo (s : State) : State :=
  match s.sig.keeperConsist with
  | [] => s
  | (cc, addr) :: rest =>
    let t := { s with sig := { s.sig with keeperConsist := rest } }
    if sbWorks s then sbArrive t { op := 1, arg := 0, addr := addr, reply := 0, keeper := some cc }
    else (keeperCompose t cc addr).getD s

/-- A write of KP_CMD (R379, R384): forwarded while a Signal Box or relief controller works, performed by the keeper in a
hold, after those before it. -/
def kpCmd (s : State) (cc : Nat) (v : Word) : State :=
  if fld v 7 0 ≠ 1 then s
  else
    let addr := fld v 51 14 * 16384
    if sbWorks s then sbArrive s { op := 1, arg := 0, addr := addr, reply := 0, keeper := some cc }
    else
      let wait := { s with sig := { s.sig with keeperConsist := s.sig.keeperConsist ++ [(cc, addr)] } }
      if s.sig.keeperConsist.isEmpty then (keeperCompose s cc addr).getD wait else wait

/-- CONSIST. -/
def execConsist (s : State) : Out := .next (consistRun s)

/-- KP_CMD_CONSIST: a write of KP_CMD. -/
def execKpCmdConsist (cc : Fin 4) (v : Word) (s : State) : Out := .next (kpCmd s cc v)

end Sys2Proof.Machine
end

