-- ==== Sys2Proof/Machine/Control.lean ====
section
/-! DEFINITION. The control class (R78–R80, R193): the dispatcher of an engine executes it, a Cupola unit in its stream. -/

namespace Sys2Proof.Machine

/-- A control word of a Cupola unit. Instruction addresses are byte positions in the kernel's code. -/
def unitControl (s : State) (u : Nat) (w : Word) : State :=
  if !cupDefined s.pkg.feature w then s
  else match unitEntry s u w with
    | none => s
    | some en =>
      let c := s.unit u
      if !(c.pReg (wPred w)).getLsbD 0 then unitGoto s u (en.addr + 8)
      else
        let r := control c.sReg c.pReg 128 (BitVec.ofNat 64 en.addr) w
        let s := match r.link with
          | some (n, v) => if n = 0 then s else s.modUnit u (fun c => { c with s := put 0 c.s n v })
          | none => s
        unitGoto s u ((r.target.map BitVec.toNat).getD (en.addr + 8))

/-- A control row. -/
def ctlRow (s : State) (who : Agent) (w : Word) : State :=
  match who with
  | .engine e => controlRow s e.val w
  | .unit u => unitControl s u.val w

/-- B (R78). -/
def execB (o : MOp) (s : State) : Out := .next (ctlRow s o.who (mkWord 0x00 1 o))

/-- BEQ (R78). -/
def execBeq (o : MOp) (s : State) : Out := .next (ctlRow s o.who (mkWordTop 0x01 1 32 0 o))

/-- BNE (R78). -/
def execBne (o : MOp) (s : State) : Out := .next (ctlRow s o.who (mkWordTop 0x01 1 32 1 o))

/-- BLT (R78). -/
def execBlt (o : MOp) (s : State) : Out := .next (ctlRow s o.who (mkWordTop 0x01 1 32 2 o))

/-- BGE (R78). -/
def execBge (o : MOp) (s : State) : Out := .next (ctlRow s o.who (mkWordTop 0x01 1 32 3 o))

/-- BLTU (R78). -/
def execBltu (o : MOp) (s : State) : Out := .next (ctlRow s o.who (mkWordTop 0x01 1 32 4 o))

/-- BGEU (R78). -/
def execBgeu (o : MOp) (s : State) : Out := .next (ctlRow s o.who (mkWordTop 0x01 1 32 5 o))

/-- BPANY (R78). -/
def execBpany (o : MOp) (s : State) : Out := .next (ctlRow s o.who (mkWordTop 0x02 1 32 0 o))

/-- BPALL (R78). -/
def execBpall (o : MOp) (s : State) : Out := .next (ctlRow s o.who (mkWordTop 0x02 1 32 1 o))

/-- BPNONE (R78). -/
def execBpnone (o : MOp) (s : State) : Out := .next (ctlRow s o.who (mkWordTop 0x02 1 32 2 o))

/-- CALL (R78). -/
def execCall (o : MOp) (s : State) : Out := .next (ctlRow s o.who (mkWord 0x03 1 o))

/-- CALLR (R78). -/
def execCallr (o : MOp) (s : State) : Out := .next (ctlRow s o.who (mkWord 0x04 1 o))

/-- JR (R78). -/
def execJr (o : MOp) (s : State) : Out := .next (ctlRow s o.who (mkWord 0x05 1 o))

/-- LOOP (R78). -/
def execLoop (o : MOp) (s : State) : Out := .next (ctlRow s o.who (mkWord 0x06 1 o))

/-- NOP (R78). -/
def execNop (o : MOp) (s : State) : Out := .next (ctlRow s o.who (mkWord 0x08 1 o))

/-- HALT of an engine (R78, R80). On a Cupola unit HALT is the row CUPOLA_HALT. -/
def execHalt (o : MOp) (s : State) : Out :=
  .next (match o.who with
    | .engine e => controlRow s e.val (mkWord 0x07 1 o)
    | .unit _ => s)

/-- CUPOLA_HALT: HALT ends the invocation of a Cupola unit (R183, R193). -/
def execCupolaHalt (o : MOp) (s : State) : Out :=
  .next (match o.who with
    | .engine _ => s
    | .unit u =>
      let w := mkWord 0x07 1 o
      if !cupDefined s.pkg.feature w then s
      else match unitEntry s u.val w with
        | none => s
        | some en =>
          if ((s.unit u.val).pReg (wPred w)).getLsbD 0 then endInvoc s u.val else unitGoto s u.val (en.addr + 8))

end Sys2Proof.Machine
end

