-- ==== Sys2Proof/Machine/Stages.lean ====
section
/-! DEFINITION. Page walks of the Campanile MMUs and of the IOMMUs, in one stage or two (R242, R243, R311, R312, R326; the formats
of the RISC-V Privileged Architecture are PRESUMED, log entry 154). -/

namespace Sys2Proof.Machine

/-- Why a walk ends without a translation. -/
inductive PageFault where
  | access      -- a table or page that the walker may not reach
  | page        -- the first stage gives none
  | guest       -- the second stage gives none
  | poison      -- a table line is poisoned
deriving DecidableEq, Repr

/-- How a walk ends. -/
inductive WalkOut where
  | ok (x : Xlat) (dup : Bool)
  | fault (f : PageFault)
  | wait
deriving DecidableEq, Repr

/-- A walk: its end, the physical address that it found, the entries read, and those that it changes. -/
structure Walked where
  out   : WalkOut
  dest  : Nat := 0
  reads : List Nat := []
  sets  : List (Nat × Word) := []
deriving DecidableEq, Repr

/-- A walk goes on after another. -/
def Walked.andThen (a b : Walked) : Walked := { b with reads := a.reads ++ b.reads, sets := a.sets ++ b.sets }

/-- An address that is not translated. -/
def Walked.same (pa : Nat) : Walked := { out := .ok { asn := 0, vbase := pa, size := 1, pbase := pa } false, dest := pa }

/-- Who walks, and what for: the rights that a leaf must give, and whether A and D are set in hardware. -/
structure Walker where
  allow : Nat → Bool → Bool          -- whether an entry at an address may be read, or written
  leafOk : Word → Bool               -- whether a leaf permits the access
  write : Bool                       -- the access writes
  adue  : Bool                       -- A and D are set in hardware (Svadu)
  pbmte : Bool                       -- PBMT is not reserved (Svpbmt)
  asid  : Nat

/-- Levels of a table by its MODE. -/
def stageLevels (mode : Nat) : Option Nat :=
  match mode with
  | 8 => some 3
  | 9 => some 4
  | 10 => some 5
  | _ => none

/-- A leaf is used: checked, with A set, and D for a write, or a page fault where hardware does not set them (R312). Bits
57:54 are ignored but for what they deliver (R242, R243). -/
def leafUse (k : Walker) (va lvl ptePa : Nat) (pte : Word) (g : Bool) : Walked :=
  match leafXlat k.asid va lvl pte g with
  | none => { out := .fault .page }
  | some x =>
    let new := pte ||| 0x40 ||| (if k.write then 0x80 else 0)
    if !k.leafOk pte || (!k.pbmte && x.pbmt != 0) then { out := .fault .page }
    else if new = pte then { out := .ok x (bit pte 54), dest := x.pa va }
    else if !k.adue then { out := .fault .page }
    else if !k.allow ptePa true then { out := .fault .access }
    else { out := .ok { x with d := x.d || k.write } (bit pte 54), dest := x.pa va, sets := [(ptePa, new)] }

/-- One stage's walk from a table down; `w` index bits at this level, and `via` is how a table entry's address is
translated. -/
def stageFrom (s : State) (k : Walker) (via : Nat → Walked) (va : Nat) : Nat → Nat → Nat → Bool → Walked
  | w, lvl, table, g =>
    let a := via (table + 8 * (va / 2 ^ (12 + 9 * lvl) % 2 ^ w))
    match a.out with
    | .fault _ | .wait => a
    | .ok _ _ =>
      let pa := a.dest
      if region s pa ≠ .unified ∨ !k.allow pa false then { a with out := .fault .access }
      else if memWaits s pa 8 then { a with out := .wait }
      else if memPoisoned s pa 8 then { a with out := .fault .poison, reads := a.reads ++ [pa] }
      else
        let pte := memRead64 s pa
        let a := { a with reads := a.reads ++ [pa] }
        if !bit pte 0 || pteReserved pte then { a with out := .fault .page }
        else if bit pte 1 || bit pte 3 then a.andThen (leafUse k va lvl pa pte (g || bit pte 5))
        else if fld pte 63 54 ≠ 0 ∨ bit pte 4 ∨ bit pte 6 ∨ bit pte 7 then { a with out := .fault .page }
        else match lvl with
          | 0 => { a with out := .fault .page }
          | l + 1 => a.andThen (stageFrom s k via va 9 l (fld pte 53 10 * 4096) (g || bit pte 5))

/-- A first-stage walk: the upper bits of the address must repeat the highest one translated. -/
def firstStage (s : State) (k : Walker) (via : Nat → Walked) (mode ppn va : Nat) : Walked :=
  match stageLevels mode with
  | none => Walked.same va
  | some n =>
    let top := 12 + 9 * n
    let high := va / 2 ^ (top - 1)
    if high ≠ 0 ∧ high ≠ 2 ^ (65 - top) - 1 then { out := .fault .page }
    else stageFrom s k via va 9 (n - 1) (ppn * 4096) false

/-- A second-stage walk of a guest physical address, whose root table has two more index bits. Its page faults are
guest-page faults. -/
def secondStage (s : State) (k : Walker) (mode ppn gpa : Nat) : Walked :=
  match stageLevels mode with
  | none => Walked.same gpa
  | some n =>
    let r := if 2 ^ (14 + 9 * n) ≤ gpa then { out := .fault .page } else stageFrom s k Walked.same gpa 11 (n - 1) (ppn * 4096) false
    { r with out := if r.out = .fault .page then .fault .guest else r.out }

/-- What a walk does: it reads its entries through their homes, changes those that it must at the home, and delivers the
attributes of a leaf of a physical page (R243, R259). -/
def applyWalk (s : State) (w : Walked) : State :=
  let s := forAll w.reads (fun a s => memTouch s a 8) s
  let s := forAll w.sets (fun p s => memWrite64 s .other p.1 p.2) s
  match w.out with
  | .ok x dup => if w.reads.isEmpty then s else deliverLeaf s x dup
  | _ => s

/-- Two stages: the first through the second, then the page itself through the second. -/
def twoStage (s : State) (k1 k2 : Walker) (m1 p1 m2 p2 va : Nat) : Walked :=
  let a := firstStage s k1 (secondStage s { k2 with write := false } m2 p2) m1 p1 va
  match a.out with
  | .fault _ | .wait => a
  | .ok x _ =>
    if (stageLevels m2).isNone then a
    else
      let b := secondStage s k2 m2 p2 a.dest
      match b.out with
      | .ok y dup => { a.andThen b with out := .ok { y with pbmt := max x.pbmt y.pbmt } dup }
      | _ => a.andThen b

end Sys2Proof.Machine
end

