-- ==== Sys2Proof/Machine/HartCore.lean ====
section
/-! DEFINITION. What a Campanile core holds beside its accesses: modes, CSRs, interrupt files, counters, physical memory
protection and translations (R242, R243, R300, R311–R315, R427). The CSRs and their fields are those of the RISC-V
specifications that R311 names (PRESUMED, log entry 154). -/

namespace Sys2Proof.Machine

/-- A CSR as a hart holds it. -/
def Hart.get (g : Hart) (n : Nat) : Word := look 0 g.csr n

/-- Puts a CSR. -/
def Hart.set (g : Hart) (n : Nat) (v : Word) : Hart := { g with csr := put 0 g.csr n v }

/-- The bits of `v` under a mask, the others as in `old`. -/
def masked (old v : Word) (m : Nat) : Word := (old &&& ~~~(BitVec.ofNat 64 m)) ||| (v &&& BitVec.ofNat 64 m)

/-- The bits of mstatus that sstatus shows: SIE, SPIE, SPP, VS, FS, SUM and MXR. -/
def sstatusMask : Nat := 0xC6722

/-! ### Interrupt files (R314) -/

/-- The interrupt file that an interface CSR reaches: 0 machine, 1 supervisor, 1 + VGEIN for a guest (R314, R332). -/
def Hart.fileOf (g : Hart) (n : Nat) : Option Nat :=
  match n / 256 % 4 with
  | 3 => some 0
  | 1 => some 1
  | 2 => let v := fld (g.get 0x600) 17 12
         if 1 ≤ v ∧ v ≤ 7 then some (1 + v) else none
  | _ => none

/-- The lowest pending and enabled identity of a file that its threshold admits; 0 for none (identities 1–255, R314). -/
def Hart.topei (g : Hart) (f : Nat) : Nat :=
  let th := (look 0 g.ethresh f).toNat
  ((List.range 256).find? (fun i => decide (0 < i) && nHas (256 * f + i) g.eip && nHas (256 * f + i) g.eie &&
    (th == 0 || decide (i < th)))).getD 0

/-- Puts the 64 bits of a set from `base` on, within a file and without identity 0. -/
def setBits (t : NSet) (f base : Nat) (v : Word) : NSet :=
  (List.range 64).foldl (fun t i => if base + i = 0 ∨ 256 ≤ base + i then t else nPut (256 * f + base + i) (bit v i) t) t

/-- The 64 bits of a set from `base` on. -/
def getBits (t : NSet) (f base : Nat) : Word :=
  (List.range 64).foldl (fun w i => if nHas (256 * f + base + i) t && decide (base + i < 256) then w ||| BitVec.ofNat 64 (2 ^ i) else w) 0

/-- Writes a register of an interrupt file through its window. -/
def Hart.fileWrite (g : Hart) (f reg : Nat) (v : Word) : Hart :=
  if reg = 0x70 then { g with edeliv := put 0 g.edeliv f (v &&& 1) }
  else if reg = 0x72 then { g with ethresh := put 0 g.ethresh f (v &&& 0xFF) }
  else if reg % 2 = 1 then g
  else if 0x80 ≤ reg ∧ reg < 0xC0 then { g with eip := setBits g.eip f (32 * (reg - 0x80)) v }
  else if 0xC0 ≤ reg ∧ reg < 0x100 then { g with eie := setBits g.eie f (32 * (reg - 0xC0)) v }
  else g

/-- Reads one. -/
def Hart.fileRead (g : Hart) (f reg : Nat) : Word :=
  if reg = 0x70 then look 0 g.edeliv f
  else if reg = 0x72 then look 0 g.ethresh f
  else if reg % 2 = 1 then 0
  else if 0x80 ≤ reg ∧ reg < 0xC0 then getBits g.eip f (32 * (reg - 0x80))
  else if 0xC0 ≤ reg ∧ reg < 0x100 then getBits g.eie f (32 * (reg - 0xC0))
  else 0

/-! ### Counters (R315, R427) -/

/-- Whether a counter is inhibited in the hart's present mode (Sscofpmf). -/
def Hart.hpmOff (g : Hart) (k : Nat) : Bool :=
  let e := g.get (0x320 + k)
  bit (g.get 0x320) k ||
    (if g.priv = 3 then bit e 62 else if g.virt then (if g.priv = 1 then bit e 59 else bit e 58)
     else if g.priv = 1 then bit e 61 else bit e 60)

/-- `n` occurrences of an event: the counters that count it advance, and one that wraps sets OF and pends the overflow
interrupt where OF was clear (R427). -/
def Hart.count (g : Hart) (ev n : Nat) : Hart :=
  (List.range 8).foldl (fun g i =>
    let k := 3 + i
    if fld (g.get (0x320 + k)) 57 0 = ev ∧ !g.hpmOff k then
      let v := (g.get (0xB00 + k)).toNat + n
      let h := g.set (0xB00 + k) (BitVec.ofNat 64 v)
      if 2 ^ 64 ≤ v ∧ !bit (g.get (0x320 + k)) 63 then
        (h.set (0x320 + k) (g.get (0x320 + k) ||| BitVec.ofNat 64 (2 ^ 63))).set 0x344 (h.get 0x344 ||| 0x2000)
      else h
    else g) g

/-- Occurrences of a hart event. -/
def hartEvent (s : State) (h ev n : Nat) : State := if n = 0 then s else s.modHart h (fun g => g.count ev n)

/-! ### CSRs (R300, R311, R312, R427) -/

/-- The pmpcfg byte of entry `i`. -/
def Hart.pmpCfg (g : Hart) (i : Nat) : Nat := fld (g.get (0x3A0 + 2 * (i / 8))) (8 * (i % 8) + 7) (8 * (i % 8))

/-- A pmpcfg byte as written: a locked one, one with W and not R, and NA4, which a grain of 4 KiB lacks, leave the old. -/
def pmpCfgByte (old new : Nat) : Nat :=
  if old.testBit 7 ∨ (new.testBit 1 ∧ !new.testBit 0) ∨ new / 8 % 4 = 2 then old else new &&& 0x9F

/-- mideleg, whose bits for the guest's interrupts are always one (H). -/
def Hart.mideleg (g : Hart) : Word := g.get 0x303 ||| 0x1444

/-- What a CSR takes of a value written (WARL). -/
def Hart.legal (g : Hart) (n : Nat) (v : Word) : Word :=
  let old := g.get n
  let mode := fld v 63 60
  let modeOk := mode == 0 || mode == 8 || mode == 9 || mode == 10
  match n with
  | 0x180 | 0x280 => if modeOk then v &&& 0xFFFFF0FFFFFFFFFF else old
  | 0x680 => if modeOk then v &&& 0xF3FFF0FFFFFFFFFC else old
  | 0x30A | 0x60A | 0x10A => if fld v 5 4 ≤ 1 then v else masked v old 0x30
  | 0x320 => v &&& 0x7FD
  | 0x106 | 0x306 | 0x606 => v &&& 0x7FF
  | 0x300 => (if fld v 12 11 = 2 then masked v old 0x1800 else v) &&& 0xC0007E7FAA
  | 0x200 => v &&& BitVec.ofNat 64 sstatusMask
  | 0x301 => old
  | 0x303 => v &&& 0x2222
  | 0x603 => v &&& 0x444
  | 0x304 => v &&& 0x3EEE
  | 0x344 => masked old v 0x2226
  | 0x607 => v &&& 0xFE
  | 0x105 | 0x205 | 0x305 => v &&& ~~~2
  | 0x141 | 0x241 | 0x341 => v &&& ~~~1
  | 0x3A0 | 0x3A2 =>
    pack ((List.range 8).map (fun i => (8 * i, 8, pmpCfgByte (fld old (8 * i + 7) (8 * i)) (fld v (8 * i + 7) (8 * i)))))
  | _ =>
    if 0x3B0 ≤ n ∧ n ≤ 0x3BF then
      let i := n - 0x3B0
      if (g.pmpCfg i).testBit 7 || (decide (i < 15) && (g.pmpCfg (i + 1)).testBit 7 && (g.pmpCfg (i + 1)) / 8 % 4 == 1) then old
      else v &&& 0x3FFFFFFFFFFFF
    else if 0x323 ≤ n ∧ n ≤ 0x32A then
      pack [(58, 6, fld v 63 58), (0, 58, if fld v 57 0 ≤ 8 then fld v 57 0 else 0)]
    else if (0x32B ≤ n ∧ n ≤ 0x33F) ∨ (0xB0B ≤ n ∧ n ≤ 0xB1F) then 0
    else v

/-- The CSRs of the extensions that R311 names, as ranges of numbers: unprivileged, supervisor, hypervisor and guest,
machine. -/
def csrRanges : List (Nat × Nat) :=
  [(0x001, 0x003), (0x008, 0x00A), (0x00F, 0x00F), (0xC00, 0xC22),
   (0x100, 0x100), (0x104, 0x106), (0x10A, 0x10A), (0x10C, 0x10F), (0x140, 0x144), (0x14D, 0x14D), (0x150, 0x153),
   (0x155, 0x157), (0x15C, 0x15C), (0x180, 0x180), (0xDA0, 0xDA0), (0xDB0, 0xDB0),
   (0x200, 0x200), (0x204, 0x205), (0x240, 0x244), (0x24D, 0x24D), (0x250, 0x253), (0x255, 0x257), (0x25C, 0x25C),
   (0x280, 0x280), (0x600, 0x600), (0x602, 0x60A), (0x60C, 0x60F), (0x643, 0x647), (0x64A, 0x64A), (0x680, 0x680),
   (0xE12, 0xE12), (0xEB0, 0xEB0),
   (0x300, 0x306), (0x308, 0x30A), (0x30C, 0x30F), (0x320, 0x320), (0x323, 0x344), (0x34A, 0x34B), (0x350, 0x353),
   (0x355, 0x357), (0x35C, 0x35C), (0x3A0, 0x3A0), (0x3A2, 0x3A2), (0x3B0, 0x3BF), (0x747, 0x747), (0x757, 0x757),
   (0xB00, 0xB00), (0xB02, 0xB1F), (0xF11, 0xF15), (0xFB0, 0xFB0)]

/-- The supervisor CSRs that a guest has copies of, 0x100 higher. -/
def csrHasCopy (n : Nat) : Bool :=
  [0x100, 0x104, 0x105, 0x140, 0x141, 0x142, 0x143, 0x144, 0x14D, 0x150, 0x151, 0x152, 0x153, 0x155, 0x156, 0x157, 0x15C,
   0x180, 0xDB0].contains n

/-- The bit of mstateen0 and hstateen0 that controls a CSR (Smstateen), 64 for none. -/
def stateenBit (n : Nat) : Nat :=
  if n = 0x10A ∨ n = 0x60A then 62
  else if (0x150 ≤ n ∧ n ≤ 0x157) ∨ (0x250 ≤ n ∧ n ≤ 0x257) then 60
  else if n = 0xDB0 ∨ n = 0xEB0 then 59
  else if n = 0x15C ∨ n = 0x25C then 58
  else if n = 0x10C ∨ n = 0x60C then 63
  else 64

/-- Where a CSR access goes, or the exception that it raises: 2 illegal instruction, 22 virtual instruction. -/
inductive CsrReach where
  | at (n : Nat)
  | stop (cause : Nat)
deriving DecidableEq, Repr

/-- The check of a CSR access against the hart's mode and the CSRs that control it; a guest's supervisor CSRs are its own. -/
def Hart.csrReach (g : Hart) (n : Nat) (write : Bool) : CsrReach :=
  let need := n / 256 % 4
  let counter := decide (0xC00 ≤ n) && decide (n < 0xC20)
  let k := n % 32
  let sen (c : Nat) : Bool := stateenBit n == 64 || bit (g.get c) (stateenBit n)
  let timer := n == 0x14D || n == 0x24D
  if !csrRanges.any (fun r => decide (r.1 ≤ n) && decide (n ≤ r.2)) || (write && n / 1024 == 3) then .stop 2
  else if g.priv = 3 then .at n
  else if need = 3 || !sen 0x30C || (counter && !bit (g.get 0x306) k) || (timer && !(bit (g.get 0x30A) 63 && bit (g.get 0x306) 1)) then
    .stop 2
  else if g.virt then
    if need = 2 || (need = 1 && g.priv = 0) || !sen 0x60C || (counter && !bit (g.get 0x606) k) ||
        (counter && g.priv = 0 && !bit (g.get 0x106) k) || (timer && !(bit (g.get 0x60A) 63 && bit (g.get 0x606) 1)) ||
        (n == 0x180 && bit (g.get 0x600) 20) || (n == 0x15C && g.fileOf 0x25C == none) then .stop 22
    else .at (if csrHasCopy n then n + 256 else n)
  else if (need ≠ 0 && g.priv = 0) || (counter && g.priv = 0 && !bit (g.get 0x106) k) || (n == 0x180 && bit (g.get 0x300) 20) ||
      (n == 0x25C && g.fileOf 0x25C == none) then .stop 2
  else .at n

/-- A CSR write. Read-only CSRs take nothing. A write of an interrupt file's TOPEI claims its top interrupt, and event 0x08
counts the claim of a Ticket's MSI. -/
def hartCsrWrite (s : State) (h n : Nat) (v : Word) : State :=
  s.modHart h (fun g =>
    if n / 1024 = 3 then g
    else if n = 0x100 then g.set 0x300 (masked (g.get 0x300) v sstatusMask)
    else if n = 0x104 then g.set 0x304 (masked (g.get 0x304) v (g.mideleg.toNat &&& 0x2222))
    else if n = 0x144 then g.set 0x344 (masked (g.get 0x344) v (g.mideleg.toNat &&& 0x2002))
    else if n = 0x604 then g.set 0x304 (masked (g.get 0x304) v 0x1444)
    else if n = 0x644 then g.set 0x645 (masked (g.get 0x645) v 4)
    else if n = 0x645 then g.set 0x645 (v &&& 0x444)
    else if n = 0x204 then g.set 0x304 (masked (g.get 0x304) (v <<< 1) ((g.get 0x603).toNat &&& 0x444))
    else if n = 0x244 then g.set 0x645 (masked (g.get 0x645) (v <<< 1) ((g.get 0x603).toNat &&& 4))
    else if n = 0x35C ∨ n = 0x15C ∨ n = 0x25C then
      (match g.fileOf n with
       | some f =>
         let i := g.topei f
         let g := { g with eip := nDel (256 * f + i) g.eip }
         if i ≠ 0 ∧ f = g.msiFile ∧ i = g.msiId then g.count 8 1 else g
       | none => g)
    else if n = 0x351 ∨ n = 0x151 ∨ n = 0x251 then
      (match g.fileOf n with
       | some f => g.fileWrite f (g.get (n - 1)).toNat v
       | none => g)
    else g.set n (g.legal n v))

/-- hgeip: the guest files that have an interrupt to deliver. -/
def hartHgeip (g : Hart) : Word :=
  (List.range 7).foldl (fun w i => if bit (look 0 g.edeliv (2 + i)) 0 && g.topei (2 + i) != 0 then w ||| BitVec.ofNat 64 (2 ^ (i + 1)) else w) 0

/-- The interrupt of highest priority among pending and enabled ones, as MTOPI, STOPI and VSTOPI give it. -/
def topInterrupt (w : Word) : Word :=
  match [11, 3, 7, 9, 1, 5, 12, 10, 2, 6, 13].find? (fun i => bit w i) with
  | some i => BitVec.ofNat 64 (i * 65536 + 1)
  | none => 0

/-- The machine interrupt-pending bits: those held, the timer comparisons of Sstc, and the interrupt files (R311, R314,
R315). -/
def hartMip (s : State) (h : Nat) : Word :=
  let g := s.hart h
  let time := (s.host (h / 64)).time
  let stce := bit (g.get 0x30A) 63
  let file (f : Nat) : Bool := bit (look 0 g.edeliv f) 0 && g.topei f != 0
  let held := (if stce then masked (g.get 0x344) 0 0x20 else g.get 0x344) ||| g.get 0x645
  let vgein := fld (g.get 0x600) 17 12
  held ||| (if decide (1 ≤ vgein) && decide (vgein ≤ 7) && file (1 + vgein) then 0x400 else 0) |||
    (if hartHgeip g &&& g.get 0x607 = 0 then 0 else 0x1000) ||| (if stce && decide ((g.get 0x14D).toNat ≤ time) then 0x20 else 0) |||
    (if stce && bit (g.get 0x60A) 63 && decide ((g.get 0x24D).toNat ≤ (time + (g.get 0x605).toNat) % 2 ^ 64) then 0x40 else 0) |||
    (if file 0 then 0x800 else 0) ||| (if file 1 then 0x200 else 0)

/-- What a CSR reads as. -/
def hartCsrRead (s : State) (h n : Nat) : Word :=
  let g := s.hart h
  let time := (s.host (h / 64)).time
  let mip := hartMip s h
  let dirty (w : Word) : Word := if fld w 14 13 = 3 ∨ fld w 10 9 = 3 then BitVec.ofNat 64 (2 ^ 63) else 0
  if n = 0xF14 then BitVec.ofNat 64 h
  else if n = 0x100 then (g.get 0x300 &&& BitVec.ofNat 64 sstatusMask) ||| 0x200000000 ||| dirty (g.get 0x300)
  else if n = 0x200 then g.get 0x200 ||| 0x200000000 ||| dirty (g.get 0x200)
  else if n = 0x300 then g.get 0x300 ||| 0xA00000000 ||| dirty (g.get 0x300)
  else if n = 0x303 then g.mideleg
  else if n = 0x104 then g.get 0x304 &&& g.mideleg &&& 0x2222
  else if n = 0x344 then mip
  else if n = 0x144 then mip &&& g.mideleg &&& 0x2222
  else if n = 0x604 then g.get 0x304 &&& 0x1444
  else if n = 0x644 then mip &&& 0x1444
  else if n = 0x204 then (g.get 0x304 &&& g.get 0x603 &&& 0x444) >>> 1
  else if n = 0x244 then (mip &&& g.get 0x603 &&& 0x444) >>> 1
  else if n = 0xE12 then hartHgeip g
  else if n = 0xFB0 then topInterrupt (mip &&& g.get 0x304 &&& ~~~g.mideleg)
  else if n = 0xDB0 then topInterrupt (mip &&& g.get 0x304 &&& g.mideleg &&& ~~~(g.get 0x603))
  else if n = 0xEB0 then topInterrupt ((mip &&& g.get 0x304 &&& g.get 0x603 &&& 0x444) >>> 1)
  else if n = 0xC01 then BitVec.ofNat 64 (if g.virt then time + (g.get 0x605).toNat else time)
  else if n = 0xC00 ∨ (0xC02 ≤ n ∧ n ≤ 0xC0A) then g.get (n - 0x100)
  else if n = 0xDA0 then
    (List.range 8).foldl (fun w i => if bit (g.get (0x323 + i)) 63 then w ||| BitVec.ofNat 64 (2 ^ (3 + i)) else w) 0
  else if n = 0x35C ∨ n = 0x15C ∨ n = 0x25C then
    (match g.fileOf n with
     | some f => let i := g.topei f; BitVec.ofNat 64 (i * 65536 + i)
     | none => 0)
  else if n = 0x351 ∨ n = 0x151 ∨ n = 0x251 then
    (match g.fileOf n with
     | some f => g.fileRead f (g.get (n - 1)).toNat
     | none => 0)
  else g.get n

/-- What a core does between accesses. -/
def hartStep (s : State) (h : Nat) (x : HartStep) : State :=
  let reach (n : Nat) (write : Bool) (f : Nat → State) : State :=
    match (s.hart h).csrReach n write with
    | .at m => f m
    | .stop _ => s
  match x with
  | .mode p v => s.modHart h (fun g => { g with priv := if p.val = 2 then g.priv else p.val, virt := v && p.val ≤ 1 })
  | .csrWrite n v => reach n.toNat true (fun m => hartCsrWrite s h m v)
  | .csrRead n => reach n.toNat false (fun m => s.modHart h (fun g => { g with reply := (hartCsrRead s h m).setWidth 128 }))
  | .sfence asid va => if (s.hart h).virt then s else s.modHart h (fun g => { g with tlb := g.tlb.filter (fun x =>
      !((match va with
         | some a => decide (x.vbase ≤ a.toNat) && decide (a.toNat < x.vbase + x.size)
         | none => true) &&
        (match asid with
         | some n => x.asn == n.toNat && !x.global_
         | none => true))) })
  | .fenceI => s.modHart h (fun g => { g with ahead := s.moment })
  | .mtime v => if (s.hart h).priv = 3 then s.modHost (h / 64) (fun c => { c with time := v.toNat }) else s
  | .count ev n => hartEvent s h ev.toNat n
  | .run steps retired => s.modHart h (fun g =>
      let g := if bit (g.get 0x320) 0 then g else g.set 0xB00 (g.get 0xB00 + BitVec.ofNat 64 steps)
      if bit (g.get 0x320) 2 then g else g.set 0xB02 (g.get 0xB02 + BitVec.ofNat 64 retired))

/-- The exception that a step raises instead of its effect, where its mode does not allow it: a CSR access, or SFENCE.VMA
below S-mode or where TVM or VTVM forbids it. -/
def Hart.stepStop (g : Hart) (x : HartStep) : Option Nat :=
  let csr (n : Nat) (write : Bool) : Option Nat :=
    match g.csrReach n write with
    | .at _ => none
    | .stop c => some c
  match x with
  | .csrWrite n _ => csr n.toNat true
  | .csrRead n => csr n.toNat false
  | .sfence _ _ =>
    if g.priv = 3 then none
    else if g.virt then (if g.priv = 0 ∨ bit (g.get 0x600) 20 then some 22 else none)
    else if g.priv = 0 ∨ bit (g.get 0x300) 20 then some 2 else none
  | _ => none

/-- What a core does since its last access, in order, up to a step that raises an exception; and whether all were done. -/
def hartSteps (s : State) (h : Nat) (l : List HartStep) : State × Bool :=
  l.foldl (fun p x =>
    if !p.2 then p
    else match (p.1.hart h).stepStop x with
      | some c => (p.1.modHart h (fun g => { g with exc := c, excVal := 0 }), false)
      | none => (hartStep (p.1.modHart h (fun g => { g with exc := 0 })) h x, true)) (s, true)

/-! ### Physical memory protection (R311) -/

/-- The range that a PMP entry matches. -/
def Hart.pmpRange (g : Hart) (i : Nat) : Option (Nat × Nat) :=
  let a (k : Nat) : Nat := (g.get (0x3B0 + k)).toNat
  match g.pmpCfg i / 8 % 4 with
  | 1 => some ((if i = 0 then 0 else a (i - 1) / 1024 * 4096), a i / 1024 * 4096)
  | 3 =>
    let v := a i ||| 0x1FF
    let ones := ((List.range 54).find? (fun k => !v.testBit k)).getD 54
    some (v / 2 ^ (ones + 1) * 2 ^ (ones + 3), v / 2 ^ (ones + 1) * 2 ^ (ones + 3) + 2 ^ (ones + 3))
  | _ => none

/-- Whether the protection admits an access of privilege `priv` to a physical range. -/
def Hart.pmpOk (g : Hart) (priv a n : Nat) (acc : Acc) : Bool :=
  match (List.range 16).findSome? (fun i =>
    match g.pmpRange i with
    | some (lo, hi) => if lo < a + n ∧ a < hi then some (g.pmpCfg i, decide (lo ≤ a) && decide (a + n ≤ hi)) else none
    | none => none) with
  | none => priv == 3
  | some (c, whole) =>
    whole && ((priv == 3 && !c.testBit 7) ||
      (match acc with
       | .r => c.testBit 0
       | .x => c.testBit 2
       | .w => c.testBit 1
       | .a => c.testBit 0 && c.testBit 1))

/-! ### Translation (R242, R243, R312) -/

/-- The privilege and virtualization under which an access is made: loads and stores follow MPRV. -/
def Hart.effective (g : Hart) (acc : Acc) : Nat × Bool :=
  let st := g.get 0x300
  if g.priv = 3 ∧ acc ≠ .x ∧ bit st 17 then (fld st 12 11, bit st 39 && fld st 12 11 != 3) else (g.priv, g.virt)

/-- Whether a first-stage leaf permits an access. -/
def leafPermits (priv : Nat) (sum mxr : Bool) (acc : Acc) (pte : Word) : Bool :=
  (if priv = 0 then bit pte 4 else !bit pte 4 || (sum && acc != .x)) &&
    (match acc with
     | .r => bit pte 1 || (mxr && bit pte 3)
     | .x => bit pte 3
     | .w | .a => bit pte 2)

/-- The bits of a leaf by which a cached translation is checked. -/
def Xlat.bits (x : Xlat) : Word := pack [(1, 1, b2n x.r), (2, 1, b2n x.w), (3, 1, b2n x.x), (4, 1, b2n x.u)]

/-- The exception cause of a walk's end. -/
def PageFault.cause (f : PageFault) (acc : Acc) : Nat :=
  let k := match acc with
    | .x => 0
    | .r => 1
    | .w | .a => 2
  match f with
  | .access => natAt [1, 5, 7] k
  | .page => natAt [12, 13, 15] k
  | .guest => natAt [20, 21, 23] k
  | .poison => 19

/-- One page of a hart's access: its physical address and whether it is non-cacheable, an exception, or a wait. -/
inductive HartPage where
  | ok (pa : Nat) (nc : Bool)
  | fault (cause : Nat)
  | wait
deriving DecidableEq, Repr

/-- A hart's translation of an address. A cached translation that permits the access serves it, and else the tables are
walked; what a guest's two stages give is not cached (log entry 154). -/
def hartXlat (s : State) (h va : Nat) (acc : Acc) : State × HartPage :=
  let g := s.hart h
  let (priv, virt) := g.effective acc
  let root := g.get (if virt then 0x280 else 0x180)
  let st := g.get 0x300
  let vst := g.get (if virt then 0x200 else 0x300)
  let k1 : Walker := {
    allow := fun a w => g.pmpOk 1 a 8 (if w then .w else .r)
    leafOk := leafPermits priv (bit vst 18) (bit st 19 || bit vst 19) acc
    write := acc.writes
    adue := bit (g.get (if virt then 0x60A else 0x30A)) 61
    pbmte := bit (g.get (if virt then 0x60A else 0x30A)) 62
    asid := fld root 59 44 }
  let k2 : Walker := { k1 with
    leafOk := leafPermits 0 false (bit st 19) acc, adue := bit (g.get 0x30A) 61, pbmte := bit (g.get 0x30A) 62 }
  if priv = 3 then (s, .ok va false)
  else
    let hit := if virt then none else g.tlb.find? (fun x => x.covers k1.asid va && (!acc.writes || x.d) && k1.leafOk x.bits)
    match hit with
    | some x => (s, .ok (x.pa va) (x.pbmt != 0))
    | none =>
      let w := if virt then twoStage s k1 k2 (fld root 63 60) (fld root 43 0) (fld (g.get 0x680) 63 60) (fld (g.get 0x680) 43 0) va
        else firstStage s k1 Walked.same (fld root 63 60) (fld root 43 0) va
      match w.out with
      | .wait => (s, .wait)
      | .fault f => (applyWalk s w, .fault (f.cause acc))
      | .ok x _ =>
        if w.reads.isEmpty then (s, .ok w.dest false)
        else
          let s := if acc = .x then s else hartEvent s h 6 1
          let s := applyWalk s w
          let s := if virt then s else s.modHart h (fun g => { g with tlb := x :: g.tlb.filter (fun y => !(y.covers x.asn x.vbase)) })
          (s, .ok w.dest (x.pbmt != 0))

/-- What a hart's access reaches: physical pieces, one for each page where it is translated, an exception with its cause and
the address that it names, or a wait. -/
inductive HartReach where
  | ok (l : List (Nat × Nat)) (nc : Bool)
  | fault (cause va : Nat)
  | wait
deriving DecidableEq, Repr

/-- Translates a hart's access and checks the protection (R311, R312). -/
def hartReach (s : State) (h va n : Nat) (acc : Acc) : State × HartReach :=
  let g := s.hart h
  let priv := (g.effective acc).1
  let pages := if priv = 3 then [(va, n)] else pagePieces va n
  pages.foldl (fun st p =>
    match st.2 with
    | .fault _ _ | .wait => st
    | .ok l nc =>
      match hartXlat st.1 h p.1 acc with
      | (s, .wait) => (s, .wait)
      | (s, .fault c) => (s, .fault c p.1)
      | (s, .ok pa u) =>
        if g.pmpOk priv pa p.2 acc then (s, .ok (l ++ [(pa, p.2)]) (nc || u))
        else (s, .fault (PageFault.access.cause acc) p.1)) (s, .ok [] false)

/-! ### Cache-block operations (R300) -/

/-- The exception that a cache-block operation raises in the hart's mode: illegal instruction, or virtual instruction in a
guest, where the environment configurations above it do not enable it. `f` tells of one of them whether it does. -/
def Hart.cboStop (g : Hart) (f : Word → Bool) : Option Nat :=
  if g.priv = 3 then none
  else if !f (g.get 0x30A) then some 2
  else if g.virt then (if !f (g.get 0x60A) || (g.priv == 0 && !f (g.get 0x10A)) then some 22 else none)
  else if g.priv = 0 ∧ !f (g.get 0x10A) then some 2
  else none

end Sys2Proof.Machine
end

