-- ==== Sys2Proof/Machine/Iommu.lean ====
section
/-! DEFINITION. The port domain of a Campanile die: root ports, the APLIC for their legacy interrupts, and the IOMMU (R314, R316,
R325, R326). Registers and tables are those of the RISC-V IOMMU and AIA specifications (PRESUMED, log entry 155). -/

namespace Sys2Proof.Machine

/-- A register of a die's IOMMU. -/
def HostDie.io (c : HostDie) (off : Nat) : Word := look 0 c.iommu off

/-! ### The APLIC (R314) -/

/-- A register of a die's APLIC; the supervisor domain's lie 0x4000 above the machine domain's. -/
def HostDie.ap (c : HostDie) (off : Nat) : Nat := look 0 c.aplic off

/-- The source of a port's interrupt pin. -/
def intxSource (port pin : Nat) : Nat := 4 * port + pin + 1

/-- A legacy interrupt message: the pin's level is held, and an asserted pin whose source is active and enabled sends the
MSI of the source's target in its domain. -/
def intxMessage (s : State) (d port pin : Nat) (level : Bool) : State :=
  let c := s.host d
  let src := intxSource port pin
  let root := c.ap (4 * src)
  let base := if root.testBit 10 then 0x4000 else 0
  let target := c.ap (base + 0x3000 + 4 * src)
  let on := bit (BitVec.ofNat 64 (c.ap base)) 8 && (c.ap (base + 4 * src)) % 8 != 0 &&
    (c.ap (base + 0x1E00 + 4 * (src / 32))).testBit (src % 32)
  let p := look {} c.ports port
  let s := s.modHost d (fun c => { c with ports := put {} c.ports port { p with
    intx := if level then p.intx ||| 2 ^ pin else p.intx &&& Nat.xor 0xF (2 ^ pin) } })
  if level && on && !p.intx.testBit pin then
    sendMsi s (64 * d + target / 2 ^ 18 % 64) (if base = 0 then 0 else 1 + target / 2 ^ 12 % 64 % 8) (target % 256)
  else s

/-- A write of an APLIC register: SETIENUM and CLRIENUM change one enable, and the others hold what is written. -/
def aplicWrite (c : HostDie) (off v : Nat) : HostDie :=
  let base := off / 0x4000 * 0x4000
  let enable (b : Bool) : HostDie :=
    let reg := base + 0x1E00 + 4 * (v % 1024 / 32)
    let old := c.ap reg
    { c with aplic := put 0 c.aplic reg (if b then old ||| 2 ^ (v % 32) else old &&& Nat.xor 0xFFFFFFFF (2 ^ (v % 32))) }
  if off % 0x4000 = 0x1EDC then enable true
  else if off % 0x4000 = 0x1FDC then enable false
  else { c with aplic := put 0 c.aplic off v }

/-! ### The IOMMU (R326) -/

/-- The queue of a base register: its address and its number of entries. -/
def ioQueue (b : Word) : Nat × Nat := (fld b 53 10 * 4096, 2 ^ (fld b 4 0 + 1))

/-- One command of the command queue: an invalidation empties the cache, and IOFENCE.C writes its data. -/
def ioCommand (s : State) (d : Nat) (a b : Word) : State :=
  match fld a 6 0 with
  | 1 | 3 => s.modHost d (fun c => { c with iotlb := [] })
  | 2 => if bit a 10 then memWrite s .other (fld b 61 0 * 4) (leBytes 4 (fld a 63 32)) false else s
  | _ => s

/-- The commands up to the tail are taken, where the command queue is on. -/
def ioCommands (s : State) (d : Nat) : State :=
  let c := s.host d
  if !bit (c.io 72) 0 then s
  else
    let q := ioQueue (c.io 24)
    let head := (c.io 32).toNat % q.2
    let n := ((c.io 36).toNat % q.2 + q.2 - head) % q.2
    let s := iter n (fun i s =>
      let a := q.1 + 16 * ((head + i) % q.2)
      ioCommand (memTouch s a 16) d (memRead64 s a) (memRead64 s (a + 8))) s
    s.modHost d (fun c => { c with iommu := put 0 c.iommu 32 (BitVec.ofNat 64 ((head + n) % q.2)) })

/-- A write of an IOMMU register: capabilities, CQH and FQT are read-only, an unlisted DDTP mode leaves it, a queue that is
enabled is on, and the tail of the command queue starts its commands. -/
def iommuWrite (s : State) (d off : Nat) (v : Word) : State :=
  let set (v : Word) : State := s.modHost d (fun c => { c with iommu := put 0 c.iommu off v })
  match off with
  | 0 | 32 | 52 => s
  | 16 => if fld v 3 0 ≤ 4 then set (v &&& 0x3FFFFFFFFFFC0F) else s
  | 36 => ioCommands (set v) d
  | 72 | 76 => set ((v &&& 3) ||| (if bit v 0 then 0x10000 else 0))
  | 84 => set ((s.host d).io 84 &&& ~~~v)
  | _ => set v

/-- What happens at the ports before a device's request. -/
def portStep (s : State) (d : Nat) (x : PortStep) : State :=
  match x with
  | .iommu off v => iommuWrite s d off.toNat v
  | .aplic off v => s.modHost d (fun c => aplicWrite c off.toNat v.toNat)
  | .config p off v => s.modHost d (fun c =>
      let k := look {} c.ports p.val
      { c with ports := put {} c.ports p.val { k with cfg := put 0 k.cfg off.toNat v } })
  | .intx p pin level => intxMessage s d p.val pin.val level

def portSteps (s : State) (d : Nat) (l : List PortStep) : State := forAll l (fun x s => portStep s d x) s

/-- A fault is recorded in the fault queue where it is on and has room; a full one sets FQOF. -/
def ioFault (s : State) (d dev cause ttyp iova : Nat) : State :=
  let c := s.host d
  let q := ioQueue (c.io 40)
  let tail := (c.io 52).toNat % q.2
  if !bit (c.io 76) 0 then s
  else if (tail + 1) % q.2 = (c.io 48).toNat % q.2 then
    s.modHost d (fun c => { c with iommu := put 0 c.iommu 76 (c.io 76 ||| 0x200) })
  else
    let s := memWrite s .other (q.1 + 32 * tail) (leBytes 8 (cause + ttyp * 2 ^ 34 + dev * 2 ^ 40) ++ leBytes 8 0 ++ leBytes 8 iova ++ leBytes 8 0) false
    s.modHost d (fun c => { c with
      iommu := put 0 (put 0 c.iommu 52 (BitVec.ofNat 64 ((tail + 1) % q.2))) 84 (if bit (c.io 76) 1 then c.io 84 ||| 2 else c.io 84) })

/-- Where a device's context lies, or the cause that there is none. -/
inductive DcRes where
  | ok (pa : Nat)
  | fault (cause : Nat)
deriving DecidableEq, Repr

/-- The device directory from a table at a level down: contexts of 64 bytes (MSI translation in flat mode). -/
def dcFrom (s : State) (dev : Nat) : Nat → Nat → DcRes
  | 0, table => let pa := table + 64 * (dev % 64)
                if inUnifiedLine s pa then .ok pa else .fault 257
  | l + 1, table =>
    let pa := table + 8 * (dev / 2 ^ (6 + 9 * l) % 512)
    if !inUnifiedLine s pa then .fault 257
    else
      let e := memRead64 s pa
      if !bit e 0 then .fault 258 else dcFrom s dev l (fld e 53 10 * 4096)
where
  /-- Whether a table's line is memory without poison. -/
  inUnifiedLine (s : State) (pa : Nat) : Bool := region s pa == .unified && !memPoisoned s pa 8

/-- Bits of `x` under a mask, packed together from the lowest. -/
def extractBits (x mask : Nat) : Nat :=
  ((List.range 64).foldl (fun (r : Nat × Nat) i => if mask.testBit i then (r.1 + b2n (x.testBit i) * 2 ^ r.2, r.2 + 1) else r) (0, 0)).1

/-- Where a device's request goes: to memory, to an interrupt file of a hart, nowhere, or it waits. -/
inductive DevReach where
  | mem (pa : Nat)
  | msi (page : Nat)
  | fault (cause : Nat)
  | wait
deriving DecidableEq, Repr

/-- The rights of a device's walk: every leaf must be a user's. -/
def devWalker (write sade gade : Bool) : Walker × Walker :=
  let k : Walker := { allow := fun _ _ => true, leafOk := leafDev write, write := write, adue := sade, pbmte := true, asid := 0 }
  (k, { k with adue := gade })
where
  /-- Whether a leaf permits a device's access. -/
  leafDev (write : Bool) (pte : Word) : Bool := bit pte 4 && (if write then bit pte 2 else bit pte 1)

/-- The translation of one device request by the context at `dc` (R326). -/
def dcXlat (s : State) (d dev va dc : Nat) (write : Bool) : State × DevReach :=
  let w (i : Nat) : Word := memRead64 s (dc + 8 * i)
  let tc := w 0
  if !bit tc 0 then (s, .fault 258)
  else
    match (s.host d).iotlb.find? (fun p => p.1 == dev && p.2.covers 0 va && (!write || p.2.d && p.2.w) && (write || p.2.r)) with
    | some p => (s, .mem (p.2.pa va))
    | none =>
      let ks := devWalker write (bit tc 8) (bit tc 7)
      let g := w 1
      let first := w 3
      let a := firstStage s ks.1 (secondStage s { ks.2 with write := false } (fld g 63 60) (fld g 43 0)) (fld first 63 60) (fld first 43 0) va
      let page := a.dest / 4096
      let mask := fld (w 5) 51 0
      let isMsi := fld (w 4) 63 60 == 1 && Nat.xor page (fld (w 6) 51 0) &&& Nat.xor (2 ^ 52 - 1) mask == 0
      match a.out with
      | .wait => (s, .wait)
      | .fault f => (applyWalk s a, .fault (devCause f))
      | .ok _ _ =>
        if isMsi && write then
          let pa := fld (w 4) 43 0 * 4096 + 16 * extractBits page mask
          let e := memRead64 s pa
          let s := applyWalk s a
          if region s pa ≠ .unified then (s, .fault 261)
          else if !bit e 0 then (s, .fault 262)
          else if fld e 2 1 ≠ 3 then (s, .fault 263)
          else (memTouch s pa 8, .msi (fld e 53 10))
        else
          let t := twoStage s ks.1 ks.2 (fld first 63 60) (fld first 43 0) (fld g 63 60) (fld g 43 0) va
          match t.out with
          | .wait => (s, .wait)
          | .fault f => (applyWalk s t, .fault (devCause f))
          | .ok x _ =>
            let s := applyWalk s t
            if t.reads.isEmpty then (s, .mem t.dest)
            else if (stageLevels (fld g 63 60)).isNone then
              (s.modHost d (fun c => { c with iotlb := (dev, { x with asn := 0 }) :: c.iotlb }), .mem t.dest)
            else (s, .mem t.dest)
where
  /-- The cause that the fault queue records. -/
  devCause (f : PageFault) : Nat :=
    match f with
    | .access => if write then 7 else 5
    | .page => if write then 15 else 13
    | .guest => if write then 23 else 21
    | .poison => 274

/-- A device's request through its die's IOMMU: DDTP off refuses it, and bare passes it on. -/
def ioReach (s : State) (d dev va : Nat) (write : Bool) : State × DevReach :=
  let ddtp := (s.host d).io 16
  let mode := fld ddtp 3 0
  if mode = 0 then (s, .fault 256)
  else if mode = 1 then (s, .mem va)
  else if 2 ^ (6 + 9 * (mode - 2)) ≤ dev then (s, .fault 260)
  else match dcFrom s dev (mode - 2) (fld ddtp 53 10 * 4096) with
    | .fault c => (s, .fault c)
    | .ok dc => if memWaits s dc 64 then (s, .wait) else dcXlat (memTouch s dc 64) d dev va dc write

end Sys2Proof.Machine
end

