-- ==== Sys2Proof/Machine/LocalAccess.lean ====
section
/-! DEFINITION. Scalar loads and stores of the tile store or scratch (R75, R77, R193). -/

namespace Sys2Proof.Machine

/-- The address of a scalar access: S[SRC1] plus the sign-extended IMM, modulo 2^64 (R75). -/
def scalarAddr (s : State) (who : Agent) (w : Word) : Nat := (agS s who (wS1 w) + wImmS w).toNat

/-- A loaded value of `n` bytes, sign- or zero-extended (R75). -/
def extendLoad (n : Nat) (signed : Bool) (v : Nat) : Word :=
  if signed then BitVec.ofInt 64 (sextN (8 * n) v) else BitVec.ofNat 64 v

/-- LDL of `n` bytes (R75, R77). A poisoned row is reported at the base address (log entry 135). -/
def localLoad (s : State) (opc n : Nat) (signed : Bool) (o : MOp) : State :=
  let w := mkWord opc 0 o
  single s o.who w (fun en =>
    let a := agAddr o.who (scalarAddr s o.who w)
    match lowestOut (agLocal o.who) [(a, n)] with
    | some x => agRaise s o.who en 0x02 x
    | none =>
      let s := agSense s o.who a n
      if agPois s o.who a n then agRaise s o.who en 0x20 a
      else agDone (agPutS s o.who (wDst w) (extendLoad n signed (leNat (agRead s o.who a n)))) o.who en 128)

/-- STL of `n` bytes (R75, R77). -/
def localStore (s : State) (opc n : Nat) (o : MOp) : State :=
  let w := mkWord opc 0 o
  single s o.who w (fun en =>
    let a := agAddr o.who (scalarAddr s o.who w)
    match lowestOut (agLocal o.who) [(a, n)] with
    | some x => agRaise s o.who en 0x02 x
    | none =>
      agDone (agWrite s o.who [{ addr := a, bytes := leBytes n (agS s o.who (wS2 w)).toNat }]) o.who en 128)

/-- LDL.B (R75, R77). -/
def execLdlB (o : MOp) (s : State) : Out := .next (localLoad s 0x50 1 true o)

/-- LDL.H (R75, R77). -/
def execLdlH (o : MOp) (s : State) : Out := .next (localLoad s 0x51 2 true o)

/-- LDL.W (R75, R77). -/
def execLdlW (o : MOp) (s : State) : Out := .next (localLoad s 0x52 4 true o)

/-- LDL.D (R75, R77). -/
def execLdlD (o : MOp) (s : State) : Out := .next (localLoad s 0x53 8 true o)

/-- LDL.BU (R75, R77). -/
def execLdlBu (o : MOp) (s : State) : Out := .next (localLoad s 0x54 1 false o)

/-- LDL.HU (R75, R77). -/
def execLdlHu (o : MOp) (s : State) : Out := .next (localLoad s 0x55 2 false o)

/-- LDL.WU (R75, R77). -/
def execLdlWu (o : MOp) (s : State) : Out := .next (localLoad s 0x56 4 false o)

/-- STL.B (R75, R77). -/
def execStlB (o : MOp) (s : State) : Out := .next (localStore s 0x58 1 o)

/-- STL.H (R75, R77). -/
def execStlH (o : MOp) (s : State) : Out := .next (localStore s 0x59 2 o)

/-- STL.W (R75, R77). -/
def execStlW (o : MOp) (s : State) : Out := .next (localStore s 0x5A 4 o)

/-- STL.D (R75, R77). -/
def execStlD (o : MOp) (s : State) : Out := .next (localStore s 0x5B 8 o)

end Sys2Proof.Machine
end

