-- ==== Sys2Proof/Machine/Hold.lean ====
section
/-! DEFINITION. The Signal Boxes and the keepers: takeover, safe-hold and its release, the relief controller, and host
resets (R166, R191, R317, R369–R378). -/

namespace Sys2Proof.Machine

/-- Changes what the Signal Boxes and keepers hold. -/
def modSig (s : State) (f : Signal → Signal) : State := { s with sig := f s.sig }

/-- Changes the Signal Box of a Terminus. -/
def modSb (s : State) (t : Nat) (f : SigBox → SigBox) : State :=
  modSig s (fun g => if t = 0 then { g with sb0 := f g.sb0 } else { g with sb1 := f g.sb1 })

/-- The lowest-numbered working Concourse. -/
def lowestCc (s : State) : Nat := (firstBelow 4 (fun cc => !s.sig.failedDies.testBit (siteCC cc))).getD 0

/-- The hold notice (R375). -/
def holdNotice (s : State) : List Byte :=
  leBytes 2 s.pkgId ++ leBytes 1 2 ++ leBytes 1 s.sig.refusal ++ leBytes 4 0 ++ leBytes 8 s.sig.logHead ++ leBytes 48 0

/-- Whether the package is in service, in idle included. -/
def inService (s : State) : Bool := s.pkg.pwr == .running || s.pkg.pwr == .idle || s.pkg.pwr == .enteringIdle

/-! ### Safe-hold (R375, R376) -/

/-- Which atomics their units have accepted is free: those are performed, and the others wait for the release (R191). -/
def atomicsHeld (s : State) : State :=
  let p := s.fresh
  if s.atomics.isEmpty then s
  else { p.2 with atomics := s.atomics.map (fun x => (x.1, { x.2 with atUnit := x.2.fault.isNone && Config.freeBool p.1 x.1 })) }

/-- The keepers enter safe-hold, for a refusal code where it is not 0. -/
def enterHold (s : State) (refusal : Nat) : State :=
  if s.holding then s
  else
    let running := (s.engines.filter (fun p => p.2.state == .running)).map Prod.fst
    let s := modSig s (fun g => { g with
      keeper := if refusal = 0 then .hold else .holdRefused
      refusal := refusal, holds := g.holds + 1, restarted := 0, heldRunning := running, reliefHart := none, reliefAsk := none
      reliefResult := if g.reliefHart.isSome then 0 else g.reliefResult })
    let s := { s with pkg := { s.pkg with pwrgd := false }, sec := { s.sec with meas := tabDel 6 s.sec.meas } }
    let s := forAll running (fun e s => settle (s.modEng e (fun g => g.park .keeper)) e) s
    let s := forAll (s.streams.map Prod.fst) (fun st s => pauseStream s st 6 1) s
    let s := forAll (s.launches.map Prod.fst) (fun k s => finishLaunch s k false) s
    let s := atomicsHeld s
    let s := keeperNotify s (lowestCc s) (holdNotice s)
    tdSendFrame s (.hold (holdNotice s))

/-- A host reset is taken up: the die's stores and dirty lines reach the homes, and the core complex resets (R317). A
relief controller on that die is lost, and the package returns to hold (R377). -/
def hostResetTake (s : State) (d : Nat) : State :=
  let s := (hostSweep s d).modHost d (fun c => { c with resetting := true, resetHeld := false })
  match s.sig.reliefHart with
  | some h => if h / 64 = d then enterHold s 0 else s
  | none => s

/-- A host reset is requested. It merges into one in progress, waits while no Signal Box works, and does nothing to a
failed die or outside service (R317, R319, R375). -/
def hostResetAsk (s : State) (d : Nat) : State :=
  let c := s.host d
  if c.failed || c.resetting || !inService s then s
  else if !sbWorks s then s.modHost d (fun c => { c with resetHeld := true })
  else hostResetTake s d

/-- An engine that parked for the hold and ran before it goes on. -/
def holdResume (s : State) (e : Nat) : State :=
  let g := s.eng e
  if g.cause != .keeper then s
  else match g.state with
    | .parking => s.modEng e (fun g => { g with state := .running, cause := .none, finishing := [] })
    | .parked => settle (resumeEngine s e 0) e
    | _ => s

/-- A release (R376): engines, paused work and acceptance. -/
def releaseHold (s : State) (relief : Bool) : State :=
  let running := s.sig.heldRunning
  let s := modSig s (fun g => { g with keeper := if relief then .relief else .watching, heldRunning := [] })
  let s := forAll running (fun e s => holdResume s e) s
  let s := forAll (s.streams.map Prod.fst)
    (fun st s => wakeStream (s.modStream st (fun t => { t with hold := t.hold &&& 1 })) st) s
  let s := forAll s.launches (fun p s =>
    finishLaunch (if p.2.paused == some 6 then continueLaunch s p.1 else s) p.1 false) s
  let s := forAll [0, 1, 2, 3] (fun cc s => s.modPc cc (fun c => c.next false)) s
  let s := { advanceExpects s with atomics := s.atomics.map (fun x => (x.1, { x.2 with atUnit := false })) }
  let s := forAll [0, 1] (fun d s => if (s.host d).resetHeld then hostResetTake s d else s) s
  let s := if !s.td.enable && s.td.state == 4 then tdLeave s else s
  sbFlush s.sig.cmds s

/-- The Signal Box of Terminus `t` becomes active (R373, R376). -/
def takeOver (s : State) (t : Nat) : State :=
  let s := logbook (modSb s t (fun b => { b with role := .active }))
  modSig s (fun g => { g with takeovers := satN 0xFFFF (g.takeovers + 1) })

/-- A Signal Box restarted by the keepers starts cleanly or not; each is restarted once in a hold (R376). The memory
clock must be there (R434). -/
def restartSb (s : State) (t : Nat) (clean : Bool) : State :=
  if s.sig.keeper ≠ .hold ∨ s.sig.restarted.testBit t ∨ termFailed s t ∨ !s.pkg.clocks.testBit 0 then s
  else
    let s := modSig s (fun g => { g with restarted := g.restarted ||| 2 ^ t })
    if !clean || (s.fwOf t).failed.testBit 0 then modSb s t (fun b => { b with role := .failed })
    else
      let other := sbOf s (1 - t)
      let s := if other.role == .active then modSb s (1 - t) (fun b => { b with role := .standby }) else s
      releaseHold (takeOver s t) false

/-! ### Failure of a Signal Box (R370–R374) -/

/-- A Signal Box is declared failed. The standby takes over from an active one and marks its Terminus for service; with
none left the keepers hold safe. -/
def sbFail (s : State) (t : Nat) : State :=
  let b := sbOf s t
  if b.role == .failed then s
  else
    let s := modSb s t (fun b => { b with role := .failed })
    if (sbOf s (1 - t)).role == .failed then enterHold s 0
    else if b.role == .active then
      let s := takeOver s (1 - t)
      modSig s (fun g => { g with serviceDies := g.serviceDies ||| 2 ^ siteTM t })
    else logbook s

/-- A pair disagrees: it restarts from the logbook; a second mismatch of the same pair within 1 s, counted in the box's
milliseconds, fails the whole box (R370). -/
def pairMismatch (s : State) (t pair : Nat) : State :=
  let b := sbOf s t
  if b.role == .failed then s
  else
    let last := look 0 b.recentAt pair
    let again := last != 0 && decide (b.progress < last + 999)
    let s := modSb s t (fun b => { b with
      restarts := satN 0xFFFF (b.restarts + 1), recentAt := put 0 b.recentAt pair (b.progress + 1)
      pairsOk := if again then b.pairsOk &&& (15 - 2 ^ pair) else b.pairsOk })
    if again then sbFail s t else s

/-- A progress counter has not advanced for WATCH_MS. With both boxes failed and a relief controller at work, the counter
is the relief controller's (R372, R377). -/
def watchTimeout (s : State) (t : Nat) : State :=
  if s.sig.keeper == .relief then (if (sbOf s t).role == .failed then reliefLost s else sbFail s t)
  else sbFail s t
where
  reliefLost (s : State) : State :=
    let d := match s.sig.reliefHart with
      | some h => h / 64
      | none => 0
    enterHold (s.modHost d (fun c => { c with relief := none })) 0

/-! ### The relief controller (R377) -/

/-- A write of KP_RELIEF: the designation begins, or its refusal shows in RELIEF_RESULT. A hold that came from a refusal,
which no relief controller may end (R376), is refused as no hold (log entry 160). -/
def reliefWrite (s : State) (cc hart image : Nat) : State :=
  let result :=
    if s.sig.reliefAsk.isSome || s.sig.keeper == .relief then 6
    else if s.sig.keeper ≠ .hold then 4
    else if !s.feat 11 then 5
    else if termFailed s 0 && termFailed s 1 then 3
    else 0
  if result ≠ 0 then modSig s (fun g => { g with reliefResult := result })
  else modSig s (fun g => { g with reliefAsk := some (cc, hart, image) })

/-- A Terminus root of trust checks the image: with a verified one the core restarts in it and the hold is released. -/
def reliefStart (s : State) (c : SigCheck) : State :=
  match s.sig.reliefAsk with
  | none => s
  | some (_, hart, image) =>
    let d := hart / 64
    let digest := reliefFound s (if termFailed s 0 then 1 else 0) image c
    let s := modSig (imageTouch s image) (fun g => { g with reliefAsk := none })
    match digest with
    | none => modSig s (fun g => { g with reliefResult := 2 })
    | some x =>
      let s := coreRestart s hart
      let s := s.modHost d (fun c => { c with relief := some hart })
      let s := modSig s (fun g => { g with
        reliefResult := 1, reliefHart := some hart, reliefStore := some d, reliefs := g.reliefs + 1 })
      releaseHold { s with sec := { s.sec with meas := put 0 s.sec.meas 6 (x + 1) } } true

/-! ### Commands (R378) -/

/-- HOST_RESET as the Signal Box performs it. -/
def hostResetCommand (s : State) : State :=
  match sbFront s 2 with
  | none => s
  | some (c, s) =>
    let s := hostResetAsk (sbEnd (sbReply s c 1) c 0) c.arg
    sbFlush s.sig.cmds s

/-- SWITCH: the standby takes over with no Signal Box failed, and the former active one stands by; refused without a
standby. -/
def switchCommand (s : State) : State :=
  match sbFront s 4 with
  | none => s
  | some (c, s) =>
    let s :=
      if s.sig.sb0.role == .active && s.sig.sb1.role == .standby then
        sbEnd (sbReply (takeOver (modSb s 0 (fun b => { b with role := .standby })) 1) c 1) c 0
      else if s.sig.sb1.role == .active && s.sig.sb0.role == .standby then
        sbEnd (sbReply (takeOver (modSb s 1 (fun b => { b with role := .standby })) 0) c 1) c 0
      else sbRefuse s c
    sbFlush s.sig.cmds s

/-! ### The rows -/

/-- CP_RESET_N. -/
def execCpResetN (d : Fin 2) (s : State) : Out := .next (hostResetAsk s d)

/-- HOST_RESET. -/
def execHostReset (s : State) : Out := .next (hostResetCommand s)

/-- SB_PAIR_MISMATCH. -/
def execSbPairMismatch (sb : Fin 2) (pair : Fin 4) (s : State) : Out := .next (pairMismatch s sb pair)

/-- SB_PROGRESS_TICK. -/
def execSbProgressTick (sb : Fin 2) (s : State) : Out :=
  .next (if (sbOf s sb).role == .failed then s else modSb s sb (fun b => { b with progress := b.progress + 1 }))

/-- SB_WATCH_TIMEOUT. -/
def execSbWatchTimeout (sb : Fin 2) (s : State) : Out := .next (watchTimeout s sb)

/-- HOLD_RELEASE. -/
def execHoldRelease (sb : Fin 2) (clean : Bool) (s : State) : Out := .next (restartSb s sb clean)

/-- KP_RELIEF. -/
def execKpRelief (cc : Fin 4) (hart : Fin 128) (image : Nat) (s : State) : Out := .next (reliefWrite s cc hart image)

/-- RELIEF_CORE_START. -/
def execReliefCoreStart (chk : SigCheck) (s : State) : Out := .next (reliefStart s chk)

/-- SWITCH. -/
def execSwitch (s : State) : Out := .next (switchCommand s)

end Sys2Proof.Machine
end

