-- ==== Sys2Proof/Machine/Quarantine.lean ====
section
/-! DEFINITION. Inspection, quarantine of a Spire, unplaced engines, and the loss of a Spire or Terminus (R30, R65,
R362–R368). -/

namespace Sys2Proof.Machine

/-! ### Dies -/

/-- A die is reported quarantined or failed, with its state in the consist record, and needing service. -/
def markDie (s : State) (site st : Nat) : State :=
  modSig (s.modIdent site (fun i => { i with state := st })) (fun g =>
    { g with failedDies := g.failedDies ||| 2 ^ site, serviceDies := g.serviceDies ||| 2 ^ site })

/-- A die needs service. -/
def needService (s : State) (site : Nat) : State := modSig s (fun g => { g with serviceDies := g.serviceDies ||| 2 ^ site })

/-- Whether an engine lies on a Spire. -/
def liesOn (s : State) (sp e : Nat) : Bool := !(s.eng e).unplaced && physSlot s e / 36 == sp

/-- A free spare slot for an engine: on its own Spire if one is free there, else on another (R62 step 1). -/
def freeSpare (s : State) (e : Nat) : Option Nat :=
  let own := physSlot s e / 36
  match firstBelow 36 (fun i => slotFree s (36 * own + i)) with
  | some i => some (36 * own + i)
  | none => firstBelow 288 (slotFree s)

/-! ### Unplaced engines (R362) -/

/-- The engine loses its slot. Until it is placed again it reads PARKED with CAUSE software; its context lies in the
context store. -/
def unplace (s : State) (e : Nat) : State :=
  let s := pauseStream (pauseStream (cleanScalar s e) (2 * e) 5 0) (2 * e + 1) 5 0
  let s := s.modEng e (fun g => { g with unplaced := true, state := .parked, cause := .software, icache := [] })
  modSig s (fun g => { g with unplaced := g.unplaced ++ [e], ctxStore := some (g.ctxStore.getD (ctxPlace s 12)) })

/-- The oldest unplaced engine goes to a free slot. It stays PARKED, and what was held for it takes effect. -/
def placeOldest (s : State) (slot : Nat) : State :=
  match s.sig.unplaced with
  | [] => s
  | e :: rest =>
    if !sbWorks s || !slotFree s slot then s
    else
      let s := modSig (logbook (spireWake s (slot / 36))) (fun g =>
        { g with unplaced := rest, ctxStore := if rest.isEmpty then none else g.ctxStore })
      let s := s.modEng e (fun g => { g with unplaced := false, slot := if slot = spireOf e * 36 + e % 32 then none else some slot })
      let wake (st : Nat) (s : State) : State :=
        wakeStream (s.modStream st (fun t => { t with hold := t.hold &&& 2 })) st
      applyHeldCtrl (wake (2 * e + 1) (wake (2 * e) (applyHeldTc s e))) e

/-! ### Quarantine (R30, R65, R362) -/

/-- An engine that may not be moved while it runs is parked and its owner told (R65). -/
def parkForMove (s : State) (e : Nat) : State :=
  if (s.eng e).state == .running && !s.feat 7 then
    let s := parkNow (engPark s e) e
    if (s.eng e).cause == .software then sendFaultNotice s e else s
  else s

/-- One engine leaves the Spire: to a free slot, or to the context store where no slot is free. An engine that is being
reset or comes to rest first keeps those after it waiting. -/
def emptyEngine (s : State) (e : Nat) : State :=
  let g := s.eng e
  if g.state == .resetting || g.migrating.isSome then s
  else
    let s := if g.state == .parking then parkNow s e else parkForMove s e
    match freeSpare s e with
    | some slot => if mayMigrate s e slot then migrateSwitch (migrateStart s e slot) e else s
    | none => unplace (if (s.eng e).state == .running then parkNow (engPark s e) e else s) e

/-- The Signal Box quarantines a Spire and empties it, its engines in ascending order and one at a time. Where an engine
has work in flight that must come to rest, the emptying goes on when the command is given again. -/
def quarantine (s : State) (sp : Nat) : State :=
  if !sbWorks s then s
  else
    let s := if s.sig.quarantined.testBit (siteSP sp) then s
      else modSig (logbook (markDie s (siteSP sp) 2)) (fun g => { g with quarantined := g.quarantined ||| 2 ^ siteSP sp })
    forAll (List.range 256) (fun e s =>
      let busy := (List.range e).any (fun d => liesOn s sp d)
      if liesOn s sp e && !busy then emptyEngine s e else s) s

/-! ### The loss of a die (R363) -/

/-- An engine of a lost Spire: its context is gone, its work ends, and it is placed anew or left unplaced, PARKED with
the exception of R363. What its caches and store buffer alone held is lost, and those lines are poisoned. -/
def loseEngine (s : State) (e : Nat) : State :=
  let g := s.eng e
  let gone := (g.sc.filter (fun p => decide (p.2 = 2))).map Prod.fst ++
    g.own.flatMap (fun st => linesOf st.pa st.bytes.length)
  let s := forAll gone (fun l s => poisonLine s l) (dropSendRequests s e)
  let x : Exc := { queue := 1, code := 0x20, dsn := 0, addr := 0, data := 0 }
  let s := s.setEng e {
    asn := g.asn, ownerEp := g.ownerEp, notifyEn := g.notifyEn, launchSeq := g.launchSeq, slot := g.slot
    unplaced := g.unplaced, heldTc := g.heldTc, heldCtrl := g.heldCtrl, state := .parked, cause := .fault
    excs := [x], exc := some x, lastExc := x }
  let s := endSubmitted s e
  let s := modSig s (fun g => { g with lost := nIns e g.lost })
  let s := match (if g.unplaced then none else freeSpare s e) with
    | some slot =>
      if !sbWorks s then s.modEng e (fun g => { g with unplaced := true })
      else applyHeldCtrl (applyHeldTc (s.modEng e (fun g => { g with slot := some slot })) e) e
    | none => s.modEng e (fun g => { g with unplaced := true })
  let s := if (s.eng e).unplaced && !s.sig.unplaced.contains e then modSig s (fun g => { g with unplaced := g.unplaced ++ [e] }) else s
  sendFaultNotice s e

/-- A Spire fails electrically. A migration to it turns back, and contexts stored in its slots are lost with it. -/
def spireFails (s : State) (sp : Nat) : State :=
  let s := markDie s (siteSP sp) 3
  let s := iter 36 (fun i s => modSig s (fun g => { g with slots := put 0 g.slots (36 * sp + i) 6 })) s
  let s := s.modSpire sp (fun p => { p with drowse := false })
  let s := forAll (List.range 256) (fun e s =>
    match (s.eng e).migrating with
    | some t =>
      if t / 36 = sp ∧ !liesOn s sp e then migrateSwitch (s.modEng e (fun g => { g with migrating := some (physSlot s e) })) e
      else s
    | none => s) s
  let inStore (e : Nat) : Bool := (s.eng e).unplaced && s.sig.ctxStore == some 13 && physSlot s e / 36 == sp
  forAll ((List.range 256).filter (fun e => liesOn s sp e || inStore e)) (fun e s => loseEngine s e) s

/-- A Terminus fails electrically: its ports and its half of the Tandem port are down, its ring work ends, and so does
its Signal Box. -/
def terminusFails (s : State) (t : Nat) : State :=
  if termFailed s t then s
  else
    let s := markDie s (siteTM t) 3
    let s := forAll [0, 1, 2, 3] (fun i s => s.modPort (4 * t + i) (fun x => { x with state := 0, speed := 0 })) s
    let s := tdLanes s t false
    let s := forAll (s.remOps.filter (fun x => x.tm == t)) (fun x s => ropFinish s x.tag 3 0x0A) s
    let s := forAll (s.colls.filter (fun c => c.tm == t)) (fun c s => collFinish s c 3 0x0A c.rank) s
    sbFail s t

/-! ### Inspection (R365–R368) -/

/-- A slot under test fails: a vacant one is retired, and one that serves an IDLE engine is retired once that engine has
left it. A slot serving an engine that is not IDLE is not under test. -/
def slotFails (s : State) (n : Nat) : State :=
  match (List.range 256).find? (fun e => !(s.eng e).unplaced && physSlot s e == n) with
  | none => if slotFree s n then retireSlot s n else s
  | some e =>
    if (s.eng e).state != .idle then s
    else
      let s := modSig s (fun g => { g with failing := nIns n g.failing })
      match freeSpare s e with
      | some slot => if mayMigrate s e slot then migrateSwitch (migrateStart s e slot) e else s
      | none => needService s (siteSP (n / 36))

/-- A unit fails its test or its margin is low, and what R368 says of it follows. -/
def unitFails (s : State) (u : InspUnit) : State :=
  match u with
  | .slot n => slotFails s n
  | .cupola c =>
    if (spareOf s (dieOfUnit c)).isSome then retireChannel s c else spareSwitch s c
  | .junction t => needService s (siteTM t)
  | .bundle cc b =>
    modBundle (planRetrain s (.bundle cc b)) cc b
      (fun z => { z with planPending := z.planPending || !z.retraining })
  | .hostLink cc => planRetrain s (.host cc)
  | .channel ch => retrainStart s ch
  | .reserve _ _ _ _ => s
  | .way cc w => retireWay s cc w
  | .stair sp => quarantine s sp
  | .core d c =>
    let s := s.modHost d (fun h => { h with badCores := nIns c h.badCores })
    if 8 ≤ (s.host d).badCores.length then needService s (siteCP d) else s

/-- A test of Inspection ends, or a reserve-row check begins, whose result comes with its run (R290). One that passes leaves no trace, but a Spire that
Inspection needs leaves drowse (R394). -/
def inspect (s : State) (u : InspUnit) (pass : Bool) : State :=
  if !inspects s then s
  else
    let s := match u with
      | .slot n => spireWake s (n / 36)
      | .stair sp => spireWake s sp
      | _ => s
    match u with
    | .reserve ch slot pattern seed =>
      tgBegin s ch { pattern := pattern % 4, seed := seed, first := slot % 2 ^ 21, last := slot % 2 ^ 21 } true
    | _ => if pass then s else unitFails (logbook s) u

/-- The test of the slot that a swapped engine has left: the engine goes back, or the slot is retired (R367, R368). -/
def swapTest (s : State) (e : Nat) (pass : Bool) : State :=
  match look 0 s.sig.swapped e with
  | 0 => s
  | v + 1 =>
    if (s.eng e).migrating.isSome then s
    else if !pass then retireSlot (modSig s (fun g => { g with swapped := tabDel e g.swapped })) v
    else if mayMigrate s e v then
      migrateSwitch (migrateStart (modSig s (fun g => { g with swapped := tabDel e g.swapped })) e v) e
    else s

/-- A swap: the running engine moves to a spare, and the slot it left is tested once the move has ended. -/
def swap (s : State) (e spare : Nat) (pass : Bool) : State :=
  if !inspects s then s
  else if look 0 s.sig.swapped e ≠ 0 then swapTest s e pass
  else if !s.feat 10 || (s.eng e).state != .running || !mayMigrate s e spare then s
  else
    let s := modSig s (fun g => { g with swapped := put 0 g.swapped e (physSlot s e + 1) })
    swapTest (migrateSwitch (migrateStart s e spare) e) e pass

/-! ### The rows -/

/-- INSPECTION_TEST. -/
def execInspectionTest (u : InspUnit) (pass : Bool) (s : State) : Out := .next (inspect s u pass)

/-- INSPECTION_SWAP. -/
def execInspectionSwap (e : Fin 256) (spare : Fin 288) (pass : Bool) (s : State) : Out := .next (swap s e spare pass)

/-- SPIRE_QUARANTINE. -/
def execSpireQuarantine (sp : Fin 8) (s : State) : Out := .next (quarantine s sp)

/-- UNPLACED_ENGINE_PLACE. -/
def execUnplacedEnginePlace (slot : Fin 288) (s : State) : Out := .next (placeOldest s slot)

/-- SPIRE_FAILURE. -/
def execSpireFailure (sp : Fin 8) (s : State) : Out := .next (spireFails s sp)

/-- TERMINUS_FAILURE. -/
def execTerminusFailure (tm : Fin 2) (s : State) : Out := .next (terminusFails s tm)

end Sys2Proof.Machine
end

