-- ==== Sys2Proof/Machine/Power.lean ====
section
/-! DEFINITION. Supplies, starts, warm resets, low power, temperature and the reference clocks (R16, R31–R36, R237, R277,
R281, R283, R315, R362, R386–R404, R407–R412, R434, R435). -/

namespace Sys2Proof.Machine

/-! ### Firmware selection (R409, R410) -/

/-- What a root of trust finds in a slot: the contents that PROGRAM wrote, where it did, else what the start reports; the
manifest is accepted if its SVN is at least the fused one. -/
def fwFind (fused : Nat) (x : FwSlot) (r : FwCheck) : FwSlot :=
  let good := r.readable && r.manifestOk
  if x.known then
    { x with accepted := x.accepted && good && decide (fused ≤ x.svn), badComps := if x.accepted then r.badComps else 0 }
  else { accepted := good && decide (fused ≤ r.svn), svn := if r.readable then r.svn else 0, digest := r.digest, badComps := r.badComps }

/-- The selection of R410, and the components that a Terminus finds failed: `mask` holds those it verifies. -/
def fwSelect (f : Firmware) (ra rb : FwCheck) (mask : Nat) : Firmware :=
  let a := fwFind f.svnFused f.slotA ra
  let b := fwFind f.svnFused f.slotB rb
  let bFirst := decide (a.svn < b.svn)
  let first := if bFirst then b else a
  let other := if bFirst then a else b
  let useFirst := first.accepted
  let x := if useFirst then first else other
  { slotA := f.slotA, slotB := f.slotB, svnFused := f.svnFused
    svnActive := if x.accepted then x.svn else 0
    failed := if x.accepted then x.badComps &&& mask else 1
    fallback := !useFirst
    slot := if !x.accepted then 0 else if useFirst == bFirst then 2 else 1 }

/-- The digest of the manifest that a Terminus selected. -/
def fwDigest (f : Firmware) (ra rb : FwCheck) : Nat :=
  if f.slot = 1 then (fwFind f.svnFused f.slotA ra).digest else if f.slot = 2 then (fwFind f.svnFused f.slotB rb).digest else 0

/-! ### Identity and acceptance (R33, R35, R36, R407) -/

/-- A refusal code with the sites concerned, as bits. -/
abbrev Refused := Option (Nat × Nat)

/-- The bits of a list of sites. -/
def siteBits (l : List Nat) : Nat := l.foldl (fun m i => m ||| 2 ^ i) 0

/-- The populated sites that answer and whose Spires pass the challenge. -/
def presentSites (s : State) : List Nat :=
  (List.range 64).filter (fun i => sitePopulated i && !s.sig.quarantined.testBit i && (s.ident i).state != 3)

/-- Those of a kind, Concourse 0x00, Spire 0x08, Cupola 0x10, Campanile 0x20 or Terminus 0x28, with a stepping. -/
def withStepping (s : State) (lo n st : Nat) : List Nat :=
  (presentSites s).filter (fun i => decide (lo ≤ i) && decide (i < lo + n) && (s.ident i).stepping == st)

/-- The refusals and workarounds of the stepping table: workaround WA-0n is bit n. -/
def steppingTable (s : State) : Refused × Nat :=
  let cA1 := withStepping s 0x00 4 0x0A01
  let cB0 := withStepping s 0x00 4 0x0B00
  let sA2 := withStepping s 0x08 8 0x0A02
  let sB0 := withStepping s 0x08 8 0x0B00
  let uB0 := withStepping s 0x10 12 0x0B00
  let tA1 := withStepping s 0x28 2 0x0A01
  let tB0 := withStepping s 0x28 2 0x0B00
  let both (a b : List Nat) : Bool := !a.isEmpty && !b.isEmpty
  let r : Refused :=
    if both cA1 cB0 then some (1, siteBits (cA1 ++ cB0))
    else if both cA1 sA2 then some (2, siteBits (cA1 ++ sA2))
    else if both tA1 tB0 then some (3, siteBits (tA1 ++ tB0))
    else none
  (r, 2 * b2n (both cA1 sB0) + 4 * b2n (both cB0 sA2) + 8 * b2n (both cA1 uB0) + 16 * b2n (!tA1.isEmpty))

/-- The feature level of the dies present. -/
def featureLevel (s : State) : Nat :=
  (presentSites s).foldl (fun m i => m &&& dieFeature s i) (2 ^ 64 - 1)

/-- The refusal that the identities and answers of a start lead to, if any. -/
def identityCheck (s : State) (r : StartReport) : Refused :=
  let spire (i : Nat) : Bool := decide (0x08 ≤ i) && decide (i < 0x10)
  let of (l : List (Fin 64)) : List Nat := (l.map Fin.val).filter (fun i => sitePopulated i && (s.ident i).state != 3)
  let silent := (of r.silent).filter (fun i => !spire i)
  let bad := (of r.badChallenge).filter (fun i => !spire i)
  let noBase := (presentSites s).filter (fun i => !(dieFeature s i).testBit 0)
  let unknown := (of r.unknownStepping).filter (fun i => (presentSites s).contains i)
  if !(of r.badStrap).isEmpty then some (6, siteBits (of r.badStrap))
  else if !silent.isEmpty then some (7, siteBits silent)
  else if !bad.isEmpty then some (8, siteBits bad)
  else if !noBase.isEmpty then some (4, siteBits noBase)
  else if !unknown.isEmpty then some (5, siteBits unknown)
  else (steppingTable s).1

/-- The slots in service, in rising order. -/
def slotsInService (s : State) : List Nat :=
  (List.range 288).filter (fun n =>
    let v := look 0 s.sig.slots n
    (v == 0 || v == 2) && !s.sig.quarantined.testBit (siteSP (n / 36)))

/-- The logical engines are numbered afresh over the slots in service: a tile store and its accumulators stay with their
slot, and the engines for which there is no slot are gone (R2, R362 step 4). -/
def numberAfresh (s : State) : State :=
  let slots := slotsInService s
  let at_ (n : Nat) : Engine :=
    match (List.range 256).find? (fun e => !(s.eng e).unplaced && physSlot s e == n) with
    | some e => s.eng e
    | none => {}
  let give (e : Nat) : Engine :=
    match slots[e]? with
    | some n => { at_ n with slot := if n = spireOf e * 36 + e % 32 then none else some n, unplaced := false }
    | none => { unplaced := true }
  { s with engines := (List.range 256).foldl (fun t e => put {} t e (give e)) [] }

/-- At a package warm reset the engines are numbered afresh where some are unplaced (R362 step 4). -/
def renumber (s : State) : State :=
  if s.sig.unplaced.isEmpty then s
  else modSig (numberAfresh s) (fun g => { g with unplaced := [], ctxStore := none })

/-- A Spire that does not answer, or fails the challenge, is quarantined and the package starts without it: no engine is
placed on it (R35, R362). -/
def quarantineSilent (s : State) (r : StartReport) : State :=
  let t := forAll (List.range 8) (fun p s =>
    let i := siteSP p
    let silent := (r.silent.map Fin.val).contains i
    if (silent || (r.badChallenge.map Fin.val).contains i) && (s.ident i).state != 3 then
      modSig (markDie s i (if silent then 4 else 2)) (fun g => { g with quarantined := g.quarantined ||| 2 ^ i })
    else s) s
  if t.sig.quarantined = s.sig.quarantined then t else numberAfresh t

/-! ### Measurements (R412) -/

/-- Measurement 0x07: the selected manifest with its SVNs. -/
def measManifest (s : State) (digest : Nat) : State :=
  let f := s.fwOf (activeSb s)
  { s with sec := { s.sec with
      meas := put 0 s.sec.meas 7 (1 + digest * 2 ^ 128 + f.svnActive * 2 ^ 64 + f.svnFused) } }

/-- The blocks that a start updates. What a digest comes to is not documented beyond its inputs, so those of components
and certificates are open values of them. The user kernel slots are empty at a start (R198), so they have no block. -/
def measStart (s : State) (digest : Nat) : State :=
  let comps := (List.range 5).map (fun c => (c + 1, 1 + (Config.freeWord digest (c + 1)).toNat))
  let dies := (presentSites s).map (fun i =>
    let d := s.ident i
    (0x40 + i, 1 + (Config.freeWord (d.stepping + 2 ^ 16 * dieFeature s i + 2 ^ 80 * d.serial) i).toNat))
  let raw := (8, 1 + s.pkg.feature + 2 ^ 64 * s.sig.wa + 2 ^ 72 * s.sig.refusal)
  let l := comps ++ [raw, (9, 1)] ++ dies
  measManifest { s with sec := { s.sec with meas := l.foldl (fun t p => put 0 t p.1 p.2) [] } } digest

/-! ### Starts (R388) -/

/-- The lane check that a start reports for a bundle; none reported means every lane works. -/
def bundleCheck (r : StartReport) (cc b : Nat) : LaneCheck :=
  match r.lanes.find? (fun p => p.1.val == cc && p.2.1.val == b) with
  | some p => p.2.2
  | none => {}

/-- The lane check of a host link. -/
def hostCheck (r : StartReport) (cc : Nat) : LaneCheck :=
  match r.hostLinks.find? (fun p => p.1.val == cc) with
  | some p => p.2
  | none => {}

/-- Each Concourse maps its outward ports by ORIENT, which is its index, and powers off the PHY block that each outward
edge does not use (R17). -/
def mapEdges (s : State) : State :=
  { s with outer := (List.range 4).map (fun cc =>
      (cc, some (if cc % 2 = 0 then { host := 2, terminus := 3, uciOff := 3, viaOff := 2 }
                 else { host := 3, terminus := 2, uciOff := 2, viaOff := 3 }))) }

/-- Step 4: the edges are mapped, and every bundle and host link trains (R17, R25, R26, R321). -/
def trainLinks (s : State) (r : StartReport) : State :=
  let s := mapEdges s
  let s := forAll [0, 1, 2, 3] (fun cc s => iter 46 (fun b s =>
    if ownsBundle cc b then trainBundle s cc b (bundleCheck r cc b) else s) s) s
  forAll [0, 1, 2, 3] (fun cc s =>
    let c := hostCheck r cc
    let up := c.modules != 0 && !(s.host (linkDie cc)).failed
    s.modHlink cc (fun _ => { state := if up then 2 else 5, modules := if up then c.modules.toNat else 0
                              half := (c.half &&& c.modules).toNat })) s

/-- A channel that cannot be brought up at a cold start: retired with nothing copied, or, where its stack has a retired
channel, its frames are withdrawn (R277 step 3, R281). -/
def coldRetire (s : State) (ch : Nat) : State :=
  let stk := ch / 32
  if (s.stack stk).retiredCh = 0xFF then
    (s.modChan ch (fun c => { c with state := .retired })).modStack stk (fun k =>
      { k with retiredCh := ch % 32, retireState := 2, moveNext := 2031616 })
  else
    let s := (markFailing s ch).modChan ch (fun c => { c with state := .failing })
    { s with pkg := { s.pkg with withdrawn := nIns ch s.pkg.withdrawn } }

/-- Step 1 of R277: each stack's temperature is read. A response in force goes on within its hysteresis (R288). -/
def startTemps (s : State) (r : StartReport) : State :=
  iter 12 (fun k s => s.modStack k (fun x =>
    let temp := match r.temps.find? (fun p => p.1.val == k) with
      | some p => satN 0xFF p.2
      | none => x.temp
    let was := if x.thermal = 4 then x.heat else x.thermal
    { x with temp := temp, thermal := thermalLevel was temp, heat := 0 })) s

/-- Step 2: the redundant lanes that a channel's check switches in; a training counts as no retrain. -/
def startLanes (s : State) (r : StartReport) : State :=
  iter 384 (fun ch s => s.modChan ch (fun c =>
    if c.state = .retired then c
    else { c with lanes := match r.chanLanes.find? (fun p => p.1.val == ch) with
      | some p => p.2.val
      | none => 0 })) s

/-- Step 4: every channel trains; after a warm reset the stacks leave self-refresh, but for one at 115 °C (R277, R288). -/
def trainChannels (s : State) (r : StartReport) (cold : Bool) : State :=
  let bad := (r.badChans.map Fin.val).eraseDups
  let s := startLanes (startTemps s r) r
  let s := iter 384 (fun ch s =>
    if (s.chan ch).state = .retired then s
    else if 3 ≤ (s.stack (ch / 32)).thermal then s.modChan ch (fun c => { c with state := .selfRefresh })
    else hbmRelease (s.modChan ch (fun c => { c with state := serviceState s ch })) ch) s
  forAll (sortN bad) (fun ch s =>
    if (s.chan ch).state = .retired then s else if cold then coldRetire s ch else retireChannel s ch) s

/-- Steps 6 and 7: the boot image is verified, the cores of both dies are released and PWRGD rises, unless component
0x0005 failed (R410). The ports begin to train. -/
def releaseCores (s : State) : State :=
  let ok := !(s.fwOf (activeSb s)).failed.testBit 4
  let s := forAll [0, 1] (fun d s => s.modHost d (fun c =>
    if c.failed then c
    else { c with
      running := ok, resetting := false, resetHeld := false, relief := none, time := 0
      coreMap := if s.pkg.cause ≤ 2 then mapCores c [] else c.coreMap })) s
  let s := iter 8 (fun p s => s.modPort p (fun x =>
    if termFailed s (p / 4) || !s.pkg.clocks.testBit 1 then x else { x with state := 1 })) s
  { s with
    pkg := { s.pkg with pwr := .running, pwrgd := ok, startWait := none }
    sec := { s.sec with pinsDriven := if ok then 0 else s.sec.pinsDriven } }

/-- The root ports that trained: on boundaries of their width, no lane in two of them (R325). -/
def trainPorts (s : State) (r : StartReport) : State :=
  let lanes (p : PortReport) : List Nat := (List.range p.width).map (fun i => p.lane.val + i)
  forAll r.rootPorts (fun x s =>
    let q := x.2.2
    s.modHost x.1.val (fun c =>
      let used := c.ports.flatMap (fun y => (List.range y.2.width).map (fun i => y.2.lane + i))
      if [4, 8, 16].contains q.width && q.lane.val % q.width == 0 && decide (1 ≤ q.rate) && decide (q.rate ≤ 6) &&
          !(lanes q).any used.contains && s.pkg.clocks.testBit (2 + x.1.val) then
        { c with ports := put {} c.ports x.2.1.val { lane := q.lane.val, width := q.width, rate := q.rate } }
      else c)) s

/-- Steps 4–7, with the references that the start needs; without them it waits (R434). -/
def startFrom4 (s : State) (cause : Nat) (r : StartReport) : State :=
  let clocks := r.clocks.toNat + 16 * b2n r.hostClock
  let s := { s with pkg := { s.pkg with clocks := clocks } }
  if clocks ≠ 0x1F then { s with pkg := { s.pkg with startWait := some cause } }
  else releaseCores (trainChannels (trainPorts (trainLinks s r) r) r (decide (cause ≤ 2)))

/-- The components that a Terminus verifies: those of its own Signal Box and Junction, and, where its Signal Box is
active, the keepers' tables, the kernel loader and the boot image (R408). -/
def verifies (active : Bool) : Nat := if active then 0b11111 else 0b01001

/-- The firmware of both Termini is selected and the Signal Boxes take their roles (R388 steps 1 and 2, R369). -/
def startFirmware (s : State) (r : StartReport) : State :=
  let works (t : Nat) (f : Firmware) : Bool := !f.failed.testBit 0 && !termFailed s t
  let f0 := fwSelect (s.fwOf 0) r.fw0A r.fw0B (verifies true)
  let up0 := works 0 f0
  let f1 := fwSelect (s.fwOf 1) r.fw1A r.fw1B (verifies (!up0))
  let f0 := { f0 with failed := if up0 then f0.failed else f0.failed &&& verifies false }
  let s := (s.setFwOf 0 f0).setFwOf 1 f1
  let r0 : SbRole := if up0 then .active else .failed
  let r1 : SbRole := if !works 1 f1 then .failed else if up0 then .standby else .active
  modSig s (fun g => { g with sb0 := { g.sb0 with role := r0, progress := 0 }, sb1 := { g.sb1 with role := r1, progress := 0 } })

/-- A start from step 1 on (R388, R390 step 9). -/
def start (s : State) (cause : Nat) (r : StartReport) : State :=
  let s := { s with pkg := { s.pkg with cause := cause, pwrgd := false } }
  let s := { s with sec := { s.sec with nonce := r.nonce.toNat } }
  let s := startFirmware s r
  if s.sig.sb0.role = .failed ∧ s.sig.sb1.role = .failed then enterHold s 0
  else
    let t := activeSb s
    let digest := if t = 0 then fwDigest (s.fwOf 0) r.fw0A r.fw0B else fwDigest (s.fwOf 1) r.fw1A r.fw1B
    let s := quarantineSilent s r
    match identityCheck s r with
    | some (code, dies) =>
      let s := modSig s (fun g => { g with refusalDies := dies })
      measStart (enterHold (logbook s) code) digest
    | none =>
      let s := modSig s (fun g => { g with wa := (steppingTable s).2 })
      let s := { s with pkg := { s.pkg with feature := featureLevel s } }
      startFrom4 (measStart s digest) cause r

/-! ### Cold starts and the loss of supplies (R386–R388) -/

/-- What no supply takes: fused identity, the spares fused at assembly, flash, and the record of the cores that have failed
Inspection (R313). Every other piece of state is as at
cold power-on, memory filled with zeros (R283). -/
def coldState (s : State) : State :=
  { pending := s.pending
    nonce := s.nonce
    idents := tabMapD {} s.idents (fun _ i => { i with seq := 0, state := 1 })
    links := tabMapD {} s.links (fun _ l => { fusedTx := l.fusedTx, fusedRx := l.fusedRx })
    pkg := { resetHeld := s.pkg.resetHeld, clocks := s.pkg.clocks }
    hosts := tabMapD {} s.hosts (fun _ c => { badCores := c.badCores })
    fw := tabMapD {} s.fw (fun _ f => { slotA := f.slotA, slotB := f.slotB, svnFused := f.svnFused }) }

/-- COLD_POWER_ON. -/
def coldPowerOn (s : State) (r : StartReport) : State :=
  if s.pkg.pwr = .off ∨ s.pkg.pwr = .cold then start (coldState s) 0x01 r else s

/-- STANDBY_EXIT: the start reports 0x02, or 0x01 where standby came of a loss of supply (R387). -/
def standbyExit (s : State) (r : StartReport) : State :=
  if s.pkg.pwr = .standby then start (coldState s) (if s.pkg.lossStandby then 0x01 else 0x02) r else s

/-- SUPPLY_LOSS: `vin`, `vaux` and `vio` tell which supplies remain in range. -/
def supplyLoss (s : State) (vin vaux vio : Bool) : State :=
  if vin && vaux && vio then s
  else if !(vaux && vio) then let s := coldState s; { s with pkg := { s.pkg with pwr := .off } }
  else if s.pkg.pwr = .standby ∨ s.pkg.pwr = .off then s
  else
    let asked := !s.pkg.stbyN
    let c := coldState s
    { c with
      pkg := { c.pkg with pwr := .standby, stbyN := s.pkg.stbyN, lossStandby := !asked }
      fw := s.fw
      sec := { c.sec with meas := s.sec.meas.filter (fun p => decide (p.1 ≤ 7)) }
      sig := { c.sig with sb0 := { role := s.sig.sb0.role }, sb1 := { role := s.sig.sb1.role } } }

/-- Bytes of the slow tier that the devices found give: whole 64 KiB units, 16 TiB at most (R237). -/
def slowCapacity (l : List (Nat × Nat × Nat × Nat)) : Nat := min (2 ^ 44) (l.foldl (fun n d => n + d.2.2.1) 0)

/-- SLOW_DONE: S, D and U are fixed (R237, R241, R389). -/
def slowDone (s : State) (devs : List SlowDev) : State :=
  if s.pkg.slowDone ∨ !inService s then s
  else
    let l := devs.map (fun d => (d.die.val, d.port.val, d.bytes / 65536 * 65536, b2n (s.host d.die.val).failed * 2))
    let cap := slowCapacity l
    { s with pkg := { s.pkg with
        slowDone := true
        slowReady := true
        slowDevs := l
        slowBytes := cap
        dupPool := min (s.pkg.dupPoolGib * 2 ^ 30) (cap - 4 * 2 ^ 30) } }

/-! ### The package warm reset (R390, R391) -/

/-- What remains of steps 1–5 before the caches may be written back: nothing is in flight, and every accepted atomic has
been performed but for those that wait for the answer to a fault (R61). -/
def drained (s : State) : Bool :=
  s.streams.all (fun p => p.2.inFlight == 0) && s.units.all (fun p => p.2.inv.isNone) && s.migs.isEmpty &&
    s.engines.all (fun p => p.2.state != .resetting) && s.atomics.all (fun p => p.2.fault.isSome)

/-- Remote cars that no acknowledgement has completed are given up. -/
def dropSent (s : State) : State :=
  { s with
    streams := tabMapD {} s.streams (fun _ t => { t with slots := t.slots.map (fun d =>
      { d with inflight := d.inflight.filter (fun j => look 0 d.sent j == 0), sent := [] }) })
    paths := tabMapD {} s.paths (fun _ p => { p with unacked := [], guarded := [] }) }

/-- Steps 1–5: acceptance stops, the hosts are swept, the engines reset, and all accepted work comes to its end. -/
def stopWork (s : State) : State :=
  let s := { logbook s with pkg := { s.pkg with pwrgd := false } }
  let s := forAll [0, 1] (fun d s => if (s.host d).failed then s else
    (hostSweep s d).modHost d (fun c => { c with resetting := false, resetHeld := false })) s
  let s := dropSent s
  let s := iter 256 (fun e s => engReset s e) s
  let s := iter 64 (fun i s => abortStream s (512 + i) 0x09) s
  let s := forAll (s.launches.map Prod.fst) (fun k s => abortLaunch s k 0x09 0xFFFFFFFF) s
  let s := forAll s.remOps (fun x s => ropFinish s x.tag 3 0x0A) s
  let s := forAll s.colls (fun c s =>
    if c.final.isSome then s else collFinish (sendAbort s c 0x20 c.rank) c 3 0x0C c.rank) s
  forAll s.migs (fun m s => migrateDone s m.tile) s

/-- Steps 6 and 7, once nothing is in flight: the pair is left, the write-combining buffers drain and the caches write
their dirty lines. -/
def drainAll (s : State) : State :=
  let s := tdLeave s
  let s := forAll (s.units.map Prod.fst) (fun u s => drainUnit s u) s
  let s := iter 384 (fun ch s => drainWcb s ch) s
  pcWarmReset s

/-- A warm reset is requested: by pin 0x03, by command 0x04, and 0x05 during a hold. It merges into one in progress, and
a refused package, standby and off ignore it. -/
def resetRequest (s : State) (cause : Nat) : State :=
  let unserved := s.pkg.pwr == .standby || s.pkg.pwr == .off || (s.pkg.pwr == .cold && !s.holding)
  if s.pkg.resetPending.isSome || unserved || s.sig.keeper == .holdRefused then s
  else
    let cause := if s.holding then 0x05 else cause
    let s := modSig s (fun g => { g with keeper := .watching, heldRunning := [] })
    let s := { s with pkg := { s.pkg with pwr := .warmReset, resetPending := some cause, startWait := none, idleRefused := false } }
    let s := stopWork s
    if drained s then iter 12 (fun k s => stackSleep s k) (drainAll s) else s

/-- A ring as a reset leaves it: its sequence numbers stay (R398). -/
def Ring.renewed (r : Ring) : Ring := { seqEnded := r.seqEnded, seqLast := r.seqLast }

/-- A channel after a warm reset: its counts, log and queue stay, the traffic generator's settings do not. -/
def Chan.renewed (c : Chan) : Chan :=
  { state := c.state, retrains := c.retrains, lanes := c.lanes, queue := c.queue, waiting := c.waiting, failing := c.failing, ce := c.ce, ue := c.ue
    replaced := c.replaced, log := c.log, reserve := c.reserve, mustRetire := c.mustRetire }

/-- A port after a warm reset. -/
def MlPort.renewed (p : MlPort) : MlPort := { retx := p.retx, fcsErr := p.fcsErr }

/-- Every setting takes the value that the survival table gives (R398). -/
def warmState (s : State) : State :=
  { pending := s.pending
    nonce := s.nonce
    nextKey := s.nextKey
    faultNo := s.faultNo
    useClock := s.useClock
    opTag := s.opTag
    idents := s.idents
    links := tabMapD {} s.links (fun _ l => { fusedTx := l.fusedTx, fusedRx := l.fusedRx })
    engines := tabMapD {} s.engines (fun _ g => { g.cleared with pmNotice := false })
    streams := tabMapD {} s.streams (fun _ t => { lastSeq := t.lastSeq, endedSeq := t.endedSeq, ring := t.ring.renewed })
    units := tabMapD {} s.units (fun _ u => { ceCount := u.ceCount, ueCount := u.ueCount, lastErr := u.lastErr })
    clRings := tabMapD {} s.clRings (fun _ r => r.renewed)
    roRings := tabMapD {} s.roRings (fun _ r => r.renewed)
    crRings := tabMapD {} s.crRings (fun _ r => r.renewed)
    mem := s.mem
    poison := s.poison
    tiles := s.tiles
    recovering := s.recovering
    tts := s.tts
    chans := tabMapD {} s.chans (fun _ c => c.renewed)
    stks := s.stks
    pcs := s.pcs
    hosts := tabMapD {} s.hosts (fun _ c => { failed := c.failed, badCores := c.badCores, coreMap := c.coreMap })
    pairs := s.pairs
    mlId := s.mlId
    ports := tabMapD {} s.ports (fun _ p => p.renewed)
    paths := s.paths
    sent := s.sent
    td := { granted := s.td.granted, lanesUp := s.td.lanesUp, out := s.td.out }
    sig := { sb0 := { s.sig.sb0 with recentAt := [] }, sb1 := { s.sig.sb1 with recentAt := [] }, takeovers := s.sig.takeovers
             inspHours := s.sig.inspHours, watchMs := s.sig.watchMs, inspEn := s.sig.inspEn, lbCe := s.sig.lbCe
             lbUe := s.sig.lbUe, failedDies := s.sig.failedDies, quarantined := s.sig.quarantined
             serviceDies := s.sig.serviceDies, consistResult := s.sig.consistResult, reliefResult := s.sig.reliefResult
             reliefs := s.sig.reliefs, holds := s.sig.holds, notifyEn := s.sig.notifyEn, notifyEp := s.sig.notifyEp
             slots := s.sig.slots, failing := s.sig.failing, unplaced := s.sig.unplaced, cupSpare := s.sig.cupSpare
             unreachLast := s.sig.unreachLast, unreachCount := s.sig.unreachCount }
    pkg := { s.pkg with
      pwr := .warmReset, idleRefused := false, feature := 0, slowDone := false, slowReady := false, thermal := false
      limited := false, ringPref := [], dieMv := [], warmCount := satN 0xFFFF (s.pkg.warmCount + 1), resetPending := none }
    fw := s.fw
    sec := { ir := s.sec.ir, pinsDriven := s.sec.pinsDriven } }

/-- The restart, step 9: nothing is in flight, RESET_N is high, and no stack is held at 115 °C. -/
def warmRestart (s : State) (r : StartReport) : State :=
  match s.pkg.resetPending with
  | none => s
  | some cause =>
    if s.pkg.resetHeld || !drained s || s.stks.any (fun p => p.2.thermal == 3) then s
    else start (renumber (warmState (drainAll s))) cause r

/-- RESET_N is pulled low or goes high again. -/
def resetPin (s : State) (low : Bool) : State :=
  if low then
    let s := resetRequest s 0x03
    { s with pkg := { s.pkg with resetHeld := s.pkg.pwr != .standby && s.pkg.pwr != .off } }
  else { s with pkg := { s.pkg with resetHeld := false } }

/-- WARM_RESET as the Signal Box performs it (R378). -/
def warmResetCommand (s : State) : State :=
  match sbFront s 3 with
  | none => s
  | some (c, s) => resetRequest (sbEnd (sbReply s c 1) c 0) 0x04

/-! ### Standby and package idle (R395–R397) -/

/-- Step 7 done, STBY_N goes low. -/
def standbyGo (s : State) : State :=
  if s.pkg.pwr == .enteringStandby && s.pkg.stbyN && drained s then
    let s := drainAll s
    { s with pkg := { s.pkg with stbyN := false } }
  else s

/-- A write of PKG_PWR.STANDBY. -/
def standbyRequest (s : State) : State :=
  if !inService s || s.holding then s
  else standbyGo (stopWork { s with pkg := { s.pkg with pwr := .enteringStandby, idleRefused := false } })

/-- Whether nothing is pending anywhere in the package (R395). -/
def nothingPending (s : State) : Bool :=
  s.engines.all (fun p => (p.2.state == .idle || p.2.state == .parked) && p.2.migrating.isNone) &&
    s.streams.all (fun p => p.2.slots.isEmpty) && s.launches.isEmpty && s.atomics.isEmpty && s.expects.isEmpty &&
    s.remOps.isEmpty && s.colls.isEmpty && s.migs.isEmpty && s.stks.all (fun p => p.2.retireState != 1) &&
    s.chans.all (fun p => p.2.state != .retraining && !(p.2.sbRun && p.2.run.isSome)) && s.sig.swapped.isEmpty && s.links.all (fun p => !p.2.retraining) &&
    s.hlinks.all (fun p => p.2.state != 3)

/-- The stacks leave self-refresh, but for one still at 115 °C. -/
def idleLeave (s : State) : State :=
  if s.pkg.pwr ≠ .idle then s
  else
    let s := { s with pkg := { s.pkg with pwr := .running } }
    iter 12 (fun k s =>
      if (s.stack k).thermal ≠ 4 then s
      else
        let lv := thermalLevel (s.stack k).heat (s.stack k).temp
        let s := s.modStack k (fun x => { x with thermal := lv, heat := 0 })
        if lv = 3 then s else stackWake s k) s

/-- A write of PKG_PWR.IDLE. The engines' store buffers drain before the stacks sleep (R395, R400). -/
def idleRequest (s : State) : State :=
  if s.pkg.pwr = .idle then idleLeave s
  else if s.pkg.pwr ≠ .running then s
  else if s.holding || !nothingPending s then { s with pkg := { s.pkg with idleRefused := true } }
  else
    let s := forAll (s.engines.map Prod.fst) (fun e s => drainEngine s e) s
    let s := iter 12 (fun k s => (stackSleep s k).modStack k (fun x => { x with thermal := 4, heat := if x.thermal = 4 then x.heat else x.thermal })) s
    { s with pkg := { s.pkg with pwr := .idle, idleRefused := false } }

/-! ### Drowse (R393, R394) -/

/-- A write of SP_PWR.DROWSE. -/
def drowseWrite (s : State) (sp : Nat) (v : Bool) : State :=
  let s := s.modSpire sp (fun p => { p with permit := v })
  if v then s else spireWake s sp

/-- The Signal Box lowers a Spire to its retention level when the conditions of R393 hold. -/
def drowseEnter (s : State) (sp : Nat) : State :=
  let mine := (List.range 256).filter (liesOn s sp)
  let rests (e : Nat) : Bool :=
    let g := s.eng e
    (g.state == .idle || g.state == .parked) && g.migrating.isNone && g.own.isEmpty &&
      (s.stream (2 * e)).slots.isEmpty && (s.stream (2 * e + 1)).slots.isEmpty
  let into := s.engines.any (fun p => match p.2.migrating with
    | some t => t / 36 == sp
    | none => false)
  let tested := s.sig.swapped.any (fun p => (p.2 - 1) / 36 == sp)
  if !sbWorks s || s.stopping || !(s.spire sp).permit || (s.spire sp).drowse || into || tested || !mine.all rests then s
  else s.modSpire sp (fun p => { p with drowse := true, mv := 450 })

/-! ### Voltage responses (R401, R402, R404) -/

/-- The supply cut of a die after a reading of its temperature. -/
def heatCut (cut temp : Nat) : Nat :=
  if 120 ≤ temp then 200
  else if 105 ≤ temp ∨ (cut ≠ 0 ∧ 100 ≤ temp) then min 200 (cut + 25)
  else 0

/-- One die's temperature is read. Without a Signal Box, and until a start releases the cores, only the 120 °C response
acts (R388, R402). -/
def dieHeat (s : State) (site temp : Nat) : State :=
  if (s.holding ∨ suppliesHeld s) ∧ temp < 120 then s
  else if 0x08 ≤ site ∧ site < 0x10 then
    s.modSpire (site - 0x08) (fun p => SpirePwr.settle { p with dieCut := heatCut p.dieCut temp })
  else { s with pkg := { s.pkg with dieMv := put 0 s.pkg.dieMv site (heatCut (look 0 s.pkg.dieMv site) temp) } }

/-- Temperatures by site and the package power are read, and the supplies move one step. -/
def voltages (s : State) (temps : List (Nat × Nat)) (watts : Nat) : State :=
  let s := forAll (temps.filter (fun p => sitePopulated p.1)) (fun p s => dieHeat s p.1 p.2) s
  let s := if s.holding then s
    else
      let past := !suppliesHeld s && decide (min 4400 (max 1500 s.pkg.limitW) < watts)
      let s := iter 8 (fun sp s => s.modSpire sp (fun p =>
        SpirePwr.settle { p with powerCut := if past then min 200 (p.powerCut + 10) else 0 })) s
      { s with pkg := { s.pkg with powerW := satN 0xFFFF watts, limited := past } }
  { s with pkg := { s.pkg with thermal := !s.pkg.dieMv.isEmpty || s.spires.any (fun p => p.2.dieCut != 0 || p.2.stackCut != 0) } }

/-! ### Reference clocks (R315, R434) -/

/-- The bit of a reference. -/
def clockBit (c : RefClk) : Nat :=
  match c with
  | .mem => 0 | .eth => 1 | .pcie0 => 2 | .pcie1 => 3 | .timeref => 4

/-- The slow-tier devices of a die stop answering. -/
def loseDevices (s : State) (d : Nat) : State :=
  iter s.pkg.slowDevs.length (fun i s =>
    match s.pkg.slowDevs[i]? with
    | some dev => if dev.1 = d then loseDevice s i else s
    | none => s) s

/-- REFCLK_LOSS. -/
def clockLost (s : State) (c : RefClk) : State :=
  if !s.pkg.clocks.testBit (clockBit c) then s
  else
    let s := { s with pkg := { s.pkg with clocks := s.pkg.clocks - 2 ^ clockBit c } }
    match c with
    | .mem =>
      let s := enterHold s 0
      let s := { s with pkg := { s.pkg with pwrgd := false } }
      iter 12 (fun k s => (stackSleep s k).modStack k (fun x => { x with thermal := 4, heat := if x.thermal = 4 then x.heat else x.thermal })) s
    | .eth =>
      let s := iter 8 (fun p s => portDown s p) s
      tdLanes (tdLanes s 0 false) 1 false
    | .pcie0 => loseDevices s 0
    | .pcie1 => loseDevices s 1
    | .timeref => s

/-- REFCLK_RETURN: the Ethernet ports train again; what else hangs on a clock goes on by itself. -/
def clockBack (s : State) (c : RefClk) : State :=
  let s := { s with pkg := { s.pkg with clocks := s.pkg.clocks ||| 2 ^ clockBit c } }
  if c = .eth then
    iter 8 (fun p s => s.modPort p (fun x => if x.state = 0 ∧ !termFailed s (p / 4) then { x with state := 1 } else x)) s
  else s

/-- A rising edge of TIMEREF (R315). -/
def timerefEdge (s : State) : State :=
  if !s.pkg.clocks.testBit 4 || !inService s then s
  else forAll [0, 1] (fun d s => s.modHost d (fun c => if c.failed then c else { c with time := (c.time + 1) % 2 ^ 64 })) s

/-! ### The rows -/

/-- COLD_POWER_ON. -/
def execColdPowerOn (r : StartReport) (s : State) : Out := .next (coldPowerOn s r)

/-- STANDBY_EXIT. -/
def execStandbyExit (r : StartReport) (s : State) : Out := .next (standbyExit s r)

/-- SUPPLY_LOSS. -/
def execSupplyLoss (vin vaux vio : Bool) (s : State) : Out := .next (supplyLoss s vin vaux vio)

/-- SLOW_DONE. -/
def execSlowDone (devs : List SlowDev) (s : State) : Out := .next (slowDone s devs)

/-- REFCLK_RETRY. -/
def execRefclkRetry (r : StartReport) (s : State) : Out :=
  .next (match s.pkg.startWait with
    | some cause => if s.holding then s else startFrom4 s cause r
    | none => s)

/-- REFCLK_LOSS. -/
def execRefclkLoss (c : RefClk) (s : State) : Out := .next (clockLost s c)

/-- RESET_N. -/
def execResetN (low : Bool) (s : State) : Out := .next (resetPin s low)

/-- WARM_RESET_RESTART. -/
def execWarmResetRestart (r : StartReport) (s : State) : Out := .next (warmRestart s r)

/-- STANDBY_REQUEST. -/
def execStandbyRequest (s : State) : Out := .next (standbyRequest s)

/-- PACKAGE_IDLE_REQUEST. -/
def execPackageIdleRequest (s : State) : Out := .next (idleRequest s)

/-- PACKAGE_IDLE_EXIT. -/
def execPackageIdleExit (s : State) : Out := .next (idleLeave s)

/-- DROWSE. -/
def execDrowse (sp : Fin 8) (v : Bool) (s : State) : Out := .next (drowseWrite s sp v)

/-- SPIRE_DROWSE_ENTRY. -/
def execSpireDrowseEntry (sp : Fin 8) (s : State) : Out := .next (drowseEnter s sp)

/-- SPIRE_DROWSE_EXIT. -/
def execSpireDrowseExit (sp : Fin 8) (s : State) : Out := .next (spireWake s sp)

/-- VOLTAGE_RESPONSE. -/
def execVoltageResponse (temps : List (Nat × Nat)) (watts : Nat) (s : State) : Out := .next (voltages s temps watts)

/-- THERMAL_TRIP. -/
def execThermalTrip (site : Fin 64) (s : State) : Out :=
  .next (if sitePopulated site then enterHold { s with pkg := { s.pkg with thermtripN := false } } 0 else s)

/-- WARM_RESET. -/
def execWarmReset (s : State) : Out := .next (warmResetCommand s)

/-- REFCLK_RETURN. -/
def execRefclkReturn (c : RefClk) (s : State) : Out := .next (clockBack s c)

/-- TIMEREF_EDGE. -/
def execTimerefEdge (s : State) : Out := .next (timerefEdge s)

end Sys2Proof.Machine
end

