-- ==== Sys2Proof/Machine/Trust.lean ====
section
/-! DEFINITION. Firmware update, SPDM attestation, the debug lock and JTAG (R411–R418, R436). -/

namespace Sys2Proof.Machine

/-- Changes a Terminus's firmware state with the outcome of a command. -/
def fwResult (s : State) (t result : Nat) : State := s.modFwOf t (fun f => { f with result := result })

/-! ### Update (R411) -/

/-- The flash slot that an update writes: the one not selected at the latest start. -/
def Firmware.putOther (f : Firmware) (x : FwSlot) : Firmware :=
  if f.slot = 1 then { f with slotB := x } else { f with slotA := x }

/-- PROGRAM: the image is checked, and the manifest of the other slot is erased. -/
def fwProgram (s : State) (t asn : Nat) (chk : FwCheck) : State :=
  let f := s.fwOf t
  if asn ≠ 0 then fwResult s t 6
  else if f.busy then fwResult s t 5
  else if !chk.readable || !chk.manifestOk then fwResult s t 1
  else if chk.svn < f.svnFused then fwResult s t 3
  else if chk.badComps ≠ 0 then fwResult s t 2
  else s.modFwOf t (fun f =>
    { f.putOther { known := true } with
      busy := true, pending := some { accepted := true, known := true, svn := chk.svn, digest := chk.digest } })

/-- PROGRAM on the image at FW_PROG_ADDR. -/
def programImage (s : State) (t asn : Nat) (c : SigCheck) : State :=
  let a := (s.fwOf t).addr
  fwProgram (if asn = 0 ∧ !(s.fwOf t).busy then imageTouch s a else s) t asn (imageFound s a c)

/-- The manifest is written last, and the command ends. -/
def fwProgrammed (s : State) (t : Nat) (flashOk : Bool) : State :=
  match (s.fwOf t).busy, (s.fwOf t).pending with
  | true, some x => s.modFwOf t (fun f =>
      { (if flashOk then f.putOther x else f) with busy := false, pending := none, result := if flashOk then 0 else 4 })
  | _, _ => s

/-- COMMIT_SVN: the fused SVN rises to that of the selected manifest, and measurement 0x07 follows (R412). -/
def fwCommit (s : State) (t asn : Nat) : State :=
  if asn ≠ 0 then fwResult s t 6
  else if (s.fwOf t).busy then fwResult s t 5
  else
    let s := s.modFwOf t (fun f => { f with svnFused := max f.svnFused f.svnActive, result := 0 })
    measManifest s ((look 0 s.sec.meas 7 - 1) / 2 ^ 128)

/-- A write of FW_PROG_ADDR, under the same rules of permission. -/
def fwAddr (s : State) (t asn : Nat) (v : Word) : State :=
  if asn ≠ 0 then fwResult s t 6
  else if (s.fwOf t).busy then fwResult s t 5
  else s.modFwOf t (fun f => { f with addr := v.toNat / 4096 * 4096 })

/-! ### SPDM (R413, R414) -/

/-- Sends a response; without supplies nothing answers. -/
def spdm (s : State) (r : SpdmReply) : State :=
  if s.pkg.pwr = .off then s else { s with sec := { s.sec with reply := r } }

/-- A response signed by the Terminus that the slot names: 0 for TM0, 1 for TM1. A failed Terminus, or another slot,
gives an error. -/
def spdmSlot (s : State) (slot : Nat) (r : SpdmReply) : State :=
  spdm s (if 2 ≤ slot || termFailed s slot then .error else r)

/-- The measurement blocks that are reported: in standby only 0x01, 0x02 and 0x07. -/
def measIndices (s : State) : List Nat :=
  (s.sec.meas.map Prod.fst).filter (fun i => s.pkg.pwr != .standby || i == 1 || i == 2 || i == 7)

/-- GET_MEASUREMENTS: index 0 asks for the number of blocks, 0xFF for all, any other for one. -/
def measurements (s : State) (slot index : Nat) : State :=
  let l := measIndices s
  spdmSlot s slot
    (if index = 0xFF then .measurements l slot
     else if index = 0 then .measurements [] slot
     else if l.contains index then .measurements [index] slot else .error)

/-! ### The debug lock (R417, R418) -/

/-- Whether a token has the fixed bytes of R417. -/
def tokenForm (t : List Byte) : Bool :=
  u32At t 0 == 0x4B4C4255 && u16At t 4 == 1 && t.getD 7 0 &&& 0xF8#8 == 0 && t.getD 19 0 == 0 &&
    ((t.drop 52).take 12).all (fun b => b == 0)

/-- SUBMIT: the token at DBG_TOKEN_ADDR is checked, and on a match unlocks its scope. -/
def debugSubmit (s : State) (sigOk digestOk : Bool) : State :=
  let a := s.sec.tokenAddr
  let fail (s : State) (r : Nat) : State := { s with sec := { s.sec with result := r } }
  if region s (a + 2483) != .unified || memPoisoned s a 2484 then fail s 4
  else
    let t := memRead s a 2484
    let s := memTouch s a 2484
    let site := (t.getD 6 0).toNat
    if (w64At t 8).toNat ≠ s.sec.nonce then fail s 3
    else if !sitePopulated site || leNat ((t.drop 16).take 3) != (s.ident site).serial % 2 ^ 24 || !digestOk then fail s 2
    else if !sigOk || !tokenForm t then fail s 1
    else
      let p := s.fresh
      let s := p.2
      tdLeave { s with sec := { s.sec with
        result := 0
        unlocked := s.sec.unlocked ||| 2 ^ site
        scopes := put 0 s.sec.scopes site (look 0 s.sec.scopes site ||| (t.getD 7 0).toNat)
        meas := put 0 s.sec.meas 9 (1 + ((look 0 s.sec.meas 9 - 1) ||| 2 ^ site))
        nonce := (Config.freeWord p.1 0).toNat } }

/-- RELOCK locks every die at once; measurement 0x09 keeps what it reports. -/
def debugRelock (s : State) : State := { s with sec := { s.sec with unlocked := 0, scopes := [] } }

/-! ### JTAG (R436) -/

/-- An instruction of the chain with what its data register captures and who drives the pins. -/
def jtag (s : State) (ir : JtagIr) (dr pins : Nat) : State := { s with sec := { s.sec with ir := ir, dr := dr, pinsDriven := pins } }

/-- BYPASS, as which EXTEST, CLAMP and HIGHZ act while PWRGD is high. -/
def jtagBypass (s : State) : State := jtag s .bypass 0 0

/-- An instruction that acts only while PWRGD is low. -/
def jtagPins (s : State) (ir : JtagIr) (pins : Nat) : State := if s.pkg.pwrgd then jtagBypass s else jtag s ir 0 pins

/-! ### The rows -/

/-- FW_CTRL_PROGRAM. -/
def execFwCtrlProgram (tm : Fin 2) (asn : Asn) (chk : SigCheck) (s : State) : Out := .next (programImage s tm asn.toNat chk)

/-- FW_PROGRAM_COMPLETE. -/
def execFwProgramComplete (tm : Fin 2) (flashOk : Bool) (s : State) : Out := .next (fwProgrammed s tm flashOk)

/-- FW_CTRL_COMMIT_SVN. -/
def execFwCtrlCommitSvn (tm : Fin 2) (asn : Asn) (s : State) : Out := .next (fwCommit s tm asn.toNat)

/-- GET_VERSION. -/
def execGetVersion (s : State) : Out := .next (spdm s .version)

/-- GET_CAPABILITIES. -/
def execGetCapabilities (s : State) : Out := .next (spdm s .capabilities)

/-- NEGOTIATE_ALGORITHMS. -/
def execNegotiateAlgorithms (s : State) : Out := .next (spdm s .algorithms)

/-- GET_DIGESTS. -/
def execGetDigests (s : State) : Out := .next (spdm s (.digests (!termFailed s 0) (!termFailed s 1)))

/-- GET_CERTIFICATE. -/
def execGetCertificate (slot : BitVec 8) (s : State) : Out := .next (spdmSlot s slot.toNat (.certificate slot.toNat))

/-- CHALLENGE. -/
def execChallenge (slot : BitVec 8) (s : State) : Out := .next (spdmSlot s slot.toNat (.challengeAuth slot.toNat slot.toNat))

/-- GET_MEASUREMENTS. -/
def execGetMeasurements (slot index : BitVec 8) (s : State) : Out := .next (measurements s slot.toNat index.toNat)

/-- DBG_CMD_SUBMIT. -/
def execDbgCmdSubmit (sigOk digestOk : Bool) (s : State) : Out := .next (debugSubmit s sigOk digestOk)

/-- DBG_CMD_RELOCK. -/
def execDbgCmdRelock (s : State) : Out := .next (debugRelock s)

/-- BYPASS. -/
def execBypass (s : State) : Out := .next (jtagBypass s)

/-- IDCODE: the stepping stands in bits 31–28. -/
def execIdcode (s : State) : Out :=
  .next (jtag s .idcode ((s.ident (siteTM 0)).stepping / 256 % 16 * 2 ^ 28 + 0x4A71) 0)

/-- SAMPLE_PRELOAD: the levels of the lands are not part of the model, so what is sampled is open. -/
def execSamplePreload (s : State) : Out :=
  .next (jtag s.fresh.2 .samplePreload (Config.freeWord s.fresh.1 0).toNat 0)

/-- EXTEST. -/
def execExtest (s : State) : Out := .next (jtagPins s .extest 1)

/-- CLAMP. -/
def execClamp (s : State) : Out := .next (jtagPins s .clamp 2)

/-- HIGHZ. -/
def execHighz (s : State) : Out := .next (jtagPins s .highz 3)

end Sys2Proof.Machine
end

