-- ==== Sys2Proof/Machine/Regs.lean ====
section
/-! DEFINITION. A write to any register of the MMIO range or the Ticket window (R3, R7–R10, R330, and the register
tables of each chapter). -/

namespace Sys2Proof.Machine

/-- The four or five registers of a ring, by the operations that they name: base, control, doorbell, status and, where
the ring has one, a cancel register. -/
def ringWrite (s : State) (off : Nat) (v : Word) (f : (Ring → Ring) → State) (ctrl cancel : State) : State :=
  match off with
  | 0x00 => f (fun r => r.setBase 4 v)
  | 0x08 => ctrl
  | 0x10 => f (fun r => r.doorbell (fld v 31 0))
  | 0x18 => if bit v 7 then f (fun r => { r with dbErr := false }) else s
  | 0x28 => cancel
  | _ => s

/-- Unit counter registers (R426). -/
def ucWrite (s : State) (k off : Nat) (v : Word) : State :=
  let n := if k < 16 then 8 else 4
  if off < 8 * n then s.modUc k (fun u => { u with cnt := put 0 u.cnt (off / 8) (v &&& 0xFFFF_FFFF_FFFF) })
  else if 0x40 ≤ off ∧ off < 0x40 + 8 * n then
    s.modUc k (fun u => { u with sel := put 0 u.sel ((off - 0x40) / 8) (v &&& 0x1_80FF_00FF) })
  else if off = 0x80 then s.modUc k (fun u => { u with ovf := u.ovf &&& ~~~(v &&& 0xFF) })
  else if off = 0x88 then s.modUc k (fun u => { u with notify := v &&& 0x1_FFFF_FFFF })
  else s

/-- Siding registers of a domain (R263, R265). -/
def sdWrite (s : State) (k off : Nat) (v : Word) : State :=
  match off with
  | 0x00 => sdBaseWrite s k v
  | 0x08 => sdCtrlWrite s k v
  | 0x10 => sdConsWrite s k (fld v 31 0)
  | 0x18 => if bit v 18 then s.modSiding k (fun d => { d with ansErr := false }) else s
  | 0x20 =>
    if fld v 33 32 = 1 then answer s k (fld v 31 0) true
    else if fld v 33 32 = 2 then answer s k (fld v 31 0) false
    else s
  | _ => s

/-- Registers of an HBM channel (R285, R289, R290). -/
def chanWrite (s : State) (ch off : Nat) (v : Word) : State :=
  match off with
  | 0x008 => if bit v 0 then logClear s ch else s
  | 0x100 => let s := tgCtrl s ch v; if bit v 33 then tgAbort s ch else s
  | 0x108 => s.modChan ch (fun c => { c with tg := { c.tg with first := fld v 52 32, last := fld v 20 0 } })
  | 0x110 => s.modChan ch (fun c => { c with tg := { c.tg with seed := v } })
  | 0x118 => if bit v 1 then s.modChan ch (fun c => { c with tgDone := false }) else s
  | _ => s

/-- Keeper registers (R375, R377, R379, R384). -/
def kpWrite (s : State) (cc off : Nat) (v : Word) : State :=
  match off with
  | 0x00 => kpCmd s cc v
  | 0x10 => modSig s (fun g => { g with notifyEn := bit v 32, notifyEp := fld v 31 0 })
  | 0x18 => reliefWrite s cc (fld v 6 0) (fld v 51 12 * 4096)
  | _ => s

/-- RING_PREF.MODE 0b11 is undefined and leaves the field (R8, R21). -/
def prefWrite (s : State) (cc : Nat) (v : Word) : State :=
  if fld v 1 0 = 3 then s else { s with pkg := { s.pkg with ringPref := put 0 s.pkg.ringPref cc (fld v 1 0) } }

/-- TT_POLICY and HBM_POLICY, package-wide (R268, R289). -/
def policyWrite (s : State) (off : Nat) (v : Word) : State :=
  if off = 0x15000 then
    { s with pkg := { s.pkg with dupPoolGib := fld v 47 32, pinLimit := fld v 15 8, promote := fld v 7 0 } }
  else { s with pkg := { s.pkg with ueRetire := fld v 15 8, scrubHours := fld v 7 0 } }

/-- A write in a Concourse block. -/
def ccWrite (s : State) (cc asn off : Nat) (v : Word) : State :=
  if off = 0x1800 then prefWrite s cc v
  else if 0x10000 ≤ off ∧ off < 0x10400 then
    let i := (off - 0x10000) / 0x40
    ringWrite s (off % 0x40) v (modRing s (bulkStream cc i)) (bulkCtrl s cc i v) s
  else if 0x11000 ≤ off ∧ off < 0x11100 then
    let r := (off - 0x11000) / 0x40
    ringWrite s (off % 0x40) v (s.modClRing (4 * cc + r)) (clCtrl s cc r v) (clCancelWrite s cc r v)
  else if off = 0x12000 then kaddrWrite s cc asn v
  else if off = 0x12008 then kcmdWrite s cc asn (fld v 17 16) (fld v 11 0) (fld v 47 28)
  else if off = 0x13000 then { s with astBase := v.toNat / 4096 * 4096 }
  else if off = 0x13008 then s.modBook cc (fun b => { b with invVa := v.toNat / 4096 * 4096 })
  else if off = 0x13010 then invWrite s cc (fld v 37 36) (fld v 19 0)
  else if 0x14000 ≤ off ∧ off < 0x14100 then sdWrite s (4 * cc + (off - 0x14000) / 0x40) (off % 0x40) v
  else if off = 0x15000 ∨ off = 0x16020 then policyWrite s off v
  else if off = 0x17000 then (if bit v 0 then pcDisable s cc else pcEnable s cc)
  else if off = 0x17008 then wayMaskWrite s cc v
  else if 0x19000 ≤ off ∧ off < 0x19028 then kpWrite s cc (off - 0x19000) v
  else if 0x1A000 ≤ off ∧ off < 0x1A090 then ucWrite s cc (off - 0x1A000) v
  else if 0x20000 ≤ off ∧ off < 0x20000 + 0x400 * 96 then
    chanWrite s (96 * cc + (off - 0x20000) / 0x400) (off % 0x400) v
  else s

/-- Mainline registers: ML_ID, ML_WIN, JN_GROUP and the ports. -/
def mlWrite (s : State) (t off : Nat) (v : Word) : State :=
  if off = 0x3000 then { s with mlId := v &&& 0xFFFF_FFFF_F800_FFFF }
  else if off = 0x3008 then
    let s := { s with winBase := v.toNat / 4096 * 4096 }
    if bit v 0 then winInvalidate s else s
  else if off = 0x3010 then { s with grpBase := v.toNat / 4096 * 4096 }
  else if 0x3100 ≤ off ∧ off < 0x3120 then
    let p := 4 * t + (off - 0x3100) / 8
    if bit v 4 = (s.port p).disable then s else portDisable s p (bit v 4)
  else s

/-- Tandem registers (R353–R360). -/
def tdWrite (s : State) (off : Nat) (v : Word) : State :=
  if off = 0x6000 then tdCtrl s v
  else if off = 0x6018 then modTd s (fun t => { t with mirror := v })
  else if off = 0x6020 then modTd s (fun t => { t with takeover := v.toNat / 4096 * 4096 })
  else if off = 0x6028 then modTd s (fun t => { t with witness := v &&& 0x3_FFFF_FFFF_FFFF })
  else if 0x6080 ≤ off ∧ off < 0x60A0 then modTd s (fun t => { t with parts := put 0 t.parts ((off - 0x6080) / 8) v })
  else if 0x6100 ≤ off ∧ off < 0x6180 then modTd s (fun t => { t with regions := put 0 t.regions ((off - 0x6100) / 8) v })
  else s

/-- Signal Box registers (R378). A command written while the keepers hold is not accepted. -/
def sbWrite (s : State) (off : Nat) (v : Word) : State :=
  match off with
  | 0x7000 => modSig s (fun g => { g with cmdLo := v &&& 0xFFFF_FFFF_0000_FFFF })
  | 0x7008 =>
    let lo := s.sig.cmdLo
    if s.shut && (s.holding || fld lo 7 0 != 1) then s
    else sbArrive s { op := fld lo 7 0, arg := fld lo 15 8, addr := v.toNat, reply := fld lo 63 32 }
  | 0x7018 => modSig s (fun g => { g with inspHours := fld v 23 16, watchMs := fld v 15 8, inspEn := bit v 0 })
  | _ => s

/-- SLOW_DONE written as a register: the devices that boot firmware has set up are a free value (log entry 104). -/
def slowDoneWrite (s : State) : State :=
  let p := s.fresh
  slowDone p.2 ((Config.slowFound p.1).map (fun d => { die := d.1, port := d.2.1, bytes := 65536 * d.2.2 }))

/-- Package registers. -/
def pkgWrite (s : State) (off : Nat) (v : Word) : State :=
  match off with
  | 0x8000 => if bit v 1 then slowDoneWrite s else s
  | 0x8008 =>
    let s := if bit v 7 then standbyRequest s else s
    if bit v 6 then idleRequest s else s
  | 0x8010 => { s with pkg := { s.pkg with limitW := fld v 15 0 } }
  | _ => s

/-- PROGRAM written as a register: whether the image's signature verifies is a free value (log entry 104). -/
def programWrite (s : State) (t : Nat) : State :=
  let p := s.fresh
  programImage p.2 t 0 { keyOk := Config.freeBool p.1 0, sigOk := Config.freeBool p.1 1 }

/-- SUBMIT written as a register: whether the token's signature and digest are good is a free value (log entry 104). -/
def submitWrite (s : State) : State :=
  let p := s.fresh
  debugSubmit p.2 (Config.freeBool p.1 0) (Config.freeBool p.1 1)

/-- Firmware and debug registers. A write of FW_CTRL from another ASN than 0 has no effect but its RESULT (R10, R411). -/
def trustWrite (s : State) (t asn off : Nat) (v : Word) : State :=
  match off with
  | 0x9008 =>
    if asn ≠ 0 then fwResult s t 6
    else if (s.fwOf t).busy then fwResult s t 5
    else
      let s := if bit v 0 then programWrite s t else s
      if bit v 1 then fwCommit s t asn else s
  | 0x9010 => fwAddr s t asn v
  | 0x9108 => { s with sec := { s.sec with tokenAddr := v.toNat / 64 * 64 } }
  | 0x9110 =>
    let s := if bit v 0 then submitWrite s else s
    if bit v 1 then debugRelock s else s
  | _ => s

/-- A write in a Terminus block. -/
def tmWrite (s : State) (t asn off : Nat) (v : Word) : State :=
  if 0x4000 ≤ off ∧ off < 0x4200 then
    let r := (off - 0x4000) / 0x40
    ringWrite s (off % 0x40) v (s.modRoRing (8 * t + r)) (roCtrl s t r v) s
  else if 0x5000 ≤ off ∧ off < 0x5100 then
    let r := (off - 0x5000) / 0x40
    ringWrite s (off % 0x40) v (s.modCrRing (4 * t + r)) (crCtrl s t r v) (jnCancelWrite s t r v)
  else if 0xA000 ≤ off ∧ off < 0xA090 then ucWrite s (16 + t) (off - 0xA000) v
  else if off < 0x4000 then mlWrite s t off v
  else if off < 0x7000 then tdWrite s off v
  else if off < 0x8000 then sbWrite s off v
  else if off < 0x9000 then pkgWrite s off v
  else trustWrite s t asn off v

/-- A write in a Spire block. -/
def spWrite (s : State) (sp off : Nat) (v : Word) (o : Obs) : State :=
  if off = 0x1000 then drowseWrite s sp (bit v 0)
  else if 0x0100_0000 ≤ off ∧ off < 0x0120_0000 then
    engWindowWrite s (32 * sp + (off - 0x0100_0000) / 0x10000) (off % 0x10000) v o
  else s

/-- A write in the block of a site: the identity block and an unpopulated site ignore it (R3, R31). -/
def blockWrite (s : State) (site asn off : Nat) (v : Word) (o : Obs) : State :=
  if !sitePopulated site || decide (off < 0x1000) then s
  else if site < 4 then ccWrite s site asn off v
  else if site < 0x10 then spWrite s (site - 8) off v o
  else if site < 0x1C then (if 0x5000 ≤ off ∧ off < 0x5090 then ucWrite s (4 + (site - 0x10)) (off - 0x5000) v else s)
  else if site < 0x22 then s
  else tmWrite s (site - 0x28) asn off v

/-- An aligned 64-bit write of the MMIO range or the Ticket window by a requester and its ASN (R9, R10, R330). -/
def mmioWrite (s : State) (asn pa : Nat) (v : Word) (o : Obs := .other) : State :=
  if ticketBase ≤ pa then
    (if (pa - ticketBase) / 4096 < 128 then tkWrite s ((pa - ticketBase) / 4096) (pa % 4096) v else s)
  else blockWrite s ((pa - mmioBase) / 2 ^ 32) asn (pa % 2 ^ 32) v o

/-- REGISTER_WRITE: an address outside the two windows, or unaligned, is no register. -/
def execRegisterWrite (asn : Asn) (addr : Nat) (v : Word) (s : State) : Out :=
  .next (if (region s addr = .mmio ∨ region s addr = .ticket) ∧ addr % 8 = 0 then mmioWrite s asn.toNat addr v else s)

end Sys2Proof.Machine
end

