-- ==== Sys2Proof/Machine/ScalarMem.lean ====
section
/-! DEFINITION. Scalar loads and stores of memory: an engine's, through its scalar cache and store buffer, and a
kernel's (R9, R52, R53, R75, R76, R193, R211, R215). -/

namespace Sys2Proof.Machine

/-- A store of bytes at a physical address as a store buffer holds it: whole where aligned, else in pieces (R211). -/
def bufferedStores (a : Nat) (bytes : List Byte) : List Store :=
  (wordPieces a bytes.length).map (fun p => { pa := p.1, bytes := (bytes.drop (p.1 - a)).take p.2 })

/-- What a scalar access of an engine has reached. -/
inductive ScalarRes where
  | raised
  | waits
  | mmio (pa : Nat)
  | memory (l : List (Nat × Nat)) (cached : Bool)
deriving DecidableEq, Repr

/-- The physical pieces of an engine's scalar access of `n` bytes, with its faults (R57, R76, R258). -/
def scalarReach (s : State) (o : MOp) (e : Nat) (en : Entry) (va n : Nat) (acc : Acc) : State × ScalarRes :=
  let g := s.eng e
  match translateRange s (ccOfEngine e) (engKeys e) g.asn va n acc true with
  | (s, .wait) => (s, .waits)
  | (s, .fault fva r pte lv) =>
    (agRaise (scalarFault s e g.asn fva 9 en.dsn acc r pte lv) o.who en (if acc.writes then 0x12 else 0x11) fva, .raised)
  | (s, .ok l) =>
    if l.all (fun p => region s p.1 == .unified) then
      (s, .memory (l.map (fun p => (p.1, p.2.1))) (!g.scDisabled && l.all (fun p => p.2.2.pbmt == 0)))
    else
      match l with
      | [(pa, _, _)] => if n = 8 ∧ pa % 8 = 0 then (s, .mmio pa) else (agRaise s o.who en 0x18 va, .raised)
      | _ => (agRaise s o.who en 0x18 va, .raised)

/-- The lines that an access needs from their homes: all of an uncached access, the missing ones of a cached one. -/
def neededLines (g : Engine) (l : List (Nat × Nat)) (cached : Bool) : List Nat :=
  ((l.flatMap (fun p => linesOf p.1 p.2)).eraseDups).filter (fun n => !cached || look 0 g.sc n == 0)

/-- An access goes through the scalar cache: one miss may be outstanding, and a second holds the queue (R53). -/
def throughCache (s : State) (e : Nat) (en : Entry) (l : List (Nat × Nat)) (cached : Bool) (go : State → State) : State :=
  let g := s.eng e
  let need := neededLines g l cached
  if need.any (fun n => memWaits s (n * 64) 1) then s
  else if need.isEmpty then go s
  else if !cached then go (forAll need (fun n s => homeTouch (uncache s (n * 64) 64) n false) s)
  else if g.scMiss.isSome then s.modEng e (fun g => { g with scHeld := true })
  else
    let s := forAll need (fun n s => scRoom (directoryRecall (homeTouch s n false) n) e) s
    let s := s.modEng e (fun g => { g with
      scMiss := need.head?, sc := need.foldl (fun t n => tabIns n 1 t) g.sc })
    go (pmEvent e 0x06 0xFF need.length (some (en.sampled 0)) s)

/-- A load by an engine. A poisoned line is reported at the base address of the access (log entry 135). -/
def engLoad (s : State) (o : MOp) (e : Nat) (en : Entry) (n : Nat) (signed : Bool) : State :=
  let va := (agS s o.who (wS1 en.word) + wImmS en.word).toNat
  let done (s : State) (v : Word) : State := agDone (agPutS s o.who (wDst en.word) v) o.who en 128
  match scalarReach s o e en va n .r with
  | (s, .raised) => s
  | (_, .waits) => s
  | (t, .mmio pa) =>
    if mmioReadWaits t pa then s
    else done t (mmioRead t pa)
  | (t, .memory l cached) =>
    throughCache t e en l cached (fun s =>
      if l.any (fun p => memPoisoned s p.1 p.2) then agRaise s o.who en 0x20 va
      else
        let g := s.eng e
        let p := s.fresh
        done (p.2.modEng e (fun g => { g with earlier := g.earlier.map (Earlier.touch l) }))
          (extendLoad n signed (leNat (l.flatMap (fun q => loadBytes s g.earlier p.1 g.own q.1 q.2)))))

/-- A store by an engine: it retires into the store buffer, and a cached line becomes dirty. -/
def engStore (s : State) (o : MOp) (e : Nat) (en : Entry) (n : Nat) : State :=
  let va := (agS s o.who (wS1 en.word) + wImmS en.word).toNat
  let v := agS s o.who (wS2 en.word)
  match scalarReach s o e en va n .w with
  | (s, .raised) => s
  | (_, .waits) => s
  | (t, .mmio pa) =>
    let asn := (t.eng e).asn
    let t := agDone t o.who en 128
    mmioWrite t asn pa v (.engine e)
  | (t, .memory l cached) =>
    throughCache t e en l cached (fun s =>
      let st := (l.foldl (fun (r : List Byte × List Store) p => (r.1.drop p.2, r.2 ++ bufferedStores p.1 (r.1.take p.2)))
        (leBytes n v.toNat, [])).2
      let s := s.modEng e (fun g => { g with
        stores := g.stores ++ st.map (fun x => { x with nc := !cached })
        earlier := g.earlier.map (Earlier.touch l)
        sc := if cached then (l.flatMap (fun p => linesOf p.1 p.2)).foldl (fun t n => tabIns n 2 t) g.sc else g.sc })
      agDone s o.who en 128)

/-- LD of `n` bytes by an engine or a kernel. -/
def memLoad (s : State) (opc n : Nat) (signed : Bool) (o : MOp) : State :=
  single s o.who (mkWord opc 0 o) (fun en =>
    match o.who with
    | .engine e => engLoad s o e.val en n signed
    | .unit u => unitLoad s o u.val en n signed)

/-- ST of `n` bytes by an engine or a kernel. -/
def memStore (s : State) (opc n : Nat) (o : MOp) : State :=
  single s o.who (mkWord opc 0 o) (fun en =>
    match o.who with
    | .engine e => engStore s o e.val en n
    | .unit u => unitStore s o u.val en n)

/-- LD.B. -/
def execLdB (o : MOp) (s : State) : Out := .next (memLoad s 0x40 1 true o)

/-- LD.H. -/
def execLdH (o : MOp) (s : State) : Out := .next (memLoad s 0x41 2 true o)

/-- LD.W. -/
def execLdW (o : MOp) (s : State) : Out := .next (memLoad s 0x42 4 true o)

/-- LD.D. -/
def execLdD (o : MOp) (s : State) : Out := .next (memLoad s 0x43 8 true o)

/-- LD.BU. -/
def execLdBu (o : MOp) (s : State) : Out := .next (memLoad s 0x44 1 false o)

/-- LD.HU. -/
def execLdHu (o : MOp) (s : State) : Out := .next (memLoad s 0x45 2 false o)

/-- LD.WU. -/
def execLdWu (o : MOp) (s : State) : Out := .next (memLoad s 0x46 4 false o)

/-- ST.B. -/
def execStB (o : MOp) (s : State) : Out := .next (memStore s 0x48 1 o)

/-- ST.H. -/
def execStH (o : MOp) (s : State) : Out := .next (memStore s 0x49 2 o)

/-- ST.W. -/
def execStW (o : MOp) (s : State) : Out := .next (memStore s 0x4A 4 o)

/-- ST.D. -/
def execStD (o : MOp) (s : State) : Out := .next (memStore s 0x4B 8 o)

end Sys2Proof.Machine
end

