-- ==== Sys2Proof/Machine/HartMem.lean ====
section
/-! DEFINITION. What harts and devices do to memory and to the register windows (R9, R207–R214, R222, R227, R233, R254,
R255, R292–R301, R312, R322, R323, R326, R427). -/

namespace Sys2Proof.Machine

/-- Whether a range lies wholly in the unified range. -/
def inUnified (s : State) (a n : Nat) : Bool := decide (a + n ≤ s.uBytes)

/-- An access raises an exception, by its RISC-V cause and the address that it names, and has no other effect. -/
def hartFault (s : State) (h cause va : Nat) : State := s.modHart h (fun g => { g with exc := cause, excVal := va })

/-- An access ends without an exception, with the value it returns. Later loads are performed after it. -/
def hartDone (s : State) (h : Nat) (v : BitVec 128) : State := s.modHart h (fun g => { g with exc := 0, reply := v, earlier := none })

/-- The right that an access needs. -/
def hartRight (o : HartOp) : Acc :=
  match o with
  | .fetch => .x
  | .load | .lr => .r
  | .store | .sc => .w

/-- The access-fault cause: instruction, load, or store and AMO (R9, R237). -/
def hartCause (o : HartOp) : Nat := PageFault.access.cause (hartRight o)

/-- The lines of an access's pieces. -/
def pieceLines (l : List (Nat × Nat)) : List Nat := (l.flatMap (fun p => linesOf p.1 p.2)).eraseDups

/-- Whether a core serves an access to a line from its caches: a store needs no line that L1D does not hold. -/
def hartHolds (g : Hart) (l : Nat) (fetch : Bool) : Bool := look 0 g.cache l != 0 || (fetch && nHas l g.icache)

/-- A line reaches a core's caches where they lack it: a miss of L2 goes to the line's home. The events count it (R292, R295,
R427). -/
def hartFill (s : State) (h l : Nat) (fetch : Bool) : State :=
  let g := s.hart h
  if (if fetch then nHas l g.icache else nHas l g.l1d) then s
  else
    let s := if fetch then s else hartEvent s h 1 1
    let cc := home (l * 64)
    let near := decide (cc / 2 = h / 64)
    let hit := look 0 (s.pc cc).lines l != 0
    let s :=
      if look 0 g.cache l ≠ 0 then s
      else
        let s := hartEvent s h 2 1
        let s := if near && hit then hartEvent s h 3 1 else s
        let s := if near then s else hartEvent s h 4 1
        let s := if !hit && !residentTile s (l / 1024) then hartEvent s h 5 1 else s
        let s := hartRoom (directoryRecall (homeTouch s l false) l) h
        s.modHart h (fun g => { g with cache := tabIns l 1 g.cache })
    let n := s.fresh
    n.2.modHart h (fun g => if fetch then { g with icache := l1Enter n.1 l g.icache } else { g with l1d := l1Enter n.1 l g.l1d })

/-- The lines of an access that the hart does not hold reach it from their homes; a store's become dirty. -/
def hartLines (s : State) (h : Nat) (ls : List Nat) (write fetch : Bool) : State :=
  forAll ls (fun l s =>
    let s := hartFill s h l fetch
    if write then s.modHart h (fun g => { g with cache := tabIns l 2 g.cache }) else s) s

/-- Whether an access must wait at a home, or for the link to it: a line that the hart holds is served at once. -/
def hartWaits (s : State) (h : Nat) (ls : List Nat) (nc fetch : Bool) : Bool :=
  ls.any (fun l => (nc || !hartHolds (s.hart h) l fetch) && (memWaits s (l * 64) 1 || hostHeld s (h / 64) (home (l * 64))))

/-- An access's lines are brought to the core, or its non-cacheable ones are performed at the home (R296). -/
def hartTouch (s : State) (h : Nat) (l : List (Nat × Nat)) (nc write fetch : Bool) : State :=
  if nc then forAll l (fun p s => memTouch (uncache s p.1 p.2) p.1 p.2) s else hartLines s h (pieceLines l) write fetch

/-- A load or LR of the unified range (R213, R214, R254). One that is not within an aligned 8-byte word is performed in
pieces, from the hart's access before it on (R211, R212). -/
def hartLoad (s : State) (h : Nat) (a : HartAcc) (l : List (Nat × Nat)) (nc : Bool) : State :=
  if hartWaits s h (pieceLines l) nc false then s
  else if l.any (fun p => memPoisoned s p.1 p.2) then hartFault s h 19 a.addr
  else if a.op = .lr ∧ a.addr % a.size ≠ 0 then hartFault s h 4 a.addr
  else
    let x := if (l.flatMap (fun p => wordPieces p.1 p.2)).length ≤ 1 then none else (s.hart h).earlier
    let v := leNat (l.flatMap (fun p => loadBytes s x s.nonce (s.hart h).stores p.1 p.2))
    let s := if x.isSome then s.fresh.2 else s
    let s := hartTouch s h l nc false false
    let s := if a.op = .lr then s.modHart h (fun g => { g with lr := (l.head?).map (fun p => p.1 / 64) }) else s
    hartDone s h (BitVec.ofNat 128 v)

/-- An instruction fetch: the core may have fetched its bytes at any moment since its latest FENCE.I (R297; log entry 156). -/
def hartFetch (s : State) (h : Nat) (a : HartAcc) (l : List (Nat × Nat)) (nc : Bool) : State :=
  if hartWaits s h (pieceLines l) nc true then s
  else if l.any (fun p => memPoisoned s p.1 p.2) then hartFault s h 19 a.addr
  else
    let g := s.hart h
    let n := s.fresh
    let v := leNat (l.flatMap (fun p => loadBytes s g.ahead n.1 g.stores p.1 p.2))
    let s := hartTouch n.2 h l nc false true
    let s := s.modHart h (fun g => { g with instr := BitVec.ofNat 128 v, ahead := if g.ahead.isSome then g.ahead else s.moment })
    hartDone s h g.reply

/-- A store to the unified range enters the store buffer (R211, R213). -/
def hartStore (s : State) (h : Nat) (a : HartAcc) (l : List (Nat × Nat)) (nc : Bool) : State :=
  if hartWaits s h (pieceLines l) nc false then s
  else
    let st := (l.foldl (fun (r : List Byte × List Store) p => (r.1.drop p.2, r.2 ++ bufferedStores p.1 (r.1.take p.2)))
      (leBytes a.size a.data, [])).2
    let s := hartTouch s h l nc true false
    let s := s.modHart h (fun g => { g with stores := g.stores ++ st.map (fun x => { x with nc := nc }) })
    hartDone s h (s.hart h).reply

/-- SC: performed where the reservation holds, and the reservation is gone in any case (R214). The value is 0 for
success. An earlier store of the hart to the same bytes is performed first. -/
def hartSc (s : State) (h : Nat) (a : HartAcc) (l : List (Nat × Nat)) (nc : Bool) : State :=
  let pa := ((l.head?).map Prod.fst).getD 0
  if a.addr % a.size ≠ 0 then hartFault s h 6 a.addr
  else if (s.hart h).lr ≠ some (pa / 64) then hartDone (s.modHart h (fun g => { g with lr := none })) h 1
  else if hartWaits s h (pieceLines l) nc false || hartStoresWait s h (s.hart h).stores then s
  else
    let st : Store := { pa := pa, bytes := leBytes a.size a.data, nc := nc }
    let s := if (s.hart h).stores.any (storesMeet st) then drainHart s h else s
    let s := hartTouch s h l nc true false
    hartDone ((performStores s (.hart h) [st]).modHart h (fun g => { g with lr := none })) h 0

/-- A 16-byte write of TK_TX_DATA or of SB_CMD, as one transaction (R212). -/
def wideTarget (pa : Nat) : Bool :=
  pa % 16 == 0 &&
    ((decide (ticketBase ≤ pa) && decide ((pa - ticketBase) / 4096 < 128) && decide (pa % 4096 < 0x40)) ||
     pa == mmioBase + 0x28 * 2 ^ 32 + 0x7000 || pa == mmioBase + 0x29 * 2 ^ 32 + 0x7000)

/-- The Concourse that connects a die site to the package network (R16). -/
def siteConcourse (site : Nat) : Nat :=
  if site < 4 then site
  else if 0x08 ≤ site ∧ site < 0x10 then (site - 0x08) / 2
  else if 0x10 ≤ site ∧ site < 0x1C then (site - 0x10) / 3
  else if site = 0x21 then 2
  else if site = 0x29 then 1
  else 0

/-- Whether a hart's access to a window is held at its die's ports (R322, R323): its own die's port domain is always reached. -/
def portHeld (s : State) (h pa : Nat) : Bool :=
  let d := h / 64
  if ticketBase ≤ pa then
    let k := (pa - ticketBase) / 4096 / 64
    k != d && decide (k < 2) && (hostCut s d || hostCut s k)
  else
    let site := (pa - mmioBase) / 2 ^ 32
    site != siteCP d && hostHeld s d (siteConcourse site)

/-- An access to the MMIO range or the Ticket window (R9, R10, R212, R330). -/
def hartMmio (s : State) (h : Nat) (a : HartAcc) (pa : Nat) : State :=
  let v := BitVec.ofNat 64 a.data
  if portHeld s h pa then s
  else if a.size = 8 ∧ pa % 8 = 0 ∧ a.op = .load then
    if mmioReadWaits s pa then s else hartDone s h ((mmioRead s pa).setWidth 128)
  else if a.size = 8 ∧ pa % 8 = 0 ∧ a.op = .store then
    mmioWrite (hartDone s h (s.hart h).reply) 0 pa v (.hart h)
  else if a.size = 16 ∧ a.op = .store ∧ wideTarget pa then
    mmioWrite (mmioWrite (hartDone s h (s.hart h).reply) 0 pa v (.hart h)) 0 (pa + 8) (BitVec.ofNat 64 (a.data / 2 ^ 64)) (.hart h)
  else hartFault s h (hartCause a.op) a.addr

/-! ### The diagnostic direct windows (R48, R231, R302) -/

/-- Byte `a` of the windows, as the physical location holds it: of a frame it may be older than what observers see;
a location of neither kind gives a free value (log entries 23 and 136). -/
def diagByte (s : State) (n a : Nat) : Byte :=
  let p := Config.diagPlace (a / 8)
  let b := p.2 * 8 + a % 8
  match p.1 with
  | 0 => if s.uBytes ≤ b then Config.freeByte n a
         else if Config.freeBool n (a / 8) then (frameLine s (b / 64)).getD (b % 64) 0 else look 0 s.mem b
  | e + 1 => if e < 256 then look 0 (s.eng e).ts (b % tsSize) else Config.freeByte n a

/-- A read of the windows. -/
def diagRead (s : State) (h a n : Nat) : State :=
  hartDone s.fresh.2 h (BitVec.ofNat 128 (leNat ((List.range n).map (fun i => diagByte s s.fresh.1 (a + i)))))

/-- Whether a cache holds a line. -/
def lineCached (s : State) (l : Nat) : Bool :=
  s.engines.any (fun g => look 0 g.2.sc l != 0) || s.harts.any (fun g => look 0 g.2.cache l != 0) ||
    look 0 (s.pc (home (l * 64))).lines l != 0

/-- A byte written through the windows goes to its location, past homes and caches. A frame whose line a cache holds
keeps it until the cached copy is written back. -/
def diagPut (s : State) (a : Nat) (v : Byte) : State :=
  let p := Config.diagPlace (a / 8)
  let b := p.2 * 8 + a % 8
  match p.1 with
  | 0 =>
    if s.uBytes ≤ b || inMirror s b then s
    else if lineCached s (b / 64) then { s with stale := put [] s.stale (b / 64) ((frameLine s (b / 64)).set (b % 64) v) }
    else { s with mem := put 0 s.mem b v }
  | e + 1 => if e < 256 then s.modEng e (fun g => { g with ts := put 0 g.ts (b % tsSize) v }) else s

/-- A write of the windows. -/
def diagWrite (s : State) (a : Nat) (bytes : List Byte) : State := forAll bytes.zipIdx (fun b s => diagPut s (a + b.2) b.1) s

/-- Whether a write by a hart waits at an engine window of a die block, with which its later accesses to the block keep their
order (R228). -/
def holdsInBlock (s : State) (h site : Nat) : Bool :=
  s.engines.any (fun p => siteSP (spireOf p.1) == site && p.2.heldCtrl.any (fun w => w.by_ == .hart h))

/-- Whether a hart's next access must wait: for the fence after an MMIO write that is held, or for a fence of its own whose
stores wait at their homes or behind a held write (R227, R247). -/
def hartBlocked (s : State) (h : Nat) (a : HartAcc) : Bool :=
  let o : Obs := .hart h
  ((s.hart h).fencing && holdsWrite s o) || ((a.pre || a.post) && hartStoresWait s h (s.hart h).stores) || (a.pre && holdsWrite s o)

/-- After an access: a fence that follows it waits for a held write (R227). -/
def hartAfter (s : State) (h : Nat) (post : Bool) : State :=
  s.modHart h (fun g => { g with fencing := post && holdsWrite s (.hart h) })

/-- A translated access: to memory, to a register window, where it keeps its order with a held write to the same die block
(R228), or to a diagnostic window. -/
def hartPerform (s : State) (h : Nat) (a : HartAcc) (l : List (Nat × Nat)) (nc : Bool) : State :=
  if l.all (fun p => region s p.1 == .unified && inUnified s p.1 p.2) then
    match a.op with
    | .load | .lr => hartLoad s h a l nc
    | .fetch => hartFetch s h a l nc
    | .store => hartStore s h a l nc
    | .sc => hartSc s h a l nc
  else match l with
    | [(pa, _)] =>
      (match region s pa with
       | .mmio => if holdsInBlock s h ((pa - mmioBase) / 2 ^ 32) then s else hartMmio s h a pa
       | .ticket => hartMmio s h a pa
       | .diag =>
         if a.op = .load then diagRead s h pa a.size
         else if a.op = .store then diagWrite (hartDone s h (s.hart h).reply) pa (leBytes a.size a.data)
         else hartFault s h (hartCause a.op) a.addr
       | .hole | .unified => hartFault s h (hartCause a.op) a.addr)
    | _ => hartFault s h (hartCause a.op) a.addr

/-- An access by a running hart, after what its core has done since the last one (R312). -/
def hartAccess (s : State) (h : Nat) (a : HartAcc) : State :=
  if !(s.host (h / 64)).running then s
  else
    let p := hartSteps s h a.core
    let s := p.1
    if !p.2 ∨ a.size = 0 ∨ hartBlocked s h a then s
    else
      match hartReach (if a.pre then drainHart s h else s) h a.addr a.size (hartRight a.op) with
      | (_, .wait) => s
      | (t, .fault c va) => hartFault t h c va
      | (t, .ok l nc) =>
        let done := hartPerform t h a l nc
        hartAfter (if a.post then drainHart done h else done) h a.post

/-! ### AMOs (R204, R222, R254) -/

/-- The value an AMO of `n` bytes stores. -/
def amoValue (op : AmoOp) (n old data cmp : Nat) : Nat :=
  let w := 8 * n
  let x := old % 2 ^ w
  let y := data % 2 ^ w
  match op with
  | .add => (x + y) % 2 ^ w
  | .swap => y
  | .xor => Nat.xor x y
  | .and => x &&& y
  | .or => x ||| y
  | .min => if sextN w x ≤ sextN w y then x else y
  | .max => if sextN w x ≤ sextN w y then y else x
  | .minu => min x y
  | .maxu => max x y
  | .cas => if x = cmp % 2 ^ w then y else x

/-- The widths of AMOs: 1 and 2 bytes by Zabha, 4 and 8, and 16 for compare and swap (R311). -/
def amoSizeOk (op : AmoOp) (n : Nat) : Bool := n == 1 || n == 2 || n == 4 || n == 8 || (n == 16 && op == .cas)

/-- An AMO at a physical address, in the total order of atomics of that address. With `rl` its earlier stores are visible
first; its later loads are performed after it, with `aq` or without, in the order of the commands (R223). -/
def hartAmoAt (s : State) (h : Nat) (a : HartAmo) (pa : Nat) : State :=
  if region s pa ≠ .unified ∨ !inUnified s pa a.size then hartFault s h 7 a.addr
  else if hartWaits s h (linesOf pa a.size) true false || hartStoresWait s h (s.hart h).stores then s
  else if memPoisoned s pa a.size then hartFault s h 19 a.addr
  else
    let probe : Store := { pa := pa, bytes := List.replicate a.size 0 }
    let s := if a.rl || (s.hart h).stores.any (storesMeet probe) then drainHart s h else s
    let old := leNat (memRead s pa a.size)
    hartDone (lineWrite s (.hart h) pa (leBytes a.size (amoValue a.op a.size old a.data a.cmp)) false) h (BitVec.ofNat 128 old)

/-- An AMO by a running hart. -/
def hartAmo (s : State) (h : Nat) (a : HartAmo) : State :=
  if !amoSizeOk a.op a.size || !(s.host (h / 64)).running || ((s.hart h).fencing && holdsWrite s (.hart h)) then s
  else if a.addr % a.size ≠ 0 then hartFault s h 6 a.addr
  else
    match hartReach s h a.addr a.size .a with
    | (_, .wait) => s
    | (t, .fault c va) => hartFault t h c va
    | (t, .ok l _) => hartAmoAt t h a (((l.head?).map Prod.fst).getD 0)

/-! ### Cache-block operations (R299–R301) -/

/-- A cache-block operation on a line of memory, after the hart's own earlier stores to it. -/
def hartCboAt (s : State) (h va pa : Nat) (acc : Acc) (act : Nat → State → State) : State :=
  if region s pa ≠ .unified then hartFault s h (PageFault.access.cause acc) va
  else if memWaits s pa 1 || hostHeld s (h / 64) (home pa) || hartStoresWait s h (s.hart h).stores then s
  else
    let l := pa / 64
    let own : Store := { pa := l * 64, bytes := List.replicate 64 0 }
    let s := if (s.hart h).stores.any (storesMeet own) then drainHart s h else s
    hartDone (act l s) h (s.hart h).reply

/-- A cache-block operation: enabled by the environment configurations as `on` says, and translated and checked as a load,
or, for CBO.ZERO, as the store that it is (R300, R301). -/
def hartCbo (s : State) (h addr : Nat) (acc : Acc) (on : Word → Bool) (act : Nat → State → State) : State :=
  if !(s.host (h / 64)).running || ((s.hart h).fencing && holdsWrite s (.hart h)) then s
  else match (s.hart h).cboStop on with
    | some c => hartFault s h c 0
    | none =>
      match hartReach s h (addr / 64 * 64) 64 acc with
      | (_, .wait) => s
      | (t, .fault c _) => hartFault t h c addr
      | (t, .ok l _) => hartCboAt t h addr (((l.head?).map Prod.fst).getD 0) acc act

/-- CBIE, CBCFE and CBZE of an environment configuration (R300). -/
def cbie (w : Word) : Bool := fld w 5 4 == 1
def cbcfe (w : Word) : Bool := bit w 6
def cbze (w : Word) : Bool := bit w 7

/-- CBO.ZERO stores 64 zero bytes as one whole line. -/
def zeroLine (h l : Nat) (s : State) : State :=
  (hartLines s h [l] true false).modHart h (fun g =>
    { g with stores := g.stores ++ [{ pa := l * 64, bytes := List.replicate 64 0 }] })

/-! ### Devices (R233, R254, R255, R314, R326) -/

/-- Whether a device's request is served at all: its die and its reference clock are there. -/
def deviceWorks (s : State) (d : Nat) : Bool := !(s.host d).failed && s.pkg.clocks.testBit (2 + d)

/-- A device request is completed as Unsupported Request. -/
def dmaRefuse (s : State) (d : Nat) : State := s.modHost d (fun c => { c with dmaRefused := true, dmaData := [], dmaPoison := false })

/-- Whether a device's request is held at its die's ports or waits at a home. -/
def dmaWaits (s : State) (d pa n : Nat) : Bool := memWaits s pa n || hostHeld s d (home pa)

/-- A device write that the IOMMU has passed: outside the unified range it is an Unsupported Request. -/
def dmaPut (s : State) (d pa : Nat) (bytes : List Byte) : State :=
  if !inUnified s pa bytes.length then dmaRefuse s d
  else if dmaWaits s d pa bytes.length then s
  else (memWrite s .other pa bytes false).modHost d (fun c => { c with dmaRefused := false })

/-- A device's MSI reaches the interrupt file that its page names (R314, R326). -/
def dmaMsi (s : State) (d page ident : Nat) : State :=
  let k := Config.msiPage page
  let s := if k / 16 < 128 ∧ k % 16 < 9 ∧ ident < 256 then sendMsi s (k / 16) (k % 16) ident else s
  s.modHost d (fun c => { c with dmaRefused := false })

/-- The bytes that a device reads: those of a poisoned line are unspecified (R282). -/
def dmaBytes (s : State) (fresh addr n : Nat) : List Byte :=
  (List.range n).map (fun i => if nHas ((addr + i) / 64) s.poison then Config.freeByte fresh i else memByte s (addr + i))

/-- A device read that the IOMMU has passed. -/
def dmaGet (s : State) (d pa n : Nat) : State :=
  if !inUnified s pa n then dmaRefuse s d
  else if dmaWaits s d pa n then s
  else
    let p := s.fresh
    (memTouch p.2 pa n).modHost d (fun c => { c with
      dmaRefused := false, dmaData := dmaBytes s p.1 pa n, dmaPoison := memPoisoned s pa n })

/-- A device's request, after what happened at the ports before it: through the IOMMU, which records what it refuses. -/
def dmaRequest (s : State) (d : Nat) (a : DevAcc) (n : Nat) (write : Bool) (go : State → Nat → State)
    (msi : State → Nat → State) : State :=
  let s := portSteps s d a.port
  if n = 0 ∨ !deviceWorks s d then s
  else match ioReach s d a.dev.toNat a.addr write with
    | (_, .wait) => s
    | (t, .fault c) => dmaRefuse (ioFault t d a.dev.toNat c (if write then 3 else 2) a.addr) d
    | (t, .mem pa) => go t pa
    | (t, .msi page) => msi t page

def dmaWrite (s : State) (d : Nat) (a : DevAcc) (bytes : List Byte) : State :=
  dmaRequest s d a bytes.length true (fun t pa => dmaPut t d pa bytes) (fun t page => dmaMsi t d page (leNat bytes))

def dmaRead (s : State) (d : Nat) (a : DevAcc) (n : Nat) : State :=
  dmaRequest s d a n false (fun t pa => dmaGet t d pa n) (fun t _ => dmaRefuse t d)

/-! ### The rows -/

/-- HART_ACCESS. -/
def execHartAccess (h : Fin 128) (a : HartAcc) (s : State) : Out := .next (hartAccess s h a)

/-- HART_AMO. -/
def execHartAmo (h : Fin 128) (a : HartAmo) (s : State) : Out := .next (hartAmo s h a)

/-- CBO.CLEAN. -/
def execCboClean (h : Fin 128) (addr : Nat) (s : State) : Out := .next (hartCbo s h addr .r cbcfe (fun l s => cleanLine s l false))

/-- CBO.FLUSH. -/
def execCboFlush (h : Fin 128) (addr : Nat) (s : State) : Out := .next (hartCbo s h addr .r cbcfe (fun l s => cleanLine s l true))

/-- CBO.INVAL always executes as a flush (R300). -/
def execCboInval (h : Fin 128) (addr : Nat) (s : State) : Out := .next (hartCbo s h addr .r cbie (fun l s => cleanLine s l true))

/-- CBO.ZERO. -/
def execCboZero (h : Fin 128) (addr : Nat) (s : State) : Out := .next (hartCbo s h addr .w cbze (zeroLine h))

/-- PREFETCH: a hint that may be ignored, and is (R299). -/
def execPrefetch (_ : Fin 128) (_ : Nat) (s : State) : Out := .next s

/-- DEVICE_DMA_WRITE. -/
def execDeviceDmaWrite (d : Fin 2) (a : DevAcc) (bytes : List Byte) (s : State) : Out := .next (dmaWrite s d a bytes)

/-- DEVICE_DMA_READ. -/
def execDeviceDmaRead (d : Fin 2) (a : DevAcc) (n : Nat) (s : State) : Out := .next (dmaRead s d a n)

end Sys2Proof.Machine
end

