-- ==== Sys2Proof/Machine/VectorReduce.lean ====
section
/-! DEFINITION. Vector reductions, scans, ordering and selection (R119–R122). -/

namespace Sys2Proof.Machine

/-- Segments of a register of `n` lanes: start and length of each, in lane order (R119). -/
def segments (starts : Nat → Bool) (n : Nat) : List (Nat × Nat) :=
  let st := (List.range n).filter (fun i => i == 0 || starts i)
  st.zipIdx.map (fun p => (p.1, (st.getD (p.2 + 1) n) - p.1))

/-- The segments that an instruction names by SEGP (R119). -/
def agSegments (s : State) (who : Agent) (en : Entry) (n : Nat) : List (Nat × Nat) :=
  let j := bitsN (wImm en.word) 5 3
  if j = 0 then [(0, n)] else segments (fun i => (agP s who j).getLsbD i) n

/-- The identity of an ROP (R120). -/
def ropIdentity (t rop : Nat) : Nat :=
  match fpOfType t with
  | some f => (match rop with
    | 0 => f.signBit
    | 1 => f.infCode
    | _ => f.infCode + f.signBit)
  | none =>
    let w := typeWidth t
    (match rop with
     | 1 => wrapN w (intMax (typeSigned t) w)
     | 2 => wrapN w (intMin (typeSigned t) w)
     | 3 => 2 ^ w - 1
     | _ => 0)

/-- One ROP on encodings (R119, R121). -/
def ropApply (t rop : Nat) (rm : RMode) (a b : Nat) : Nat × Flags :=
  match fpOfType t with
  | some f => fpOp2 f rm (match rop with | 0 => .add | 1 => .min | _ => .max) a b
  | none =>
    let w := typeWidth t
    (match rop with
     | 0 => (a + b) % 2 ^ w
     | 1 => if intVal t a ≤ intVal t b then a else b
     | 2 => if intVal t a ≤ intVal t b then b else a
     | 3 => a &&& b
     | 4 => a ||| b
     | _ => Nat.xor a b, 0)

/-- One level of the pairwise tree (R121). -/
def pairUp (op : Nat → Nat → Nat × Flags) : List Nat → List Nat × Flags
  | a :: b :: t => let r := op a b; let u := pairUp op t; (r.1 :: u.1, r.2 ||| u.2)
  | l => (l, 0)

/-- The pairwise tree over a segment (R121); `n` bounds the levels. -/
def treeReduce (op : Nat → Nat → Nat × Flags) : Nat → List Nat → Flags → Nat × Flags
  | 0, l, f => (l.headD 0, f)
  | n + 1, l, f =>
    match l with
    | [] => (0, f)
    | [x] => (x, f)
    | l => let r := pairUp op l; treeReduce op n r.1 (f ||| r.2)

/-- The lanes of a reduction or scan, inactive ones holding the identity (R120). -/
def redLanes (s : State) (who : Agent) (en : Entry) (t rop : Nat) : List Lane :=
  let l := agLanes s who (typeWidth t) (wS1 en.word)
  l.zipIdx.map (fun x => if agActive s who en x.2 then x.1 else { val := ropIdentity t rop })

/-- Steps of VRED, VSCAN and VARG (R124). -/
def redSteps (n : Nat) : Nat := Nat.log2 n + 2

/-- VRED (R119–R121). -/
def execVred (o : MOp) (s : State) : Out :=
  .next (vecRow s 0x40 o (fun en =>
    let imm := wImm en.word
    let t := iType imm
    let w := typeWidth t
    let n := agBits o.who / w
    let rop := iOpx imm % 8
    let l := redLanes s o.who en t rop
    let segs := agSegments s o.who en n
    let outs := segs.map (fun g =>
      let part := (l.drop g.1).take g.2
      let r := treeReduce (ropApply t rop (rmOf (iRm imm) .rne)) 9 (part.map Lane.val) 0
      ({ val := r.1, fl := r.2, pois := part.any Lane.pois } : Lane))
    let full := outs ++ List.replicate (n - outs.length) { val := 0 }
    let s := agFlags (agPutFree s o.who w (wDst en.word) full) o.who (laneFlags full)
    agDone (agSteps s o.who en (redSteps n)) o.who en 128))

/-- An inclusive scan of a segment (R121). -/
def scanSeg (op : Nat → Nat → Nat × Flags) : Option Lane → List Lane → List Lane
  | _, [] => []
  | none, a :: t => a :: scanSeg op (some a) t
  | some r, a :: t =>
    let x := op r.val a.val
    let v : Lane := { val := x.1, fl := x.2, pois := r.pois || a.pois }
    v :: scanSeg op (some v) t

/-- VSCAN (R119–R121): every lane is written. -/
def execVscan (o : MOp) (s : State) : Out :=
  .next (vecRow s 0x41 o (fun en =>
    let imm := wImm en.word
    let t := iType imm
    let w := typeWidth t
    let n := agBits o.who / w
    let rop := iOpx imm % 8
    let l := redLanes s o.who en t rop
    let full := (agSegments s o.who en n).flatMap (fun g =>
      scanSeg (ropApply t rop (rmOf (iRm imm) .rne)) none ((l.drop g.1).take g.2))
    let s := agFlags (agPutFree s o.who w (wDst en.word) full) o.who (laneFlags full)
    agDone (agSteps s o.who en (redSteps n)) o.who en 128))

/-! ### Ordering (R122) -/

/-- A key's place in the total order: none for NaN, which is preferred least. −0 precedes +0. -/
def orderKey (t v : Nat) : Option Int :=
  match fpOfType t with
  | some f =>
    if (fpDecode f v).isNan then none
    else
      let m : Nat := v % f.signBit
      some (if v / f.signBit % 2 == 1 then -(m : Int) - 1 else (m : Int))
  | none => some (intVal t v)

/-- Whether key `a` of lane `i` is preferred to key `b` of lane `j`; `low` prefers smaller keys. -/
def preferred (t : Nat) (low : Bool) (a b : Nat × Nat) : Bool :=
  match orderKey t a.1, orderKey t b.1 with
  | some x, some y => if x = y then decide (a.2 < b.2) else if low then decide (x < y) else decide (y < x)
  | some _, none => true
  | none, some _ => false
  | none, none => decide (a.2 < b.2)

/-- Inserts a (key, lane) pair into a list sorted by preference. -/
def insPref (t : Nat) (low : Bool) (x : Nat × Nat) : List (Nat × Nat) → List (Nat × Nat)
  | [] => [x]
  | y :: r => if preferred t low x y then x :: y :: r else y :: insPref t low x r

/-- (Key, lane) pairs sorted by preference. -/
def sortPref (t : Nat) (low : Bool) (l : List (Nat × Nat)) : List (Nat × Nat) := l.foldr (insPref t low) []

/-- The fill key (R122). -/
def fillKey (t : Nat) (dir : Bool) : Nat :=
  match fpOfType t with
  | some f => if dir then f.infCode else f.infCode + f.signBit
  | none =>
    let w := typeWidth t
    wrapN w (if dir then intMax (typeSigned t) w else intMin (typeSigned t) w)

/-- The active keys of a segment with their lanes, and whether one is poisoned. -/
def segKeys (s : State) (who : Agent) (en : Entry) (l : List Lane) (g : Nat × Nat) : List (Nat × Nat) × Bool :=
  let lanes := ((List.range g.2).map (fun i => g.1 + i)).filter (fun i => agActive s who en i)
  (lanes.map (fun i => ((laneAt l i).val, i)), lanes.any (fun i => (laneAt l i).pois))

/-- Key and index lanes of a result of `len` lanes: the chosen keys, then fill. -/
def keyLanes (t : Nat) (dir : Bool) (len : Nat) (bad : Bool) (l : List (Nat × Nat)) : List (Lane × Lane) :=
  let w := typeWidth t
  (List.range len).map (fun i =>
    match l[i]? with
    | some (k, j) => ({ val := k, pois := bad }, { val := j, pois := bad })
    | none => ({ val := fillKey t dir, pois := bad }, { val := 2 ^ w - 1, pois := bad }))

/-- Writes a pair of registers (R119). -/
def putPair (s : State) (who : Agent) (w dst : Nat) (l : List (Lane × Lane)) : State :=
  let s := agPutFree s who w dst (l.map Prod.fst)
  agPutFree s who w (dst + 1) (l.map Prod.snd)

/-- Steps of VSORT and VTOPK (R124). -/
def sortSteps (n : Nat) : Nat := Nat.log2 n * (Nat.log2 n + 1) / 2

/-- An ordering instruction that fills each segment in place: `low dir` tells which keys are preferred and `k` how many
are kept. -/
def orderRow (s : State) (opc : Nat) (o : MOp) (low : Bool → Bool) (k : Nat → Nat) : State :=
  vecRow s opc o (fun en =>
    let imm := wImm en.word
    let t := iType imm
    let w := typeWidth t
    let n := agBits o.who / w
    let dir := imm.testBit 6
    let l := agLanes s o.who w (wS1 en.word)
    let full := (agSegments s o.who en n).flatMap (fun g =>
      let ks := segKeys s o.who en l g
      keyLanes t dir g.2 ks.2 ((sortPref t (low dir) ks.1).take (k imm)))
    let s := putPair s o.who w (wDst en.word) full
    agDone (agSteps s o.who en (sortSteps n)) o.who en 128)

/-- VSORT (R119, R122): DIR 0 ascending. -/
def execVsort (o : MOp) (s : State) : Out := .next (orderRow s 0x42 o (fun dir => !dir) (fun _ => 256))

/-- VTOPK (R119, R122): DIR 0 largest. -/
def execVtopk (o : MOp) (s : State) : Out := .next (orderRow s 0x43 o (fun dir => dir) (fun imm => bitsN imm 15 8))

/-- VARG (R119, R122): DIR 0 arg-max. -/
def execVarg (o : MOp) (s : State) : Out :=
  .next (vecRow s 0x44 o (fun en =>
    let imm := wImm en.word
    let t := iType imm
    let w := typeWidth t
    let n := agBits o.who / w
    let dir := imm.testBit 6
    let l := agLanes s o.who w (wS1 en.word)
    let outs := (agSegments s o.who en n).flatMap (fun g =>
      let ks := segKeys s o.who en l g
      keyLanes t dir 1 ks.2 ((sortPref t dir ks.1).take 1))
    let full := outs ++ keyLanes t dir (n - outs.length) false []
    let s := putPair s o.who w (wDst en.word) full
    agDone (agSteps s o.who en (redSteps n)) o.who en 128))

/-- VCOMPRESS (R119). -/
def execVcompress (o : MOp) (s : State) : Out :=
  .next (vecRow s 0x45 o (fun en =>
    let w := typeWidth (iType (wImm en.word))
    let n := agBits o.who / w
    let l := agLanes s o.who w (wS1 en.word)
    let kept := (l.zipIdx.filter (fun x => agActive s o.who en x.2)).map Prod.fst
    let full := kept ++ List.replicate (n - kept.length) { val := 0 }
    let s := agPutFree s o.who w (wDst en.word) full
    agDone (agSteps s o.who en 2) o.who en 128))

end Sys2Proof.Machine
end

