-- ==== Sys2Proof/Machine/Kernels.lean ====
section
/-! DEFINITION. The provided kernels: one whole invocation each (R202, R203, R442). An invocation first translates and
reads everything it needs, so that a fault holds it with nothing performed, and then performs its effects in an order
that the spec leaves open. -/

namespace Sys2Proof.Machine

/-- Why an invocation does not go on. -/
inductive KStop where
  | exc (code : Nat)
  | fault (va reason pte level : Nat) (acc : Acc)
  | wait (tile : Option Nat)
deriving DecidableEq, Repr

/-- One effect of an invocation, by virtual address. -/
inductive KOp where
  /-- Plain bytes with their poison. -/
  | write (va : Nat) (data : List PByte)
  /-- One atomic of `n` bytes (R92). -/
  | atomic (va n aop op : Nat) (bad : Bool)
  /-- FP minimum or maximum by compare-and-swap (SEG_REDUCE). -/
  | fpPick (va n : Nat) (max : Bool) (v : Nat) (bad : Bool)
  /-- One load, one addition and one store (SPMV_CSRT). -/
  | addStore (va n v : Nat) (bad : Bool)
  /-- A key offered to a segment's list under its lock (SEG_TOPK). -/
  | topk (lock out k ty : Nat) (dir : Bool) (key idx : Nat)
deriving DecidableEq, Repr

/-- An invocation under way: what it has read and what it is to do. -/
structure KRun where
  st   : State
  unit : Nat
  f    : LaunchF
  cc   : Nat
  off  : Nat              -- offset of its granule in the range
  len  : Nat
  xl   : List Xlat := []
  ops  : List KOp := []
  bad  : Bool := false    -- POISON
  stop : Option KStop := none
deriving DecidableEq, Repr

/-- Argument `i`. -/
def KRun.arg (r : KRun) (i : Nat) : Nat := r.f.arg i

/-- The first virtual address of the granule's part. -/
def KRun.va (r : KRun) : Nat := r.f.base + r.off

/-- Adds an effect. -/
def KRun.op (r : KRun) (o : KOp) : KRun := { r with ops := r.ops ++ [o] }

/-- Translates a range for an access, and reads it through its homes (R188, R194, R258). -/
def KRun.need (r : KRun) (va n : Nat) (acc : Acc) : KRun :=
  (pagePieces va n).foldl (fun r p =>
    if r.stop.isSome then r
    else
      let asn := r.f.asn
      let dom := domainOf r.st r.cc asn
      let held := r.xl.find? (fun x => x.covers asn p.1 && (!acc.writes || x.d) && xlatCheck r.st dom x p.1 acc true == 0)
      let t : State × XRes := match held with
        | some x => (r.st, .ok x)
        | none => translate r.st r.cc [16 + dieOfUnit r.unit, r.cc] asn p.1 acc true
      match t with
      | (s, .wait) => { r with st := s, stop := some (.wait none) }
      | (s, .fault rs pte lv) => { r with st := s, stop := some (.fault p.1 rs pte lv acc) }
      | (s, .ok x) =>
        let pa := x.pa p.1
        if region s pa != .unified then { r with st := s, stop := some (.exc 0x18) }
        else if memWaits s pa p.2 || (acc == .a && !atomicReady s pa p.2) then { r with stop := some (.wait (some (pa / 65536))) }
        else { r with st := if acc == .r then memTouch s pa p.2 else s, xl := { x with asn := asn } :: r.xl }) r

/-- Bytes that have been translated for reading, with their poison. Their aligned 8-byte words are read in any order since
the unit's accesses before (R211, R232). -/
def KRun.rd (r : KRun) (va n : Nat) : List PByte :=
  ((slotPieces r.xl r.f.asn va n).getD []).flatMap (fun p => (List.range p.2).map (fun i =>
    (pastByte r.st (r.st.unit r.unit).earlier r.st.nonce (p.1 + i), nHas ((p.1 + i) / 64) r.st.poison)))

/-- Reads a range. -/
def KRun.read (r : KRun) (va n : Nat) (go : KRun → List PByte → KRun) : KRun :=
  let r := r.need va n .r
  if r.stop.isSome then r else go r (r.rd va n)

/-- The number that bytes spell. -/
def pbNat (l : List PByte) : Nat := leNat (l.map Prod.fst)
/-- Whether a byte of a run is poisoned. -/
def pbBad (l : List PByte) : Bool := l.any Prod.snd

/-- Element `i` of `n` bytes of a run. -/
def pbEl (l : List PByte) (n i : Nat) : List PByte := (l.drop (n * i)).take n

/-- The numbers of the elements of `w` bytes that begin in the granule and lie wholly in the range (R202). -/
def KRun.els (r : KRun) (w : Nat) : List Nat :=
  let lo := (r.off + w - 1) / w
  let hi := (r.off + r.len + w - 1) / w
  ((List.range (hi - lo)).map (fun i => lo + i)).filter (fun j => decide ((j + 1) * w ≤ r.f.len))

/-- Reads every element of `w` bytes of the granule and works on each. -/
def KRun.eachEl (r : KRun) (w : Nat) (go : KRun → Nat → List PByte → KRun) : KRun :=
  (r.els w).foldl (fun r j => if r.stop.isSome then r else r.read (r.f.base + j * w) w (fun r l => go r j l)) r

/-- An element that names no target: POISON is set (R442). -/
def KRun.skip (r : KRun) : KRun := { r with bad := true }

/-! ### Effects -/

/-- The physical address of a translated virtual one. -/
def KRun.pa (r : KRun) (va : Nat) : Nat := (((slotPieces r.xl r.f.asn va 1).getD []).headD (0, 0)).1

/-- Writes bytes with their poison through the run's translations: those whose aligned 8-byte elements `keep` admits. -/
def kPut (s : State) (r : KRun) (o : Obs) (va : Nat) (data : List PByte) (keep : Nat → Bool := fun _ => true) : State :=
  writeLines s o (gatherLines (carPieces r.xl r.f.asn { loc := false, addr := va, data := data })) keep

/-- Whether a list entry of SEG_TOPK is preferred to another: fill entries, index −1, come last. -/
def topkPref (t : Nat) (low : Bool) (a b : Nat × Nat) : Bool :=
  if a.2 = 2 ^ 64 - 1 then false else if b.2 = 2 ^ 64 - 1 then true else preferred t low a b

/-- Inserts a pair before the first that it is preferred to. -/
def topkIns (t : Nat) (low : Bool) (x : Nat × Nat) : List (Nat × Nat) → List (Nat × Nat)
  | [] => [x]
  | y :: r => if topkPref t low x y then x :: y :: r else y :: topkIns t low x r

/-- Performs one effect, a write as far as `keep` admits its elements; the Boolean says that poison was met or written. -/
def kApply (s : State) (r : KRun) (o : Obs) (keep : Nat → Bool) : KOp → State × Bool
  | .write va data => (kPut s r o va data keep, pbBad data)
  | .atomic va n aop op bad =>
    match performAtomic s o (r.pa va) n aop op 0 bad with
    | (s, some _) => (s, bad)
    | (s, none) => (s, true)
  | .fpPick va n mx v bad =>
    let pa := r.pa va
    if memPoisoned s pa n then (s, true)
    else
      let w := (fpOp2 (faddFmt n) .rne (if mx then .max else .min) (leNat (memRead s pa n)) v).1
      (lineWrite s o pa (leBytes n w) bad, bad)
  | .addStore va n v bad =>
    let pa := r.pa va
    let bad := bad || memPoisoned s pa n
    (lineWrite s o pa (leBytes n (fpOp2 (faddFmt n) .rne .add (leNat (memRead s pa n)) v).1) bad, bad)
  | .topk lock out k ty dir key idx =>
    if memPoisoned s (r.pa lock) 8 then (s, true)
    else
      let old := memPB s ((slotPieces r.xl r.f.asn out (16 * k)).getD [])
      let pairs := (List.range k).map (fun i => (pbNat (pbEl old 8 (2 * i)), pbNat (pbEl old 8 (2 * i + 1))))
      let new := (topkIns ty dir (key, idx) pairs).take k
      let bad := pbBad old
      if new = pairs ∧ !bad then (s, false)
      else (kPut s r o out (markAll bad (new.flatMap (fun p => leBytes 8 p.1 ++ leBytes 8 p.2))), bad)

/-- The observer as which an invocation writes. -/
def KRun.obs (r : KRun) : Obs := ((unitLaunch r.st r.unit).map launchObs).getD .other

/-- Whether choice `n` lets effect `j` be visible early, in the aligned 8-byte element `k` of a write or as a whole. -/
def kChosen (n j : Nat) (k : Option Nat) : Bool := Config.freeBool n (j * 2 ^ 60 + match k with | some e => e | none => 2 ^ 59)

/-- Whether effect `j` of an invocation, or the element `k` of a write, is visible already (R218). -/
def Invoc.hasDone (i : Invoc) (j : Nat) (k : Option Nat) : Bool :=
  match k with
  | some e => i.landed.any (fun n => kChosen n j (some e))
  | none => nHas j i.did

/-- The invocation of a run. -/
def KRun.invoc (r : KRun) : Invoc := (r.st.unit r.unit).inv.getD { launch := 0, granule := 0, kernel := 0 }

/-- Whether an effect writes plain bytes. -/
def KOp.plain (op : KOp) : Bool :=
  match op with
  | .write _ _ => true
  | _ => false

/-- Performs the effects of an invocation that are left, in an open order (R144), and ends it. A whole line that has become
poisoned meanwhile is written again (R255). -/
def kFinish (r : KRun) : State :=
  let p := r.st.fresh
  let o := r.obs
  let i := r.invoc
  let left := r.ops.zipIdx.filter (fun x => x.1.plain || !i.hasDone x.2 none)
  let t := (shuffle p.1 left.length left).foldl (fun (a : State × Bool) x =>
    let q := kApply a.1 r o (fun k => !i.hasDone x.2 (some k) || nHas (k / 8) a.1.poison) x.1
    (q.1, a.2 || q.2)) (p.2, r.bad)
  endInvoc (if t.2 then markPoison t.1 r.unit else t.1) r.unit

/-- Some effects of an invocation become visible while others do not yet (R218, R232). -/
def kEarly (r : KRun) : State :=
  let p := r.st.fresh
  let o := r.obs
  let i := r.invoc
  let now := r.ops.zipIdx.filter (fun x => x.1.plain || (kChosen p.1 x.2 none && !i.hasDone x.2 none))
  let t := now.foldl (fun (a : State × Bool) x =>
    let q := kApply a.1 r o (fun k => kChosen p.1 x.2 (some k) && !i.hasDone x.2 (some k)) x.1
    (q.1, a.2 || q.2)) (p.2, false)
  (if t.2 then markPoison t.1 r.unit else t.1).modUnit r.unit (fun c => { c with inv := c.inv.map (fun i => { i with
    landed := nIns p.1 i.landed
    did := now.foldl (fun d x => if x.1.plain then d else nIns x.2 d) i.did }) })

/-- Runs a provided kernel's invocation on a unit that holds one of it. -/
def kernelRow (s : State) (u id : Nat) (plan : KRun → KRun) : State :=
  match (s.unit u).inv, unitLaunch s u with
  | some i, some l =>
    if i.kernel ≠ id ∨ i.fault.isSome then s
    else
      let f := launchF l.words
      let r := plan { st := s, unit := u, f := f, cc := l.cc, off := i.granule, len := granuleLen f i.granule }
      match r.stop with
      | none => kFinish r
      | some (.wait none) => s
      | some (.wait (some t)) => noteWait s u t
      | some (.exc c) => kernelExc r.st u c
      | some (.fault va rs p lv acc) => holdInvoc r.st u va rs p lv acc
  | _, _ => s

/-! ### Kernels over bytes -/

/-- FILL (R202). -/
def planFill (r : KRun) : KRun :=
  let n := r.arg 1
  let data := (List.range r.len).map (fun i => (BitVec.ofNat 8 (r.arg 0 / 2 ^ (8 * (i % n))), false))
  (r.need r.va r.len .w).op (.write r.va data)

/-- COPY (R202). -/
def planCopy (r : KRun) : KRun :=
  r.read ((r.arg 0 + r.off) % 2 ^ 64) r.len (fun r l => (r.need r.va r.len .w).op (.write r.va l))

/-- CHECKSUM (R202). -/
def planChecksum (r : KRun) : KRun :=
  r.read r.va r.len (fun r l =>
    let sum := (List.range (r.len / 8)).foldl (fun a i => (a + pbNat (pbEl l 8 i)) % 2 ^ 64) 0
    (r.need (r.arg 0) 8 .a).op (.atomic (r.arg 0) 8 0x0 sum (pbBad l)))

/-- Bytes of an index of ARG3 bit 0. -/
def KRun.ixBytes (r : KRun) : Nat := if r.arg 3 = 1 then 8 else 4

/-- GATHER (R202, R442). -/
def planGather (r : KRun) : KRun :=
  let n := r.arg 1
  r.eachEl r.ixBytes (fun r j l =>
    let out := (r.arg 2 + j * n) % 2 ^ 64
    if pbBad l then (r.need out n .w).op (.write out (markAll true (List.replicate n 0)))
    else r.read ((r.arg 0 + pbNat l * n) % 2 ^ 64) n (fun r row => (r.need out n .w).op (.write out row)))

/-- Adds one atomic per element of a row. -/
def KRun.rowAtomics (r : KRun) (va w aop : Nat) (row : List PByte) : KRun :=
  (List.range (row.length / w)).foldl (fun r i => r.op (.atomic ((va + w * i) % 2 ^ 64) w aop (pbNat (pbEl row w i)) (pbBad (pbEl row w i))))
    (r.need va row.length .a)

/-- SCATTER (R202, R442). -/
def planScatter (r : KRun) : KRun :=
  let n := r.arg 1
  let mode := r.arg 4 % 4
  r.eachEl r.ixBytes (fun r j l =>
    if pbBad l then r.skip
    else
      let out := (r.arg 2 + pbNat l * n) % 2 ^ 64
      r.read ((r.arg 0 + j * n) % 2 ^ 64) n (fun r row =>
        if mode = 0 then (r.need out n .w).op (.write out row)
        else r.rowAtomics out (redBytes (r.arg 4 / 16)) (if mode = 1 then 0x0 else 0x1) row))

/-- SEG_REDUCE (R202, R442). -/
def planSegReduce (r : KRun) : KRun :=
  let fmt := r.arg 2 % 16
  let w := redBytes fmt
  let op := r.arg 2 / 16
  let isInt := fmt == 0x8 || fmt == 0xA
  r.eachEl w (fun r j l =>
    r.read ((r.arg 0 + 4 * j) % 2 ^ 64) 4 (fun r seg =>
      if pbBad seg then r.skip
      else
        let out := (r.arg 1 + pbNat seg * w) % 2 ^ 64
        let r := r.need out w .a
        match op with
        | 0 => r.op (.atomic out w (if isInt then 0x0 else 0x1) (pbNat l) (pbBad l))
        | k =>
          if isInt then r.op (.atomic out w (if k = 1 then 0x2 else 0x3) (pbNat l) (pbBad l))
          else r.op (.fpPick out w (decide (k = 2)) (pbNat l) (pbBad l))))

/-- EMBED_BAG (R202, R442). -/
def planEmbedBag (r : KRun) : KRun :=
  let d := r.arg 1
  let w := redBytes (r.arg 2)
  r.eachEl 4 (fun r j l =>
    r.read ((r.arg 3 + 4 * j) % 2 ^ 64) 4 (fun r bag =>
      if pbBad l || pbBad bag then r.skip
      else r.read ((r.arg 0 + pbNat l * d * w) % 2 ^ 64) (d * w) (fun r row =>
        r.rowAtomics ((r.arg 4 + pbNat bag * d * w) % 2 ^ 64) w 0x1 row)))

/-- HISTOGRAM (R202, R442). -/
def planHistogram (r : KRun) : KRun :=
  r.eachEl 4 (fun r _ l =>
    if pbBad l then r.skip
    else
      let bin := pbNat l / 2 ^ r.arg 2
      let at_ := if bin < r.arg 1 then (r.arg 0 + 8 * bin) % 2 ^ 64 else r.arg 3
      (r.need at_ 8 .a).op (.atomic at_ 8 0x0 1 false))

/-- SEG_TOPK (R122, R202, R442). A lock word that is not zero makes the invocation wait. -/
def planSegTopk (r : KRun) : KRun :=
  let k := r.arg 2 % 256
  let ty := r.arg 2 / 256 % 16
  let w := typeWidth ty / 8
  r.eachEl w (fun r j l =>
    r.read ((r.arg 0 + 4 * j) % 2 ^ 64) 4 (fun r seg =>
      if pbBad l || pbBad seg then r.skip
      else
        let lock := (r.arg 3 + 8 * pbNat seg) % 2 ^ 64
        let out := (r.arg 1 + 16 * k * pbNat seg) % 2 ^ 64
        let r := (r.need lock 8 .a).need out (16 * k) .w
        if r.stop.isSome then r
        else
          let word := r.rd lock 8
          if !pbBad word && pbNat word != 0 then { r with stop := some (.wait none) }
          else r.op (.topk lock out k ty ((r.arg 2).testBit 12) (pbNat l) j)))

/-! ### Kernels over MX blocks and MBST tiles -/

/-- A descriptor of one block or tile, so that a kernel encodes as the transform of R151 does. -/
def unitDesc (xform sfmt dfmt src dst xb n : Nat) (sat : Bool) : DescF :=
  { descF [] with
    opc := 1, xform := xform, sfmt := sfmt, dfmt := dfmt, src := src, dst := dst, xbase := xb, sat := sat,
    ndim := 1, raw := [n, 1, 1, 1, 1], srcLocal := false, dstLocal := false, remote := false, rnd := false }

/-- Reads a car's needs. -/
def KRun.needAll (r : KRun) (l : List CarNeed) : KRun := l.foldl (fun r n => r.need n.va n.len n.acc) r

/-- Adds a car's writes. -/
def KRun.writes (r : KRun) (l : List CarWrite) : KRun := l.foldl (fun r w => r.op (.write w.addr w.data)) r

/-- Reading for a car's transform. -/
def KRun.carRd (r : KRun) : CarRd := fun _ a n => r.rd a n

/-- MX_PACK and MX_UNPACK (R129, R130, R202): every block of 32 elements that begins in the granule. -/
def planMx (unpack : Bool) (r : KRun) : KRun :=
  let sf := r.arg 2 % 16
  let df := r.arg 2 / 16 % 16
  (r.els (4 * fmtBits sf)).foldl (fun r q =>
    if r.stop.isSome then r
    else
      let src := r.f.base + q * (4 * fmtBits sf)
      let dst := (r.arg 0 + q * (4 * fmtBits df)) % 2 ^ 64
      let d := unitDesc (if unpack then 4 else 3) sf df src dst ((r.arg 1 + q) % 2 ^ 64) 32 ((r.arg 2).testBit 8)
      let r := ((r.need src (4 * fmtBits sf) .r).need ((r.arg 1 + q) % 2 ^ 64) 1 (if unpack then .r else .w)).need dst (4 * fmtBits df) .w
      if r.stop.isSome then r else r.writes (d.rowWrites r.carRd 0 0 32 [0, 0, 0, 0, 0])) r

/-- MBST_COMPRESS and MBST_DECOMPRESS (R131, R132, R202): every tile that begins in the granule. -/
def planMbst (compress : Bool) (r : KRun) : KRun :=
  let fmt := r.arg 2
  let dense := 2048 * fmtBits fmt
  let room := dense + 544
  (r.els (if compress then dense else room)).foldl (fun r t =>
    if r.stop.isSome then r
    else
      let src := r.f.base + t * (if compress then dense else room)
      let dst := (r.arg 0 + t * (if compress then room else dense)) % 2 ^ 64
      let d := unitDesc (if compress then 5 else 6) fmt fmt src dst ((r.arg 1 + 512 * t) % 2 ^ 64) 16384 false
      let r := r.needAll (d.mapNeeds (d.carAt 0))
      if r.stop.isSome then r
      else
        let m := d.readMap r.carRd (d.carAt 0)
        let r := r.needAll ((List.range 16).flatMap (fun j => d.needs m j))
        if r.stop.isSome then r
        else r.writes ((List.range 16).flatMap (fun j => d.writes r.carRd 0 m j))) r

/-! ### SPMV_CSRT (R203) -/

/-- The sum of one row: products added in entry order by fused multiply-adds. -/
def rowSum (r : KRun) (n : Nat) (l : List (List PByte × List PByte)) : Nat × Bool :=
  l.foldl (fun a p =>
    let x := if pbBad p.1 then [] else r.rd ((r.arg 0 + pbNat p.1 * n) % 2 ^ 64) n
    ((fpFma (faddFmt n) .rne false false (pbNat p.2) (pbNat x) a.1).1, a.2 || pbBad p.1 || pbBad p.2 || pbBad x)) (0, false)

/-- SPMV_CSRT (R203, R442). -/
def planSpmv (r : KRun) : KRun :=
  r.read r.va r.len (fun r t =>
    let n := if r.arg 2 = 0 then 4 else 8
    let at_ (o k : Nat) : List PByte := (t.drop o).take k
    let row0 := pbNat (at_ 0 4)
    let rows := pbNat (at_ 4 2)
    let nnz := pbNat (at_ 6 2)
    let flags := pbNat (at_ 8 1)
    if pbBad (at_ 0 16) then r.skip
    else if rows = 0 then r
    else
      let cols := (16 + 2 * (rows + 1) + 7) / 8 * 8
      let vals := (cols + 4 * nnz + 7) / 8 * 8
      if pbNat (at_ 9 1) ≠ r.arg 2 ∨ pbNat (at_ 10 6) ≠ 0 ∨ r.len < vals + n * nnz then { r with stop := some (.exc 0x03) }
      else if pbBad (at_ 16 (2 * (rows + 1))) then r.skip
      else
        let ptr (i : Nat) : Nat := pbNat (at_ (16 + 2 * i) 2)
        if ptr 0 ≠ 0 ∨ ptr rows ≠ nnz ∨ (List.range rows).any (fun i => decide (ptr (i + 1) < ptr i)) then
          { r with stop := some (.exc 0x03) }
        else
          let entry (i : Nat) : List PByte × List PByte := (at_ (cols + 4 * i) 4, at_ (vals + n * i) n)
          let r := (List.range nnz).foldl (fun r i =>
            if r.stop.isSome || pbBad (entry i).1 then r
            else r.need ((r.arg 0 + pbNat (entry i).1 * n) % 2 ^ 64) n .r) r
          (List.range rows).foldl (fun r i =>
            if r.stop.isSome then r
            else
              let y := (r.arg 1 + (row0 + i) * n) % 2 ^ 64
              let v := rowSum r n ((List.range (ptr (i + 1) - ptr i)).map (fun k => entry (ptr i + k)))
              let split := (decide (i = 0) && flags.testBit 0) || (decide (i + 1 = rows) && flags.testBit 1)
              if split then (r.need y n .a).op (.atomic y n 0x1 v.1 v.2)
              else ((r.need y n .r).need y n .w).op (.addStore y n v.1 v.2)) r)

/-! ### MX_GEMV (R138–R140, R195, R202) -/

/-- One vector of blocks read from memory. -/
def KRun.vec (r : KRun) (fmt va scales kb : Nat) : OpVec :=
  let el := fmtEl fmt
  let bs := r.rd va (4 * fmtBits fmt * kb)
  let sc := r.rd scales kb
  let els := elsOf (fmtBits fmt) (32 * kb) bs
  { groups := (List.range kb).map (fun g => ((els.drop (32 * g)).take 32).map (fun p =>
      mxValue el (sc.getD g (0, false)).1.toNat p.1)), pois := pbBad bs || pbBad sc }

/-- The blocks of a row that begin in the granule: the first and one past the last. -/
def gemvBlocks (r : KRun) (row bb kb : Nat) : Nat × Nat :=
  let rs := row * r.arg 4
  ((r.off - rs + bb - 1) / bb, min kb (min ((r.off + r.len - rs + bb - 1) / bb) ((r.f.len - rs) / bb)))

/-- MX_GEMV: the blocks of each row that begin in the granule are summed as MXDOT sums them and added to y by FADD. -/
def planGemv (r : KRun) : KRun :=
  let fmt := r.arg 5
  let bb := 4 * fmtBits fmt
  let kb := r.arg 3 / 32
  let p := r.st.fresh
  let first := (r.off - kb * bb) / r.arg 4
  let last := (r.off + r.len - 1) / r.arg 4
  (List.range (last + 1 - first)).foldl (fun r i =>
    let row := first + i
    let b := gemvBlocks r row bb kb
    let n := b.2 - b.1
    if r.stop.isSome || n == 0 then r
    else
      let w := r.f.base + row * r.arg 4
      let y := (r.arg 2 + 4 * row) % 2 ^ 64
      let r := (((r.need (w + bb * b.1) (bb * n) .r).need (w + bb * kb + b.1) n .r).need
        ((r.arg 0 + bb * b.1) % 2 ^ 64) (bb * n) .r).need ((r.arg 1 + b.1) % 2 ^ 64) n .r
      if r.stop.isSome then r
      else
        let wv := r.vec fmt (w + bb * b.1) (w + bb * kb + b.1) n
        let xv := r.vec fmt ((r.arg 0 + bb * b.1) % 2 ^ 64) ((r.arg 1 + b.1) % 2 ^ 64) n
        let order := groupOrder p.1 row n (List.range n)
        let v := mmaElement false false false (fun _ => .rne) order xv wv 0
        (r.need y 4 .a).op (.atomic y 4 0x1 v.1 (xv.pois || wv.pois))) { r with st := p.2 }

/-! ### The commands -/

/-- The plan of a provided kernel. -/
def planOf (id : Nat) : Option (KRun → KRun) :=
  match id with
  | 0x001 => some planFill
  | 0x002 => some planCopy
  | 0x003 => some planChecksum
  | 0x010 => some planGather
  | 0x011 => some planScatter
  | 0x020 => some planSegReduce
  | 0x030 => some planSpmv
  | 0x040 => some planEmbedBag
  | 0x050 => some planHistogram
  | 0x060 => some planSegTopk
  | 0x070 => some (planMx false)
  | 0x071 => some (planMx true)
  | 0x072 => some (planMbst true)
  | 0x073 => some (planMbst false)
  | 0x080 => some planGemv
  | _ => none

/-- Some effects of the provided kernel that runs on a unit become visible before its invocation ends. -/
def kernelEarly (u : Nat) (s : State) : State :=
  match (s.unit u).inv, unitLaunch s u with
  | some i, some l =>
    match planOf i.kernel with
    | none => s
    | some plan =>
      let f := launchF l.words
      let r := plan { st := s, unit := u, f := f, cc := l.cc, off := i.granule, len := granuleLen f i.granule }
      if i.fault.isSome || r.stop.isSome then s else kEarly r
  | _, _ => s

/-- FILL (R202). -/
def execFill (u : Fin 384) (s : State) : Out := .next (kernelRow s u 0x001 planFill)

/-- COPY (R202). -/
def execCopy (u : Fin 384) (s : State) : Out := .next (kernelRow s u 0x002 planCopy)

/-- CHECKSUM (R202). -/
def execChecksum (u : Fin 384) (s : State) : Out := .next (kernelRow s u 0x003 planChecksum)

/-- GATHER (R202, R442). -/
def execGather (u : Fin 384) (s : State) : Out := .next (kernelRow s u 0x010 planGather)

/-- SCATTER (R202, R442). -/
def execScatter (u : Fin 384) (s : State) : Out := .next (kernelRow s u 0x011 planScatter)

/-- SEG_REDUCE (R202, R442). -/
def execSegReduce (u : Fin 384) (s : State) : Out := .next (kernelRow s u 0x020 planSegReduce)

/-- SPMV_CSRT (R203, R442). -/
def execSpmvCsrt (u : Fin 384) (s : State) : Out := .next (kernelRow s u 0x030 planSpmv)

/-- EMBED_BAG (R202, R442). -/
def execEmbedBag (u : Fin 384) (s : State) : Out := .next (kernelRow s u 0x040 planEmbedBag)

/-- HISTOGRAM (R202, R442). -/
def execHistogram (u : Fin 384) (s : State) : Out := .next (kernelRow s u 0x050 planHistogram)

/-- SEG_TOPK (R122, R202, R442). -/
def execSegTopk (u : Fin 384) (s : State) : Out := .next (kernelRow s u 0x060 planSegTopk)

/-- MX_PACK (R130, R202). -/
def execMxPack (u : Fin 384) (s : State) : Out := .next (kernelRow s u 0x070 (planMx false))

/-- MX_UNPACK (R129, R202). -/
def execMxUnpack (u : Fin 384) (s : State) : Out := .next (kernelRow s u 0x071 (planMx true))

/-- MBST_COMPRESS (R131, R132, R202). -/
def execMbstCompress (u : Fin 384) (s : State) : Out := .next (kernelRow s u 0x072 (planMbst true))

/-- MBST_DECOMPRESS (R131, R132, R202). -/
def execMbstDecompress (u : Fin 384) (s : State) : Out := .next (kernelRow s u 0x073 (planMbst false))

/-- MX_GEMV (R195, R202). -/
def execMxGemv (u : Fin 384) (s : State) : Out := .next (kernelRow s u 0x080 planGemv)

end Sys2Proof.Machine
end

