-- ==== Sys2Proof/Machine/Scalar.lean ====
section
/-! DEFINITION. The scalar class: arithmetic, logic, constants and SREAD (R72–R74). An engine reads S registers when the
instruction stands at the head of the scalar queue. -/

namespace Sys2Proof.Machine

/-- A scalar instruction that computes S[DST] from S[SRC1], S[SRC2] and IMM, with its guard (R70, R72). -/
def scalarOp (s : State) (opc : Nat) (o : MOp) (f : Word → Word → Word → Word) : State :=
  let w := mkWord opc 0 o
  single s o.who w (fun en =>
    agDone (agPutS s o.who (wDst w) (f (agS s o.who (wS1 w)) (agS s o.who (wS2 w)) (wImmS w))) o.who en 128)

/-- Signed comparison. -/
def lts (a b : Word) : Bool := a.slt b

/-- A signed value held to 64 bits (R73). -/
def sat64 (v : Int) : Word := BitVec.ofInt 64 (intClamp true 64 v)

/-- Signed division rounded toward zero, with the results of R73. -/
def divS (a b : Word) : Word := if b = 0 then -1 else a.sdiv b

/-- Unsigned division (R73). -/
def divU (a b : Word) : Word := if b = 0 then BitVec.allOnes 64 else a.udiv b

/-- Signed remainder (R72, R73). -/
def remS (a b : Word) : Word := if b = 0 then a else a - a.sdiv b * b

/-- Unsigned remainder (R73). -/
def remU (a b : Word) : Word := if b = 0 then a else a.umod b

/-- 1 for true. -/
def flag64 (b : Bool) : Word := if b then 1 else 0

/-- ADD (R72). -/
def execAdd (o : MOp) (s : State) : Out := .next (scalarOp s 0x00 o (fun a b _ => a + b))

/-- SUB (R72). -/
def execSub (o : MOp) (s : State) : Out := .next (scalarOp s 0x01 o (fun a b _ => a - b))

/-- ADD.SAT (R72, R73). -/
def execAddSat (o : MOp) (s : State) : Out := .next (scalarOp s 0x02 o (fun a b _ => sat64 (a.toInt + b.toInt)))

/-- SUB.SAT (R72, R73). -/
def execSubSat (o : MOp) (s : State) : Out := .next (scalarOp s 0x03 o (fun a b _ => sat64 (a.toInt - b.toInt)))

/-- MUL (R72). -/
def execMul (o : MOp) (s : State) : Out := .next (scalarOp s 0x04 o (fun a b _ => a * b))

/-- MULH (R72). -/
def execMulh (o : MOp) (s : State) : Out := .next (scalarOp s 0x05 o (fun a b _ => ((a.signExtend 128) * (b.signExtend 128)).extractLsb' 64 64))

/-- MULHU (R72). -/
def execMulhu (o : MOp) (s : State) : Out := .next (scalarOp s 0x06 o (fun a b _ => ((a.setWidth 128) * (b.setWidth 128)).extractLsb' 64 64))

/-- DIV (R72, R73). -/
def execDiv (o : MOp) (s : State) : Out := .next (scalarOp s 0x07 o (fun a b _ => divS a b))

/-- DIVU (R72, R73). -/
def execDivu (o : MOp) (s : State) : Out := .next (scalarOp s 0x08 o (fun a b _ => divU a b))

/-- REM (R72, R73). -/
def execRem (o : MOp) (s : State) : Out := .next (scalarOp s 0x09 o (fun a b _ => remS a b))

/-- REMU (R72, R73). -/
def execRemu (o : MOp) (s : State) : Out := .next (scalarOp s 0x0A o (fun a b _ => remU a b))

/-- AND (R72). -/
def execAnd (o : MOp) (s : State) : Out := .next (scalarOp s 0x0B o (fun a b _ => a &&& b))

/-- OR (R72). -/
def execOr (o : MOp) (s : State) : Out := .next (scalarOp s 0x0C o (fun a b _ => a ||| b))

/-- XOR (R72). -/
def execXor (o : MOp) (s : State) : Out := .next (scalarOp s 0x0D o (fun a b _ => a ^^^ b))

/-- SHL (R72). -/
def execShl (o : MOp) (s : State) : Out := .next (scalarOp s 0x0E o (fun a b _ => a <<< (b.toNat % 64)))

/-- SHR (R72). -/
def execShr (o : MOp) (s : State) : Out := .next (scalarOp s 0x0F o (fun a b _ => a >>> (b.toNat % 64)))

/-- SRA (R72). -/
def execSra (o : MOp) (s : State) : Out := .next (scalarOp s 0x10 o (fun a b _ => a.sshiftRight (b.toNat % 64)))

/-- MIN (R72). -/
def execMin (o : MOp) (s : State) : Out := .next (scalarOp s 0x11 o (fun a b _ => if lts a b then a else b))

/-- MAX (R72). -/
def execMax (o : MOp) (s : State) : Out := .next (scalarOp s 0x12 o (fun a b _ => if lts a b then b else a))

/-- MINU (R72). -/
def execMinu (o : MOp) (s : State) : Out := .next (scalarOp s 0x13 o (fun a b _ => if a.ult b then a else b))

/-- MAXU (R72). -/
def execMaxu (o : MOp) (s : State) : Out := .next (scalarOp s 0x14 o (fun a b _ => if a.ult b then b else a))

/-- SLT (R72). -/
def execSlt (o : MOp) (s : State) : Out := .next (scalarOp s 0x15 o (fun a b _ => flag64 (lts a b)))

/-- SLTU (R72). -/
def execSltu (o : MOp) (s : State) : Out := .next (scalarOp s 0x16 o (fun a b _ => flag64 (a.ult b)))

/-- SEQ (R72). -/
def execSeq (o : MOp) (s : State) : Out := .next (scalarOp s 0x17 o (fun a b _ => flag64 (a == b)))

/-- ADDI (R72). -/
def execAddi (o : MOp) (s : State) : Out := .next (scalarOp s 0x20 o (fun a _ i => a + i))

/-- ANDI (R72). -/
def execAndi (o : MOp) (s : State) : Out := .next (scalarOp s 0x21 o (fun a _ i => a &&& i))

/-- ORI (R72). -/
def execOri (o : MOp) (s : State) : Out := .next (scalarOp s 0x22 o (fun a _ i => a ||| i))

/-- XORI (R72). -/
def execXori (o : MOp) (s : State) : Out := .next (scalarOp s 0x23 o (fun a _ i => a ^^^ i))

/-- SHLI (R72). -/
def execShli (o : MOp) (s : State) : Out := .next (scalarOp s 0x24 o (fun a _ i => a <<< (i.toNat % 64)))

/-- SHRI (R72). -/
def execShri (o : MOp) (s : State) : Out := .next (scalarOp s 0x25 o (fun a _ i => a >>> (i.toNat % 64)))

/-- SRAI (R72). -/
def execSrai (o : MOp) (s : State) : Out := .next (scalarOp s 0x26 o (fun a _ i => a.sshiftRight (i.toNat % 64)))

/-- SLTI (R72). -/
def execSlti (o : MOp) (s : State) : Out := .next (scalarOp s 0x27 o (fun a _ i => flag64 (lts a i)))

/-- LDI (R72). -/
def execLdi (o : MOp) (s : State) : Out := .next (scalarOp s 0x28 o (fun _ _ i => i))

/-- LDIH (R72): the low half of S[SRC1] below IMM[31:0]. -/
def execLdih (o : MOp) (s : State) : Out := .next (scalarOp s 0x29 o (fun a _ i => (a &&& 0xFFFFFFFF) ||| (i <<< 32)))

/-- The value that a selector of SREAD names: R74 for an engine, R193 for a unit. -/
def sreadVal (s : State) (who : Agent) (en : Entry) (sel : Nat) : Word :=
  match who with
  | .engine e =>
    let g := s.eng e.val
    (match sel with
     | 0 => BitVec.ofNat 64 e.val
     | 1 => BitVec.ofNat 64 g.asn
     | 2 => g.fp.setWidth 64
     | 3 => BitVec.ofNat 64 s.pkg.feature
     | _ => BitVec.ofNat 64 en.dsn)
  | .unit u =>
    let l := ((s.unit u.val).inv.bind (fun i => findLaunch s i.launch))
    (match sel with
     | 0 => BitVec.ofNat 64 u.val
     | 1 => BitVec.ofNat 64 ((l.map (fun l => (launchF l.words).asn)).getD 0)
     | 3 => BitVec.ofNat 64 s.pkg.feature
     | _ => BitVec.ofNat 64 ((l.map Launch.seq).getD 0))

/-- SREAD (R72, R74, R193). -/
def execSread (o : MOp) (s : State) : Out :=
  let w := mkWord 0x2A 0 o
  .next (single s o.who w (fun en =>
    agDone (agPutS s o.who (wDst w) (sreadVal s o.who en (wImm w))) o.who en 128))

end Sys2Proof.Machine
end

