-- ==== Sys2Proof/Machine/Sync.lean ====
section
/-! DEFINITION. The sync class: tile counters, WAITT, FENCE, STATION, SEED and EXPECT (R81–R88). -/

namespace Sys2Proof.Machine

/-- A sync instruction of an engine that stands at the head of every queue it names (R71, R82). Its guard is read once:
one that waits has read it. -/
def syncRow (s : State) (who : Agent) (w : Word) (body : Nat → Entry → State) : State :=
  match who with
  | .engine e =>
    match ready s who w with
    | none => s
    | some en => if en.waits || agGuard s who w then body e.val en else agDone s who en 0
  | .unit _ => s

/-- The instruction stands waiting at its heads. -/
def standWaiting (s : State) (e : Nat) (en : Entry) : State :=
  s.modEng e (fun g => g.modEntry en.dsn (fun x => { x with waits := true }))

/-- TCWAIT (R83, R51): completes once its counter has reached the value, and otherwise stands waiting. -/
def execTcwait (o : MOp) (s : State) : Out :=
  let w := mkWord 0x00 6 o
  .next (syncRow s o.who w (fun e en =>
    if en.released || tcReaches ((s.eng e).tcVal (syncTc w)) (syncX en) then complete s e en 128
    else expressFor (standWaiting s e en) e (syncTc w)))

/-- TCADD (R83). -/
def execTcadd (o : MOp) (s : State) : Out :=
  let w := mkWord 0x01 6 o
  .next (syncRow s o.who w (fun e en => complete (tcUpdate s e false (syncTc w) (syncX en).toNat) e en 128))

/-- TCSET (R83). -/
def execTcset (o : MOp) (s : State) : Out :=
  let w := mkWord 0x02 6 o
  .next (syncRow s o.who w (fun e en => complete (tcUpdate s e true (syncTc w) (syncX en).toNat) e en 128))

/-- TCWAIT_RELEASE: the TCWAITs whose counter has reached their value leave the heads of their queues (R51, R83). -/
def execTcwaitRelease (e : Fin 256) (s : State) : Out :=
  .next (forAll [0, 1, 2, 3, 4, 5] (fun q s =>
    match ((s.eng e.val).queue q).head? with
    | none => s
    | some x =>
      if x.waits && x.released then
        (match headEntry s e.val x.word with
         | some en => complete s e.val en 128
         | none => s)
      else s) s)

/-- The receipt of a Ticket (R84). -/
def receipt (t : Ticket) : List Byte := leBytes 4 t.sender ++ leBytes 4 t.seq

/-- WAITT (R84): takes the oldest Ticket held into the tile store; without one it waits. -/
def execWaitt (o : MOp) (s : State) : Out :=
  let w := mkWord 0x03 6 o
  .next (syncRow s o.who w (fun e en =>
    let l := (en.s1.toNat + bitsN (wImm w) 21 0) % 2 ^ 22
    match lowestOut tsSize [(l, 72)] with
    | some x => agRaise s o.who en 0x02 x
    | none =>
      if l % 64 ≠ 0 then agRaise s o.who en 0x03 l
      else match (s.ep (epEngine e)).slots with
        | [] => standWaiting s e en
        | t :: _ =>
          let s := s.modEng e (fun g => g.tsWrite [{ addr := l, bytes := t.payload ++ receipt t }])
          let s := freeSlot s (epEngine e)
          let s := if (wImm w).testBit 22 then tcAdd s e (syncTc w) 1 else s
          complete (pmEvent e 0x0D 0xFF 1 none s) e en 128))

/-- The stores of an engine's buffer are performed at local scope: its queues and its two shunters see them, and the buffer
is empty (R85, R210). -/
def Engine.nearStores (g : Engine) : Engine := { g with near := g.near ++ g.stores, stores := [], earlier := none }

/-- FENCE at scope 0 LOC, 1 PKG or 2 SYS: earlier loads have returned, the store buffer empties, and later loads return
nothing older (R85, R193, R215, R221). It waits while a store must wait at its home (R247), and at SYS while a write of an
engine window is held (R227). -/
def fence (s : State) (who : Agent) (w : Word) (scope : Nat) : State :=
  single s who w (fun en =>
    match who with
    | .engine e =>
      if scope = 0 then agDone (s.modEng e.val Engine.nearStores) who en 128
      else if storesWait s (s.eng e.val).own || (scope == 2 && holdsWrite s (.engine e.val)) then s
      else agDone ((drainEngine s e.val).modEng e.val (fun g => { g with earlier := none })) who en 128
    | .unit u =>
      if scope = 0 then agDone s who en 128
      else if storesWait s (s.unit u.val).stores then s
      else agDone (drainUnit s u.val) who en 128)

/-- FENCE.LOC (R85). -/
def execFenceLoc (o : MOp) (s : State) : Out := .next (fence s o.who (mkWordTop 0x08 6 33 0 o) 0)

/-- FENCE.PKG (R85). -/
def execFencePkg (o : MOp) (s : State) : Out := .next (fence s o.who (mkWordTop 0x08 6 33 1 o) 1)

/-- FENCE.SYS (R85). -/
def execFenceSys (o : MOp) (s : State) : Out := .next (fence s o.who (mkWordTop 0x08 6 33 2 o) 2)

/-- Whether every descriptor, launch, CUPA and EXPECT request of an engine has ended (R86). -/
def workEnded (s : State) (e : Nat) : Bool :=
  (s.stream (2 * e)).slots.isEmpty && (s.stream (2 * e + 1)).slots.isEmpty &&
  !(s.launches.any (fun p => p.2.engine == some e)) &&
  !(s.atomics.any (fun p => p.2.src == 0 && p.2.engine == e)) && !(s.expects.any (fun p => p.2.engine == e))

/-- The checkpoint of an engine at a STATION (R86). -/
def checkpointOf (s : State) (e : Nat) (en : Entry) : Ckpt :=
  let g := s.eng e
  { engine := e, epoch := s.td.opened, s := g.s, p := g.p, v := g.v, vp := g.vp, tc := g.tc, fp := g.fp, sr := g.sr,
    dsn := g.dsn, pc := (en.addr + 8) % 2 ^ 64, tag := en.s1.toNat % 2 ^ 32 }

/-- STATION (R86, R355, R356, R358): waits for the engine's work and stores, records a checkpoint in an active pair, and
advances its counter at the epoch's closure, or at once where nothing is recorded. An engine already in the next epoch
waits. -/
def execStation (o : MOp) (s : State) : Out :=
  let w := mkWord 0x09 6 o
  .next (syncRow s o.who w (fun e en =>
    let g := s.eng e
    let others := g.q1.isEmpty && g.q2.isEmpty && g.q3.isEmpty && g.q4.isEmpty && g.q5.isEmpty
    let part := tdActive s && tdPart s e
    if !others || !workEnded s e || s.holding || storesWait s g.own || (part && nHas e s.td.epochAhead) then s
    else
      let s := drainEngine s e
      let tcen := (wImm w).testBit 28
      if part then
        let td := s.td
        complete { s with td := { td with
          epochAhead := nIns e td.epochAhead
          ckptsOut := td.ckptsOut ++ [checkpointOf s e en]
          stationCtr := if tcen then td.stationCtr ++ [(e, syncTc w, td.opened)] else td.stationCtr } } e en 128
      else complete (if tcen then tcAdd s e (syncTc w) 1 else s) e en 128))

/-- SEED (R87). -/
def execSeed (o : MOp) (s : State) : Out :=
  let w := mkWord 0x0A 6 o
  .next (syncRow s o.who w (fun e en => complete (s.modEng e (fun g => { g with sr := en.s2 ++ en.s1 })) e en 128))

/-- EXPECT (R88, R264): accepted at the head of the transfer queue; back-pressure holds it there. -/
def execExpect (o : MOp) (s : State) : Out :=
  let w := mkWord 0x0B 6 o
  .next (syncRow s o.who w (fun e en =>
    let g := s.eng e
    let base := en.s1.toNat
    let len := en.s2.toNat
    if 2 ^ 24 < expectChunks base len then agRaise s o.who en 0x32 base
    else if s.shut || backPressured s g.asn then s
    else
      let s := complete s e en 128
      acceptExpect s { engine := e, dsn := en.dsn, asn := g.asn, base := base, len := len, tc := syncTc w }))

end Sys2Proof.Machine
end

