-- ==== Sys2Proof/Machine/Dispatch.lean ====
section
/-! DEFINITION. The dispatcher: one arm for every command, each a direct call of that command's meaning. -/

namespace Sys2Proof.Machine

/-- The effect of a command on everything but the queue. -/
def exec (i : Instr) (s : State) : Host.Outcome State Fault Refusal :=
  match i with
  | .coldPowerOn r => Sys2Proof.Machine.execColdPowerOn r s
  | .standbyExit r => Sys2Proof.Machine.execStandbyExit r s
  | .supplyLoss vin vaux vio => Sys2Proof.Machine.execSupplyLoss vin vaux vio s
  | .slowDone devs => Sys2Proof.Machine.execSlowDone devs s
  | .refclkRetry r => Sys2Proof.Machine.execRefclkRetry r s
  | .refclkLoss c => Sys2Proof.Machine.execRefclkLoss c s
  | .resetN low => Sys2Proof.Machine.execResetN low s
  | .warmResetRestart r => Sys2Proof.Machine.execWarmResetRestart r s
  | .standbyRequest => Sys2Proof.Machine.execStandbyRequest s
  | .packageIdleRequest => Sys2Proof.Machine.execPackageIdleRequest s
  | .packageIdleExit => Sys2Proof.Machine.execPackageIdleExit s
  | .drowse sp v => Sys2Proof.Machine.execDrowse sp v s
  | .spireDrowseEntry sp => Sys2Proof.Machine.execSpireDrowseEntry sp s
  | .spireDrowseExit sp => Sys2Proof.Machine.execSpireDrowseExit sp s
  | .voltageResponse temps watts => Sys2Proof.Machine.execVoltageResponse temps watts s
  | .thermalTrip site => Sys2Proof.Machine.execThermalTrip site s
  | .flitReceive l seq f => Sys2Proof.Machine.execFlitReceive l seq f s
  | .replayRequest l seq => Sys2Proof.Machine.execReplayRequest l seq s
  | .bundleHeld cc b => Sys2Proof.Machine.execBundleHeld cc b s
  | .plannedRetrain l => Sys2Proof.Machine.execPlannedRetrain l s
  | .retrainComplete l chk => Sys2Proof.Machine.execRetrainComplete l chk s
  | .parameterExchange l own far ended => Sys2Proof.Machine.execParameterExchange l own far ended s
  | .linkSafeMode l => Sys2Proof.Machine.execLinkSafeMode l s
  | .fullRetrain l => Sys2Proof.Machine.execFullRetrain l s
  | .dispatch e ready refill => Sys2Proof.Machine.execDispatch e ready refill s
  | .engCtrlStart e => Sys2Proof.Machine.execEngCtrlStart e s
  | .engCtrlPark e => Sys2Proof.Machine.execEngCtrlPark e s
  | .engCtrlResume e mode => Sys2Proof.Machine.execEngCtrlResume e mode s
  | .engCtrlReset e => Sys2Proof.Machine.execEngCtrlReset e s
  | .engCtrlIcinv e => Sys2Proof.Machine.execEngCtrlIcinv e s
  | .engTcWrite e k v => Sys2Proof.Machine.execEngTcWrite e k v s
  | .engineParked e => Sys2Proof.Machine.execEngineParked e s
  | .engineMigration e slot => Sys2Proof.Machine.execEngineMigration e slot s
  | .engineMigrationSwitch e => Sys2Proof.Machine.execEngineMigrationSwitch e s
  | .tcwaitRelease e => Sys2Proof.Machine.execTcwaitRelease e s
  | .scalarMissFill e => Sys2Proof.Machine.execScalarMissFill e s
  | .add o => Sys2Proof.Machine.execAdd o s
  | .sub o => Sys2Proof.Machine.execSub o s
  | .addSat o => Sys2Proof.Machine.execAddSat o s
  | .subSat o => Sys2Proof.Machine.execSubSat o s
  | .mul o => Sys2Proof.Machine.execMul o s
  | .mulh o => Sys2Proof.Machine.execMulh o s
  | .mulhu o => Sys2Proof.Machine.execMulhu o s
  | .div o => Sys2Proof.Machine.execDiv o s
  | .divu o => Sys2Proof.Machine.execDivu o s
  | .rem o => Sys2Proof.Machine.execRem o s
  | .remu o => Sys2Proof.Machine.execRemu o s
  | .and o => Sys2Proof.Machine.execAnd o s
  | .or o => Sys2Proof.Machine.execOr o s
  | .xor o => Sys2Proof.Machine.execXor o s
  | .shl o => Sys2Proof.Machine.execShl o s
  | .shr o => Sys2Proof.Machine.execShr o s
  | .sra o => Sys2Proof.Machine.execSra o s
  | .min o => Sys2Proof.Machine.execMin o s
  | .max o => Sys2Proof.Machine.execMax o s
  | .minu o => Sys2Proof.Machine.execMinu o s
  | .maxu o => Sys2Proof.Machine.execMaxu o s
  | .slt o => Sys2Proof.Machine.execSlt o s
  | .sltu o => Sys2Proof.Machine.execSltu o s
  | .seq o => Sys2Proof.Machine.execSeq o s
  | .addi o => Sys2Proof.Machine.execAddi o s
  | .andi o => Sys2Proof.Machine.execAndi o s
  | .ori o => Sys2Proof.Machine.execOri o s
  | .xori o => Sys2Proof.Machine.execXori o s
  | .shli o => Sys2Proof.Machine.execShli o s
  | .shri o => Sys2Proof.Machine.execShri o s
  | .srai o => Sys2Proof.Machine.execSrai o s
  | .slti o => Sys2Proof.Machine.execSlti o s
  | .ldi o => Sys2Proof.Machine.execLdi o s
  | .ldih o => Sys2Proof.Machine.execLdih o s
  | .sread o => Sys2Proof.Machine.execSread o s
  | .ldB o => Sys2Proof.Machine.execLdB o s
  | .ldH o => Sys2Proof.Machine.execLdH o s
  | .ldW o => Sys2Proof.Machine.execLdW o s
  | .ldD o => Sys2Proof.Machine.execLdD o s
  | .ldBu o => Sys2Proof.Machine.execLdBu o s
  | .ldHu o => Sys2Proof.Machine.execLdHu o s
  | .ldWu o => Sys2Proof.Machine.execLdWu o s
  | .stB o => Sys2Proof.Machine.execStB o s
  | .stH o => Sys2Proof.Machine.execStH o s
  | .stW o => Sys2Proof.Machine.execStW o s
  | .stD o => Sys2Proof.Machine.execStD o s
  | .ldlB o => Sys2Proof.Machine.execLdlB o s
  | .ldlH o => Sys2Proof.Machine.execLdlH o s
  | .ldlW o => Sys2Proof.Machine.execLdlW o s
  | .ldlD o => Sys2Proof.Machine.execLdlD o s
  | .ldlBu o => Sys2Proof.Machine.execLdlBu o s
  | .ldlHu o => Sys2Proof.Machine.execLdlHu o s
  | .ldlWu o => Sys2Proof.Machine.execLdlWu o s
  | .stlB o => Sys2Proof.Machine.execStlB o s
  | .stlH o => Sys2Proof.Machine.execStlH o s
  | .stlW o => Sys2Proof.Machine.execStlW o s
  | .stlD o => Sys2Proof.Machine.execStlD o s
  | .b o => Sys2Proof.Machine.execB o s
  | .beq o => Sys2Proof.Machine.execBeq o s
  | .bne o => Sys2Proof.Machine.execBne o s
  | .blt o => Sys2Proof.Machine.execBlt o s
  | .bge o => Sys2Proof.Machine.execBge o s
  | .bltu o => Sys2Proof.Machine.execBltu o s
  | .bgeu o => Sys2Proof.Machine.execBgeu o s
  | .bpany o => Sys2Proof.Machine.execBpany o s
  | .bpall o => Sys2Proof.Machine.execBpall o s
  | .bpnone o => Sys2Proof.Machine.execBpnone o s
  | .call o => Sys2Proof.Machine.execCall o s
  | .callr o => Sys2Proof.Machine.execCallr o s
  | .jr o => Sys2Proof.Machine.execJr o s
  | .loop o => Sys2Proof.Machine.execLoop o s
  | .halt o => Sys2Proof.Machine.execHalt o s
  | .nop o => Sys2Proof.Machine.execNop o s
  | .tcwait o => Sys2Proof.Machine.execTcwait o s
  | .tcadd o => Sys2Proof.Machine.execTcadd o s
  | .tcset o => Sys2Proof.Machine.execTcset o s
  | .waitt o => Sys2Proof.Machine.execWaitt o s
  | .fenceLoc o => Sys2Proof.Machine.execFenceLoc o s
  | .fencePkg o => Sys2Proof.Machine.execFencePkg o s
  | .fenceSys o => Sys2Proof.Machine.execFenceSys o s
  | .station o => Sys2Proof.Machine.execStation o s
  | .seed o => Sys2Proof.Machine.execSeed o s
  | .expect o => Sys2Proof.Machine.execExpect o s
  | .shuntR o => Sys2Proof.Machine.execShuntR o s
  | .shuntT o => Sys2Proof.Machine.execShuntT o s
  | .shuntq o => Sys2Proof.Machine.execShuntq o s
  | .cupx o => Sys2Proof.Machine.execCupx o s
  | .cupa o => Sys2Proof.Machine.execCupa o s
  | .tsend o => Sys2Proof.Machine.execTsend o s
  | .cclean o => Sys2Proof.Machine.execCclean o s
  | .cflush o => Sys2Proof.Machine.execCflush o s
  | .cinval o => Sys2Proof.Machine.execCinval o s
  | .flagclr o => Sys2Proof.Machine.execFlagclr o s
  | .mma o => Sys2Proof.Machine.execMma o s
  | .mmas o => Sys2Proof.Machine.execMmas o s
  | .azero o => Sys2Proof.Machine.execAzero o s
  | .aload o => Sys2Proof.Machine.execAload o s
  | .astore o => Sys2Proof.Machine.execAstore o s
  | .aget o => Sys2Proof.Machine.execAget o s
  | .aput o => Sys2Proof.Machine.execAput o s
  | .vadd o => Sys2Proof.Machine.execVadd o s
  | .vsub o => Sys2Proof.Machine.execVsub o s
  | .vmul o => Sys2Proof.Machine.execVmul o s
  | .vdiv o => Sys2Proof.Machine.execVdiv o s
  | .vsqrt o => Sys2Proof.Machine.execVsqrt o s
  | .vmin o => Sys2Proof.Machine.execVmin o s
  | .vmax o => Sys2Proof.Machine.execVmax o s
  | .vabs o => Sys2Proof.Machine.execVabs o s
  | .vneg o => Sys2Proof.Machine.execVneg o s
  | .vfma o => Sys2Proof.Machine.execVfma o s
  | .vfms o => Sys2Proof.Machine.execVfms o s
  | .vfnma o => Sys2Proof.Machine.execVfnma o s
  | .vand o => Sys2Proof.Machine.execVand o s
  | .vor o => Sys2Proof.Machine.execVor o s
  | .vxor o => Sys2Proof.Machine.execVxor o s
  | .vshl o => Sys2Proof.Machine.execVshl o s
  | .vshr o => Sys2Proof.Machine.execVshr o s
  | .vsra o => Sys2Proof.Machine.execVsra o s
  | .vcmp o => Sys2Proof.Machine.execVcmp o s
  | .vsel o => Sys2Proof.Machine.execVsel o s
  | .vbcast o => Sys2Proof.Machine.execVbcast o s
  | .viota o => Sys2Proof.Machine.execViota o s
  | .vperm o => Sys2Proof.Machine.execVperm o s
  | .vcvt o => Sys2Proof.Machine.execVcvt o s
  | .vldl o => Sys2Proof.Machine.execVldl o s
  | .vstl o => Sys2Proof.Machine.execVstl o s
  | .vldls o => Sys2Proof.Machine.execVldls o s
  | .vstls o => Sys2Proof.Machine.execVstls o s
  | .vgathl o => Sys2Proof.Machine.execVgathl o s
  | .vscatl o => Sys2Proof.Machine.execVscatl o s
  | .pand o => Sys2Proof.Machine.execPand o s
  | .por o => Sys2Proof.Machine.execPor o s
  | .pxor o => Sys2Proof.Machine.execPxor o s
  | .pandn o => Sys2Proof.Machine.execPandn o s
  | .pfirstn o => Sys2Proof.Machine.execPfirstn o s
  | .pcount o => Sys2Proof.Machine.execPcount o s
  | .vred o => Sys2Proof.Machine.execVred o s
  | .vscan o => Sys2Proof.Machine.execVscan o s
  | .vsort o => Sys2Proof.Machine.execVsort o s
  | .vtopk o => Sys2Proof.Machine.execVtopk o s
  | .varg o => Sys2Proof.Machine.execVarg o s
  | .vcompress o => Sys2Proof.Machine.execVcompress o s
  | .segmentTranslate st => Sys2Proof.Machine.execSegmentTranslate st s
  | .bookingPageWalk cc q => Sys2Proof.Machine.execBookingPageWalk cc q s
  | .carIssue st => Sys2Proof.Machine.execCarIssue st s
  | .carComplete st car => Sys2Proof.Machine.execCarComplete st car s
  | .pausedRecordWrite st => Sys2Proof.Machine.execPausedRecordWrite st s
  | .invalidationAck cc => Sys2Proof.Machine.execInvalidationAck cc s
  | .bsDoorbell cc k p => Sys2Proof.Machine.execBsDoorbell cc k p s
  | .doorbellTicket cc => Sys2Proof.Machine.execDoorbellTicket cc s
  | .bulkRingEntryAccept cc k => Sys2Proof.Machine.execBulkRingEntryAccept cc k s
  | .bsCtrlReset cc k => Sys2Proof.Machine.execBsCtrlReset cc k s
  | .bsCtrlEnable cc k v => Sys2Proof.Machine.execBsCtrlEnable cc k v s
  | .clDoorbell cc r p => Sys2Proof.Machine.execClDoorbell cc r p s
  | .clCtrlReset cc r => Sys2Proof.Machine.execClCtrlReset cc r s
  | .clCtrlEnable cc r v => Sys2Proof.Machine.execClCtrlEnable cc r v s
  | .launchRingEntryAccept cc r => Sys2Proof.Machine.execLaunchRingEntryAccept cc r s
  | .clCancel cc r v => Sys2Proof.Machine.execClCancel cc r v s
  | .engCupCancel e seq => Sys2Proof.Machine.execEngCupCancel e seq s
  | .pageDeal k => Sys2Proof.Machine.execPageDeal k s
  | .invocationStart k off => Sys2Proof.Machine.execInvocationStart k off s
  | .cupolaHalt o => Sys2Proof.Machine.execCupolaHalt o s
  | .gld o => Sys2Proof.Machine.execGld o s
  | .gst o => Sys2Proof.Machine.execGst o s
  | .vgathm o => Sys2Proof.Machine.execVgathm o s
  | .vscatm o => Sys2Proof.Machine.execVscatm o s
  | .amo o => Sys2Proof.Machine.execAmo o s
  | .vamo o => Sys2Proof.Machine.execVamo o s
  | .mxdot o => Sys2Proof.Machine.execMxdot o s
  | .fill u => Sys2Proof.Machine.execFill u s
  | .copy u => Sys2Proof.Machine.execCopy u s
  | .checksum u => Sys2Proof.Machine.execChecksum u s
  | .gather u => Sys2Proof.Machine.execGather u s
  | .scatter u => Sys2Proof.Machine.execScatter u s
  | .segReduce u => Sys2Proof.Machine.execSegReduce u s
  | .spmvCsrt u => Sys2Proof.Machine.execSpmvCsrt u s
  | .embedBag u => Sys2Proof.Machine.execEmbedBag u s
  | .histogram u => Sys2Proof.Machine.execHistogram u s
  | .segTopk u => Sys2Proof.Machine.execSegTopk u s
  | .mxPack u => Sys2Proof.Machine.execMxPack u s
  | .mxUnpack u => Sys2Proof.Machine.execMxUnpack u s
  | .mbstCompress u => Sys2Proof.Machine.execMbstCompress u s
  | .mbstDecompress u => Sys2Proof.Machine.execMbstDecompress u s
  | .mxGemv u => Sys2Proof.Machine.execMxGemv u s
  | .cupKcmdInstall cc asn kernel owner => Sys2Proof.Machine.execCupKcmdInstall cc asn kernel owner s
  | .cupKcmdRemove cc asn kernel => Sys2Proof.Machine.execCupKcmdRemove cc asn kernel s
  | .atomicPerform k => Sys2Proof.Machine.execAtomicPerform k s
  | .cupolaSpareSwitch ch => Sys2Proof.Machine.execCupolaSpareSwitch ch s
  | .hartAccess h a => Sys2Proof.Machine.execHartAccess h a s
  | .hartAmo h a => Sys2Proof.Machine.execHartAmo h a s
  | .cboClean h addr => Sys2Proof.Machine.execCboClean h addr s
  | .cboFlush h addr => Sys2Proof.Machine.execCboFlush h addr s
  | .cboInval h addr => Sys2Proof.Machine.execCboInval h addr s
  | .cboZero h addr => Sys2Proof.Machine.execCboZero h addr s
  | .prefetch h addr => Sys2Proof.Machine.execPrefetch h addr s
  | .deviceDmaWrite d a bytes => Sys2Proof.Machine.execDeviceDmaWrite d a bytes s
  | .deviceDmaRead d a n => Sys2Proof.Machine.execDeviceDmaRead d a n s
  | .tileMigrationStart tile toHbm frame victim vframe => Sys2Proof.Machine.execTileMigrationStart tile toHbm frame victim vframe s
  | .tileMigrationComplete tile => Sys2Proof.Machine.execTileMigrationComplete tile s
  | .slowDeviceLost dev => Sys2Proof.Machine.execSlowDeviceLost dev s
  | .lineRecoveryComplete line good rewritten => Sys2Proof.Machine.execLineRecoveryComplete line good rewritten s
  | .batchPublish cc d => Sys2Proof.Machine.execBatchPublish cc d s
  | .heldFaultAdmit cc => Sys2Proof.Machine.execHeldFaultAdmit cc s
  | .sdAnswerRetry cc d id => Sys2Proof.Machine.execSdAnswerRetry cc d id s
  | .sdAnswerError cc d id => Sys2Proof.Machine.execSdAnswerError cc d id s
  | .sdConsWrite cc d v => Sys2Proof.Machine.execSdConsWrite cc d v s
  | .sdCtrlEnable cc d v => Sys2Proof.Machine.execSdCtrlEnable cc d v s
  | .bkInvEveryAsn cc => Sys2Proof.Machine.execBkInvEveryAsn cc s
  | .bkInvOneAsn cc asn => Sys2Proof.Machine.execBkInvOneAsn cc asn s
  | .bkInvOnePage cc asn => Sys2Proof.Machine.execBkInvOnePage cc asn s
  | .bkInvPageEveryAsn cc => Sys2Proof.Machine.execBkInvPageEveryAsn cc s
  | .bkInvDone cc => Sys2Proof.Machine.execBkInvDone cc s
  | .hbmRead ch line err => Sys2Proof.Machine.execHbmRead ch line err s
  | .hbmWrite ch line first bytes => Sys2Proof.Machine.execHbmWrite ch line first bytes s
  | .refresh ch => Sys2Proof.Machine.execRefresh ch s
  | .stackTempRead stk temp => Sys2Proof.Machine.execStackTempRead stk temp s
  | .channelRetrain ch => Sys2Proof.Machine.execChannelRetrain ch s
  | .channelRetrainComplete ch ok lanes => Sys2Proof.Machine.execChannelRetrainComplete ch ok lanes s
  | .channelRetire ch => Sys2Proof.Machine.execChannelRetire ch s
  | .granuleMove stk bad => Sys2Proof.Machine.execGranuleMove stk bad s
  | .patrolScrub ch sector err => Sys2Proof.Machine.execPatrolScrub ch sector err s
  | .tgCtrlStart ch v => Sys2Proof.Machine.execTgCtrlStart ch v s
  | .tgCtrlAbort ch => Sys2Proof.Machine.execTgCtrlAbort ch s
  | .tgRunComplete ch mismatch sector found => Sys2Proof.Machine.execTgRunComplete ch mismatch sector found s
  | .hbmChErrLogClear ch => Sys2Proof.Machine.execHbmChErrLogClear ch s
  | .pcWayMaskWrite cc v => Sys2Proof.Machine.execPcWayMaskWrite cc v s
  | .wayChangeComplete cc => Sys2Proof.Machine.execWayChangeComplete cc s
  | .pcCtrlDisable cc => Sys2Proof.Machine.execPcCtrlDisable cc s
  | .pcCtrlEnable cc => Sys2Proof.Machine.execPcCtrlEnable cc s
  | .engScCtrlDisable e => Sys2Proof.Machine.execEngScCtrlDisable e s
  | .engScCtrlEnable e => Sys2Proof.Machine.execEngScCtrlEnable e s
  | .cacheDisableComplete c => Sys2Proof.Machine.execCacheDisableComplete c s
  | .cpResetN d => Sys2Proof.Machine.execCpResetN d s
  | .hostReset => Sys2Proof.Machine.execHostReset s
  | .hostResetComplete d bootOk cores => Sys2Proof.Machine.execHostResetComplete d bootOk cores s
  | .campanileDieFailed d => Sys2Proof.Machine.execCampanileDieFailed d s
  | .hostLinkDown cc => Sys2Proof.Machine.execHostLinkDown cc s
  | .hostLinkLost cc => Sys2Proof.Machine.execHostLinkLost cc s
  | .hostLinkRetrainComplete cc ok modules half => Sys2Proof.Machine.execHostLinkRetrainComplete cc ok modules half s
  | .tkTxDataWrite h dev v => Sys2Proof.Machine.execTkTxDataWrite h dev v s
  | .tkTxSend h dest => Sys2Proof.Machine.execTkTxSend h dest s
  | .ticketPlace ep => Sys2Proof.Machine.execTicketPlace ep s
  | .tkRxPop h => Sys2Proof.Machine.execTkRxPop h s
  | .tkMsiWrite h v => Sys2Proof.Machine.execTkMsiWrite h v s
  | .mlLinkUp p speed => Sys2Proof.Machine.execMlLinkUp p speed s
  | .mlLinkDown p => Sys2Proof.Machine.execMlLinkDown p s
  | .mlPortDisable p v => Sys2Proof.Machine.execMlPortDisable p v s
  | .mlWrite p f chk => Sys2Proof.Machine.execMlWrite p f chk s
  | .mlGuardWrite p f chk => Sys2Proof.Machine.execMlGuardWrite p f chk s
  | .mlReadRequest p f chk => Sys2Proof.Machine.execMlReadRequest p f chk s
  | .mlReadResponse p f chk => Sys2Proof.Machine.execMlReadResponse p f chk s
  | .mlAtomicRequest p f chk => Sys2Proof.Machine.execMlAtomicRequest p f chk s
  | .mlAtomicResponse p f chk => Sys2Proof.Machine.execMlAtomicResponse p f chk s
  | .mlAcknowledgement p f chk => Sys2Proof.Machine.execMlAcknowledgement p f chk s
  | .mlRefusal p f chk => Sys2Proof.Machine.execMlRefusal p f chk s
  | .mlCollective p f chk => Sys2Proof.Machine.execMlCollective p f chk s
  | .mlProbe p f chk => Sys2Proof.Machine.execMlProbe p f chk s
  | .mlProbeResponse p f chk => Sys2Proof.Machine.execMlProbeResponse p f chk s
  | .mlClaim p f chk => Sys2Proof.Machine.execMlClaim p f chk s
  | .mlClaimResponse p f chk => Sys2Proof.Machine.execMlClaimResponse p f chk s
  | .mlRelease p f chk => Sys2Proof.Machine.execMlRelease p f chk s
  | .mlRetransmitTimeout pkg psn => Sys2Proof.Machine.execMlRetransmitTimeout pkg psn s
  | .destinationUnreachable pkg => Sys2Proof.Machine.execDestinationUnreachable pkg s
  | .unreachableProbeTimer pkg => Sys2Proof.Machine.execUnreachableProbeTimer pkg s
  | .mlWinInv tm => Sys2Proof.Machine.execMlWinInv tm s
  | .junctionDoorbellTicket tm => Sys2Proof.Machine.execJunctionDoorbellTicket tm s
  | .roDoorbell tm r p => Sys2Proof.Machine.execRoDoorbell tm r p s
  | .roCtrlReset tm r => Sys2Proof.Machine.execRoCtrlReset tm r s
  | .roCtrlEnable tm r v => Sys2Proof.Machine.execRoCtrlEnable tm r v s
  | .remoteOpEntryAccept tm r => Sys2Proof.Machine.execRemoteOpEntryAccept tm r s
  | .crDoorbell tm r p => Sys2Proof.Machine.execCrDoorbell tm r p s
  | .crCtrlReset tm r => Sys2Proof.Machine.execCrCtrlReset tm r s
  | .crCtrlEnable tm r v => Sys2Proof.Machine.execCrCtrlEnable tm r v s
  | .collectiveEntryAccept tm r => Sys2Proof.Machine.execCollectiveEntryAccept tm r s
  | .jnCancel tm r v => Sys2Proof.Machine.execJnCancel tm r v s
  | .tdCtrlEnable v => Sys2Proof.Machine.execTdCtrlEnable v s
  | .tandemAuthenticate a => Sys2Proof.Machine.execTandemAuthenticate a s
  | .mirrorCopyComplete => Sys2Proof.Machine.execMirrorCopyComplete s
  | .tdCtrlDisable => Sys2Proof.Machine.execTdCtrlDisable s
  | .tdCtrlHostStation => Sys2Proof.Machine.execTdCtrlHostStation s
  | .tdCtrlForce => Sys2Proof.Machine.execTdCtrlForce s
  | .tdCtrlResume => Sys2Proof.Machine.execTdCtrlResume s
  | .tandemFrame f tagOk => Sys2Proof.Machine.execTandemFrame f tagOk s
  | .epochClose => Sys2Proof.Machine.execEpochClose s
  | .tandemLeaveNotice => Sys2Proof.Machine.execTandemLeaveNotice s
  | .tandemDeadTimeout => Sys2Proof.Machine.execTandemDeadTimeout s
  | .tandemProbeTimer => Sys2Proof.Machine.execTandemProbeTimer s
  | .tandemClaimTimeout => Sys2Proof.Machine.execTandemClaimTimeout s
  | .tandemRekey a => Sys2Proof.Machine.execTandemRekey a s
  | .inspectionTest u pass => Sys2Proof.Machine.execInspectionTest u pass s
  | .inspectionSwap e spare pass => Sys2Proof.Machine.execInspectionSwap e spare pass s
  | .spireQuarantine sp => Sys2Proof.Machine.execSpireQuarantine sp s
  | .unplacedEnginePlace slot => Sys2Proof.Machine.execUnplacedEnginePlace slot s
  | .spireFailure sp => Sys2Proof.Machine.execSpireFailure sp s
  | .terminusFailure tm => Sys2Proof.Machine.execTerminusFailure tm s
  | .sbPairMismatch sb pair => Sys2Proof.Machine.execSbPairMismatch sb pair s
  | .sbProgressTick sb => Sys2Proof.Machine.execSbProgressTick sb s
  | .sbWatchTimeout sb => Sys2Proof.Machine.execSbWatchTimeout sb s
  | .holdRelease sb clean => Sys2Proof.Machine.execHoldRelease sb clean s
  | .kpRelief cc hart image => Sys2Proof.Machine.execKpRelief cc hart image s
  | .reliefCoreStart chk => Sys2Proof.Machine.execReliefCoreStart chk s
  | .consist => Sys2Proof.Machine.execConsist s
  | .warmReset => Sys2Proof.Machine.execWarmReset s
  | .switch => Sys2Proof.Machine.execSwitch s
  | .kpCmdConsist cc v => Sys2Proof.Machine.execKpCmdConsist cc v s
  | .fwCtrlProgram tm asn chk => Sys2Proof.Machine.execFwCtrlProgram tm asn chk s
  | .fwProgramComplete tm flashOk => Sys2Proof.Machine.execFwProgramComplete tm flashOk s
  | .fwCtrlCommitSvn tm asn => Sys2Proof.Machine.execFwCtrlCommitSvn tm asn s
  | .getVersion => Sys2Proof.Machine.execGetVersion s
  | .getCapabilities => Sys2Proof.Machine.execGetCapabilities s
  | .negotiateAlgorithms => Sys2Proof.Machine.execNegotiateAlgorithms s
  | .getDigests => Sys2Proof.Machine.execGetDigests s
  | .getCertificate slot => Sys2Proof.Machine.execGetCertificate slot s
  | .challenge slot => Sys2Proof.Machine.execChallenge slot s
  | .getMeasurements slot index => Sys2Proof.Machine.execGetMeasurements slot index s
  | .dbgCmdSubmit sigOk digestOk => Sys2Proof.Machine.execDbgCmdSubmit sigOk digestOk s
  | .dbgCmdRelock => Sys2Proof.Machine.execDbgCmdRelock s
  | .bypass => Sys2Proof.Machine.execBypass s
  | .idcode => Sys2Proof.Machine.execIdcode s
  | .samplePreload => Sys2Proof.Machine.execSamplePreload s
  | .extest => Sys2Proof.Machine.execExtest s
  | .clamp => Sys2Proof.Machine.execClamp s
  | .highz => Sys2Proof.Machine.execHighz s
  | .registerWrite asn addr v => Sys2Proof.Machine.execRegisterWrite asn addr v s
  | .refclkReturn c => Sys2Proof.Machine.execRefclkReturn c s
  | .timerefEdge => Sys2Proof.Machine.execTimerefEdge s
  | .ucieRetry cc n => Sys2Proof.Machine.execUcieRetry cc n s
  | .tandemLanesDown half => Sys2Proof.Machine.execTandemLanesDown half s
  | .tandemLanesUp half => Sys2Proof.Machine.execTandemLanesUp half s
  | .cupKcmdComplete => Sys2Proof.Machine.execCupKcmdComplete s

end Sys2Proof.Machine
end

