-- ==== Sys2Proof/Machine/SramErrors.lean ====
section
/-! DEFINITION. Errors of the package's SRAMs, which arise by themselves: in tile stores, accumulators, scratch,
write-combining buffers, caches and logbook copies (R47, R103, R276, R286, R298, R371). Whether one arises, and where, is a
free choice at each tick (log entry 146). -/

namespace Sys2Proof.Machine

/-- Puts an error that a later read finds into a table of rows: 1 correctable, 2 uncorrectable. -/
def latentIn (t : Tab Nat) (row : Nat) (two : Bool) : Tab Nat := tabIns row (if two then 2 else max 1 (look 0 t row)) t

/-- An error of a Platform cache's line (R298): corrected and counted, a clean line read again from its frame, or a dirty one
poisoned and written back at once. `again` says that the frame's read fails as well (R253). -/
def pcError (s : State) (cc l : Nat) (two again : Bool) : State :=
  match look 0 (s.pc cc).lines l with
  | 0 => s
  | v =>
    if !two then s.modPc cc (fun c => { c with ce := satN 0xFFFF (c.ce + 1) })
    else if v % 2 = 1 then
      let s := s.modPc cc (fun c => { c with ueClean := satN 0xFFFF (c.ueClean + 1), lines := tabDel l c.lines })
      let s := match slotOfPa s (l * 64) with
        | some (ch, slot) => if again then sectorCheck s ch (64 * slot + 2 * (l % 32)) 37 else s
        | none => s
      pcAllocate s cc l false
    else
      let s := poisonLine s l
      { s with stale := put [] s.stale l [] }.modPc cc (fun c =>
        { c with ueDirty := satN 0xFFFF (c.ueDirty + 1), lines := tabIns l (v - 1) c.lines })

/-- An uncorrectable error of a line in an engine's or a core's cache: a clean line is dropped and fetched again, a dirty one
poisons the line (R298). `v` is how the cache holds it. -/
def copyError (s : State) (l v : Nat) : State :=
  match v with
  | 0 => s
  | 1 => homeTouch s l false
  | _ => poisonLine s l

/-- An error of an entry of the logbook in the copy of Concourse `cc`: corrected, or rewritten from another copy; with
`every` it is bad in every copy that can be reached, and the active Signal Box fails (R371). -/
def logbookError (s : State) (cc : Nat) (two every : Bool) : State :=
  if s.holding || s.sig.logHead = 0 then s
  else if !two then modSig s (fun g => { g with lbCe := put 0 g.lbCe cc (satN 0xFFFF (look 0 g.lbCe cc + 1)) })
  else
    let copies := if every then (List.range 4).filter (fun c => !s.sig.failedDies.testBit (siteCC c)) else [cc]
    let s := modSig s (fun g => { g with
      lbUe := copies.foldl (fun t c => put 0 t c (satN 0xFFFF (look 0 t c + 1))) g.lbUe })
    if every then sbFail s (activeSb s) else s

/-- The key of one entry of a table, by a free choice. -/
def pickKey (n : Nat) (t : Tab α) : Option (Nat × α) := t[Config.orderPick n t.length % max 1 t.length]?

/-- At most one error arises. -/
def sramError (s : State) : State :=
  let p := s.fresh
  let n := p.1
  let t := p.2
  let pick (k : Nat) : Nat := Config.orderPick n k % k
  let two := Config.freeBool n 1
  let again := Config.freeBool n 2
  match Config.orderPick n 0 with
  | 1 => t.modEng (pick 256) (fun g => { g with tsLatent := latentIn g.tsLatent (pick 0x10000) two })
  | 2 => t.modEng (pick 256) (fun g => { g with accLatent := latentIn g.accLatent (pick 8192) two })
  | 3 => t.modUnit (pick 384) (fun c => { c with scrLatent := latentIn c.scrLatent (pick 8192) two })
  | 4 => t.modChan (pick 384) (fun c => { c with
      wcb := c.wcb.modify (pick 64) (fun w => { w with latent := if two then 2 else max 1 w.latent }) })
  | 5 => (match pickKey n (s.pc (pick 4)).lines with
    | some x => pcError t (pick 4) x.1 two again
    | none => t)
  | 6 => (match pickKey n (s.eng (pick 256)).sc with
    | some x => if two then copyError t x.1 x.2 else t
    | none => t)
  | 7 => (match pickKey n (s.hart (pick 128)).cache with
    | some x => if two then copyError t x.1 x.2 else t
    | none => t)
  | 8 => logbookError t (pick 4) two again
  | _ => t

end Sys2Proof.Machine
end

