-- ==== Sys2Proof/Machine/Tick.lean ====
section
/-! DEFINITION. What goes on by itself while no command waits: store buffers drain, and work that waits for nothing
outside the block goes on (DESIGN CHOICE, log entry 2). -/

namespace Sys2Proof.Machine

/-- Elements of cars in flight land (R156, R218). -/
def carsLand (s : State) : State := forAll (s.streams.map Prod.fst) (fun st s => landStream s st) s

/-- One store leaves each store buffer that holds any (R38, R213, R215). -/
def drainSome (s : State) : State :=
  let s := forAll (s.engines.map Prod.fst) drainOneEngine s
  let s := forAll (s.harts.map Prod.fst) drainOneHart s
  forAll (s.units.map Prod.fst) drainOneUnit s

/-- Some effects of the provided kernels under way become visible (R218). -/
def kernelsLand (s : State) : State := forAll (s.units.map Prod.fst) kernelEarly s

/-- Engines, harts and units may take this moment as one at which part of their next loads is performed (R211, R215,
R232). -/
def loadsBegin (s : State) : State :=
  let p := s.fresh
  let t := p.2
  let now := s.moment
  let pick (i : Nat) (x : Option Earlier) : Option Earlier := if Config.freeBool p.1 i then now else x
  { t with
    engines := tabMapD {} t.engines (fun e g => { g with earlier := pick e g.earlier })
    harts := tabMapD {} t.harts (fun h g => { g with earlier := pick (256 + h) g.earlier })
    units := tabMapD {} t.units (fun u c => { c with earlier := pick (384 + u) c.earlier }) }

/-- Work that waits for room, for a line or for a translation is tried again: records and ends of descriptors (R156) and
of launches (R184), window entries (R341), remote operations (R344), collectives (R349), a keeper's CONSIST (R379), the tandem log
(R355), a failover (R360) and the way into standby (R397). -/
def workOn (s : State) : State :=
  let s := forAll (s.streams.map Prod.fst) (fun st s => settleStream s st) s
  let s := forAll (s.launches.map Prod.fst) (fun k s => finishLaunch (pauseAgain s k) k false) s
  let s := if s.winInv then winReread s else s
  let s := forAll (s.remOps.map RemOp.tag) (fun k s => ropEnd (ropRun s k) k false) s
  let s := forAll s.colls (fun x s => collEnd (collRun s x) x false) s
  standbyGo (failoverGo (tdStream (keeperConsistGo s)))

/-- A frame may come to hold what caches above it held alone: one line, by a free choice (R231). -/
def frameCatchesUp (s : State) : State :=
  let p := s.fresh
  match pickKey p.1 s.stale with
  | some x => if Config.freeBool p.1 0 then { p.2 with stale := put [] s.stale x.1 [] } else p.2
  | none => p.2

/-- The package while no command waits. -/
def tick (s : State) : State := frameCatchesUp (sramError (loadsBegin (workOn (kernelsLand (carsLand (drainSome s))))))

end Sys2Proof.Machine
end

