-- ==== Sys2Proof/WellFormed.lean ====
section
/-! DEFINITION. Which commands are well formed: operands within the ranges that the spec gives. The meanings are
total on every operand; a command outside these ranges names something that the package does not have. -/

namespace Sys2Proof

/-- A physical address of 52 bits (R237). -/
def paOk (a : Nat) : Bool := decide (a < 2 ^ 52)

/-- A tile of 64 KiB of the unified range, which ends below the MMIO range (R237, R238). -/
def tileOk (t : Nat) : Bool := decide (t < 0xF_0000_0000_0000 / 65536)

/-- A frame number of the HBM or of a slow-tier device (R238). -/
def frameOk (n : Nat) : Bool := decide (n < 0xF_0000_0000_0000 / 65536)

/-- A 64-byte line of a channel: 2,097,152 slots of 32 lines (R272, R274). -/
def chanLineOk (l : Nat) : Bool := decide (l < 2097152 * 32)

/-- What the check of one line finds, two sectors of 38 outcomes each (R284). -/
def errOk (e : Nat) : Bool := decide (e < 38 * 38)

/-- An engine executes it: the Cupola profile has no such instruction (R193). -/
def MOp.onEngine (o : MOp) : Bool :=
  match o.who with
  | .engine _ => true
  | .unit _ => false

/-- A Cupola unit executes it: it belongs to the Cupola profile alone (R193–R195). -/
def MOp.onUnit (o : MOp) : Bool := !o.onEngine

/-- A Terminus end is one of bundles 40–45 (R22). -/
def FlitEnd.ok (l : FlitEnd) : Bool := !l.terminus || decide (40 ≤ l.b.val)

/-- Each failing lane is named once (R25). -/
def LaneCheck.ok (c : LaneCheck) : Bool := decide c.tx.Nodup && decide c.rx.Nodup

/-- Digests have 256 bits and eight components (R409). -/
def FwCheck.ok (c : FwCheck) : Bool := decide (c.svn < 2 ^ 32) && decide (c.badComps < 256) && decide (c.digest < 2 ^ 256)

/-- The checks of a start report. -/
def StartReport.ok (r : StartReport) : Bool :=
  r.fw0A.ok && r.fw0B.ok && r.fw1A.ok && r.fw1B.ok && r.lanes.all (fun x => x.2.2.ok) && r.hostLinks.all (fun x => x.2.ok)

/-- A device has at least one frame and no more than the unified range can name (R237, R241). -/
def SlowDev.ok (d : SlowDev) : Bool := decide (65536 ≤ d.bytes) && decide (d.bytes < 0xF_0000_0000_0000)

/-- The fields of a walk's request fit a Siding entry (R262). -/
def WalkReq.ok (q : WalkReq) : Bool :=
  decide (q.kind < 256) && decide (q.unit < 65536) && decide (q.engine < 65536) && decide (q.seq < 2 ^ 64)

/-- No access, or one of 1, 2, 4 or 8 bytes, or of 16 (R212), whose store data fit. -/
def HartAcc.ok (a : HartAcc) : Bool :=
  [0, 1, 2, 4, 8, 16].contains a.size && decide (a.addr < 2 ^ 64) && decide (a.data < 2 ^ (8 * a.size))

/-- An AMO of 1, 2, 4 or 8 bytes, or a compare-and-swap of 16 (R222). -/
def HartAmo.ok (a : HartAmo) : Bool :=
  ([1, 2, 4, 8].contains a.size || (a.op == .cas && a.size == 16)) && decide (a.addr < 2 ^ 64) &&
    decide (a.data < 2 ^ (8 * a.size)) && decide (a.cmp < 2 ^ (8 * a.size))

/-- Header fields within their widths (R337). -/
def Frame337.ok (f : Frame337) : Bool :=
  decide (f.type < 256) && decide (f.flags < 256) && decide (f.src < 65536) && decide (f.dst < 65536) &&
    decide (f.psn < 2 ^ 32) && decide (f.ackPsn < 2 ^ 32) && decide (f.stream < 2 ^ 16) && decide (f.opTag < 2 ^ 32) &&
    decide (f.addr < 2 ^ 64) && decide (f.payload.length ≤ 4096)

/-- A partner's identifier has 16 bits (R353). -/
def TdAuth.wf (a : TdAuth) : Bool := decide (a.partner < 65536) && decide (a.feature < 2 ^ 32)

/-- Epochs have 32 bits, engines 8, and a logged write lies in one line (R355). -/
def TdFrame.ok (f : TdFrame) : Bool :=
  match f with
  | .write tag off bytes _ => decide (tag < 2 ^ 32) && decide (off % 64 + bytes.length ≤ 64)
  | .checkpoint e epoch _ => decide (e < 256) && decide (epoch < 2 ^ 32)
  | .ackWrites _ => true
  | .ackCheckpoint e => decide (e < 256)
  | .closed epoch => decide (epoch < 2 ^ 32)
  | .hold payload => decide (payload.length ≤ 64)
  | .alive => true

/-- Whether a command is well formed. -/
def Instr.wf (i : Instr) : Bool :=
  match i with
  | .coldPowerOn r => r.ok
  | .standbyExit r => r.ok
  | .slowDone devs => decide (devs.length ≤ 16) && devs.all SlowDev.ok
  | .refclkRetry r => r.ok
  | .warmResetRestart r => r.ok
  | .voltageResponse temps watts => temps.all (fun p => decide (p.1 < 64) && decide (p.2 < 256)) && decide (watts < 65536)
  | .flitReceive l _ _ => l.ok
  | .replayRequest l _ => l.ok
  | .retrainComplete _ chk => chk.ok
  | .halt o => o.onEngine
  | .tcwait o => o.onEngine
  | .tcadd o => o.onEngine
  | .tcset o => o.onEngine
  | .waitt o => o.onEngine
  | .station o => o.onEngine
  | .seed o => o.onEngine
  | .expect o => o.onEngine
  | .shuntR o => o.onEngine
  | .shuntT o => o.onEngine
  | .shuntq o => o.onEngine
  | .cupx o => o.onEngine
  | .cupa o => o.onEngine
  | .cclean o => o.onEngine
  | .cflush o => o.onEngine
  | .cinval o => o.onEngine
  | .flagclr o => o.onEngine
  | .mma o => o.onEngine
  | .mmas o => o.onEngine
  | .azero o => o.onEngine
  | .aload o => o.onEngine
  | .astore o => o.onEngine
  | .aget o => o.onEngine
  | .aput o => o.onEngine
  | .bookingPageWalk _ q => q.ok
  | .carComplete _ car => decide (car.slot < 16 ∧ car.no < 2 ^ 32)
  | .invocationStart _ off => decide (off % 2048 = 0)
  | .cupolaHalt o => o.onUnit
  | .gld o => o.onUnit
  | .gst o => o.onUnit
  | .vgathm o => o.onUnit
  | .vscatm o => o.onUnit
  | .amo o => o.onUnit
  | .vamo o => o.onUnit
  | .mxdot o => o.onUnit
  | .hartAccess _ a => a.ok
  | .hartAmo _ a => a.ok
  | .cboClean _ addr => decide (addr < 2 ^ 64)
  | .cboFlush _ addr => decide (addr < 2 ^ 64)
  | .cboInval _ addr => decide (addr < 2 ^ 64)
  | .cboZero _ addr => decide (addr < 2 ^ 64)
  | .prefetch _ addr => decide (addr < 2 ^ 64)
  | .deviceDmaWrite _ a bytes => decide (a.addr < 2 ^ 64) && decide (bytes.length ≤ 4096)
  | .deviceDmaRead _ a n => decide (a.addr < 2 ^ 64) && decide (n ≤ 4096)
  | .tileMigrationStart tile _ frame victim vframe => tileOk tile && frameOk frame && (victim.map tileOk).getD true && frameOk vframe
  | .tileMigrationComplete tile => tileOk tile
  | .slowDeviceLost i => decide (i < 16)
  | .lineRecoveryComplete line _ _ => decide (line < 2 ^ 46)
  | .hbmRead _ line err => chanLineOk line && errOk err
  | .hbmWrite _ line first bytes => chanLineOk line && decide (first + bytes.length ≤ 64) && decide (1 ≤ bytes.length)
  | .stackTempRead _ temp => decide (temp < 256)
  | .channelRetrainComplete _ _ lanes => decide (lanes < 65536)
  | .patrolScrub _ sector err => decide (sector < 2 ^ 27) && decide (err ≤ 37)
  | .inspectionTest u _ => (match u with
    | .reserve _ slot pattern _ => decide (slot < 2 ^ 21) && decide (pattern ≤ 3)
    | _ => true)
  | .tgRunComplete _ mismatch sector found => decide (mismatch < 2 ^ 32) && decide (sector < 2 ^ 27) && decide (found.symbol < 32) &&
      found.corrected.all (fun p => decide (p.1 < 2 ^ 27) && decide (p.2 < 36))
  | .hostResetComplete _ _ cores => decide (cores.length ≤ 64) && cores.all (fun c => decide (c < 72))
  | .mlWrite _ f _ => f.ok
  | .mlGuardWrite _ f _ => f.ok
  | .mlReadRequest _ f _ => f.ok
  | .mlReadResponse _ f _ => f.ok
  | .mlAtomicRequest _ f _ => f.ok
  | .mlAtomicResponse _ f _ => f.ok
  | .mlAcknowledgement _ f _ => f.ok
  | .mlRefusal _ f _ => f.ok
  | .mlCollective _ f _ => f.ok
  | .mlProbe _ f _ => f.ok
  | .mlProbeResponse _ f _ => f.ok
  | .mlClaim _ f _ => f.ok
  | .mlClaimResponse _ f _ => f.ok
  | .mlRelease _ f _ => f.ok
  | .mlRetransmitTimeout pkg psn => decide (pkg < 65536) && decide (psn < 2 ^ 32)
  | .destinationUnreachable pkg => decide (pkg < 65536)
  | .unreachableProbeTimer pkg => decide (pkg < 65536)
  | .tandemAuthenticate a => a.wf
  | .tandemFrame f _ => f.ok
  | .tandemRekey a => a.wf
  | .kpRelief cc hart image => decide (hart.val / 64 = cc.val / 2) && decide (image < 2 ^ 52)
  | .registerWrite _ addr _ => decide (addr % 8 = 0) && paOk addr
  | .ucieRetry _ n => decide (1 ≤ n)
  | .supplyLoss _ _ _ | .refclkLoss _ | .resetN _ | .standbyRequest | .packageIdleRequest | .packageIdleExit
  | .drowse _ _ | .spireDrowseEntry _ | .spireDrowseExit _ | .thermalTrip _ | .bundleHeld _ _ | .plannedRetrain _
  | .linkSafeMode _ | .fullRetrain _ | .dispatch _ _ _ | .engCtrlStart _ | .engCtrlPark _ | .engCtrlResume _ _
  | .engCtrlReset _ | .engCtrlIcinv _ | .engTcWrite _ _ _ | .engineParked _ | .engineMigration _ _
  | .engineMigrationSwitch _ | .tcwaitRelease _ | .scalarMissFill _ | .add _ | .sub _ | .addSat _ | .subSat _
  | .mul _ | .mulh _ | .mulhu _ | .div _ | .divu _ | .rem _ | .remu _ | .and _ | .or _ | .xor _ | .shl _ | .shr _
  | .sra _ | .min _ | .max _ | .minu _ | .maxu _ | .slt _ | .sltu _ | .seq _ | .addi _ | .andi _ | .ori _ | .xori _
  | .shli _ | .shri _ | .srai _ | .slti _ | .ldi _ | .ldih _ | .sread _ | .ldB _ | .ldH _ | .ldW _ | .ldD _
  | .ldBu _ | .ldHu _ | .ldWu _ | .stB _ | .stH _ | .stW _ | .stD _ | .ldlB _ | .ldlH _ | .ldlW _ | .ldlD _
  | .ldlBu _ | .ldlHu _ | .ldlWu _ | .stlB _ | .stlH _ | .stlW _ | .stlD _ | .b _ | .beq _ | .bne _ | .blt _
  | .bge _ | .bltu _ | .bgeu _ | .bpany _ | .bpall _ | .bpnone _ | .call _ | .callr _ | .jr _ | .loop _ | .nop _
  | .fenceLoc _ | .fencePkg _ | .fenceSys _ | .tsend _ | .vadd _ | .vsub _ | .vmul _ | .vdiv _ | .vsqrt _ | .vmin _
  | .vmax _ | .vabs _ | .vneg _ | .vfma _ | .vfms _ | .vfnma _ | .vand _ | .vor _ | .vxor _ | .vshl _ | .vshr _
  | .vsra _ | .vcmp _ | .vsel _ | .vbcast _ | .viota _ | .vperm _ | .vcvt _ | .vldl _ | .vstl _ | .vldls _
  | .vstls _ | .vgathl _ | .vscatl _ | .pand _ | .por _ | .pxor _ | .pandn _ | .pfirstn _ | .pcount _ | .vred _
  | .vscan _ | .vsort _ | .vtopk _ | .varg _ | .vcompress _ | .segmentTranslate _ | .carIssue _
  | .pausedRecordWrite _ | .invalidationAck _ | .bsDoorbell _ _ _ | .doorbellTicket _ | .bulkRingEntryAccept _ _
  | .bsCtrlReset _ _ | .bsCtrlEnable _ _ _ | .clDoorbell _ _ _ | .clCtrlReset _ _ | .clCtrlEnable _ _ _
  | .launchRingEntryAccept _ _ | .clCancel _ _ _ | .engCupCancel _ _ | .pageDeal _ | .fill _ | .copy _
  | .checksum _ | .gather _ | .scatter _ | .segReduce _ | .spmvCsrt _ | .embedBag _ | .histogram _ | .segTopk _
  | .mxPack _ | .mxUnpack _ | .mbstCompress _ | .mbstDecompress _ | .mxGemv _ | .cupKcmdInstall _ _ _ _
  | .cupKcmdRemove _ _ _ | .atomicPerform _ | .cupolaSpareSwitch _ | .batchPublish _ _ | .heldFaultAdmit _
  | .sdAnswerRetry _ _ _ | .sdAnswerError _ _ _ | .sdConsWrite _ _ _ | .sdCtrlEnable _ _ _ | .bkInvEveryAsn _
  | .bkInvOneAsn _ _ | .bkInvOnePage _ _ | .bkInvPageEveryAsn _ | .bkInvDone _ | .refresh _ | .channelRetrain _
  | .channelRetire _ | .tgCtrlStart _ _ | .tgCtrlAbort _ | .hbmChErrLogClear _ | .pcWayMaskWrite _ _
  | .wayChangeComplete _ | .pcCtrlDisable _ | .pcCtrlEnable _ | .engScCtrlDisable _ | .engScCtrlEnable _
  | .cacheDisableComplete _ | .cpResetN _ | .hostReset | .campanileDieFailed _ | .hostLinkDown _ | .hostLinkLost _
  | .hostLinkRetrainComplete _ _ _ _ | .tkTxDataWrite _ _ _ | .tkTxSend _ _ | .ticketPlace _ | .tkRxPop _
  | .tkMsiWrite _ _ | .mlLinkUp _ _ | .mlLinkDown _ | .mlPortDisable _ _ | .mlWinInv _ | .junctionDoorbellTicket _
  | .roDoorbell _ _ _ | .roCtrlReset _ _ | .roCtrlEnable _ _ _ | .remoteOpEntryAccept _ _ | .crDoorbell _ _ _
  | .crCtrlReset _ _ | .crCtrlEnable _ _ _ | .collectiveEntryAccept _ _ | .jnCancel _ _ _ | .tdCtrlEnable _
  | .mirrorCopyComplete | .tdCtrlDisable | .tdCtrlHostStation | .tdCtrlForce | .tdCtrlResume | .epochClose
  | .tandemLeaveNotice | .tandemDeadTimeout | .tandemProbeTimer | .tandemClaimTimeout | .granuleMove _ _
  | .inspectionSwap _ _ _ | .spireQuarantine _ | .unplacedEnginePlace _ | .spireFailure _ | .terminusFailure _
  | .sbPairMismatch _ _ | .sbProgressTick _ | .sbWatchTimeout _ | .holdRelease _ _ | .consist | .warmReset
  | .switch | .kpCmdConsist _ _ | .reliefCoreStart _ | .fwCtrlProgram _ _ _ | .fwProgramComplete _ _
  | .fwCtrlCommitSvn _ _ | .getVersion | .getCapabilities
  | .negotiateAlgorithms | .getDigests | .getCertificate _ | .challenge _ | .getMeasurements _ _
  | .dbgCmdSubmit _ _ | .dbgCmdRelock | .bypass | .idcode | .samplePreload | .extest | .clamp | .highz
  | .parameterExchange _ _ _ _ | .refclkReturn _ | .timerefEdge | .tandemLanesDown _ | .tandemLanesUp _ | .cupKcmdComplete => true

end Sys2Proof
end

