-- ==== Sys2Proof/Safety.lean ====
section
/-! DEFINITION. The terms in which the claims speak: a command that completes, what an instruction leaves unchanged,
and the forms that the state keeps. -/

namespace Sys2Proof.Machine

/-! ### Completion -/

/-- The command answers a next state, of which `p` holds. -/
def Does (i : Instr) (s : State) (p : State → Prop) : Prop := ∃ t, exec i s = .next t ∧ p t

/-! ### Frames -/

/-- An engine without its queues, slot and event counters, recorded exceptions and run state: its register files, tile
store, counters, position, registers and caches. -/
def Engine.arch (g : Engine) : Engine :=
  { g with
    q0 := [], q1 := [], q2 := [], q3 := [], q4 := [], q5 := [], hold := none, slots := [], pmc := [], pmOvf := 0
    pmSampleAddr := 0, pmSampleInfo := 0, pmNotice := false, samplePend := none, excs := [], finishing := [], chain := [], state := .idle,
    cause := .none }

/-- Every die's identity but its SEQ is the same in `s` and `t`. -/
def SameIdents (s t : State) : Prop := ∀ i, { t.ident i with seq := 0 } = { s.ident i with seq := 0 }

/-- From `s` to `t` nothing changed but the queues, slot and event counters, recorded exceptions and run state of
engine `e`, Tickets on their way, and the SEQ of dies that emitted a record (R31). -/
def Bookkept (e : Nat) (s t : State) : Prop :=
  t = { s with engines := t.engines, eps := t.eps, idents := t.idents } ∧ SameIdents s t ∧
  (∀ k, k ≠ e → t.eng k = s.eng k) ∧ (t.eng e).arch = (s.eng e).arch

/-- No queue of the engine holds the instruction any more. -/
def Left (g : Engine) (en : Entry) : Prop := ∀ x ∈ g.entries, x.dsn ≠ en.dsn

/-- An instruction whose effect gives `s` has completed in `t`. On an engine it has left its queues, and nothing else
changed but bookkeeping. On a Cupola unit the next instruction stands next, or the code ends (R193, R197), and loads
after it are performed later. -/
def Completed (who : Agent) (en : Entry) (s t : State) : Prop :=
  match who with
  | .engine e => Bookkept e.val s t ∧ Left (t.eng e.val) en
  | .unit u => t = unitGoto (unitAfter s u.val) u.val (en.addr + 8)

/-- Where an agent may execute the word of a row and `pre` holds, the row completes with the effect `f`. -/
def Executes (i : Instr) (who : Agent) (w : Word) (pre : State → Entry → Prop) (f : State → Entry → State) : Prop :=
  ∀ s en, ready s who w = some en → pre s en → Does i s (Completed who en (f s en))

/-- A scalar row that, with its guard on, writes a function of S[SRC1], S[SRC2] and the sign-extended IMM to S[DST], and
does nothing else. -/
def ComputesS (i : Instr) (o : MOp) (opc : Nat) (f : Word → Word → Word → Word) : Prop :=
  Executes i o.who (mkWord opc 0 o) (fun s _ => agGuard s o.who (mkWord opc 0 o) = true) (fun s _ =>
    agPutS s o.who o.dst.toNat
      (f (agS s o.who o.src1.toNat) (agS s o.who o.src2.toNat) (o.imm.signExtend 64)))

/-- The local address that a scalar access of the tile store or scratch forms (R75, R193). -/
def localAddr (s : State) (o : MOp) : Nat := agAddr o.who (agS s o.who o.src1.toNat + o.imm.signExtend 64).toNat

/-- A scalar load of `n` bytes of the tile store or scratch: what it loads, and the two exceptions that take its place
(R75, R77, R441). -/
def LoadsLocal (i : Instr) (o : MOp) (opc n : Nat) (signed : Bool) : Prop :=
  let w := mkWord opc 0 o
  ∀ s en, ready s o.who w = some en → agGuard s o.who w = true →
    let a := localAddr s o
    let u := agSense s o.who a n
    let v := leNat (agRead u o.who a n)
    (agLocal o.who < a + n → Does i s (fun t => t = agRaise s o.who en 0x02 (max a (agLocal o.who)))) ∧
    (a + n ≤ agLocal o.who → agPois u o.who a n = true → Does i s (fun t => t = agRaise u o.who en 0x20 a)) ∧
    (a + n ≤ agLocal o.who → agPois u o.who a n = false →
      Does i s (Completed o.who en (agPutS u o.who o.dst.toNat
        (if signed then (BitVec.ofNat (8 * n) v).signExtend 64 else BitVec.ofNat 64 v))))

/-- A scalar store of `n` bytes to the tile store or scratch, or its range exception (R75, R77). -/
def StoresLocal (i : Instr) (o : MOp) (opc n : Nat) : Prop :=
  let w := mkWord opc 0 o
  ∀ s en, ready s o.who w = some en → agGuard s o.who w = true →
    let a := localAddr s o
    (agLocal o.who < a + n → Does i s (fun t => t = agRaise s o.who en 0x02 (max a (agLocal o.who)))) ∧
    (a + n ≤ agLocal o.who →
      Does i s (Completed o.who en (agWrite s o.who [{ addr := a, bytes := leBytes n (agS s o.who o.src2.toNat).toNat }])))

/-- Every byte of memory reads as before. -/
def SameMem (s t : State) : Prop := ∀ a, memByte t a = memByte s a

/-! ### Terms for memory and control -/

/-- What an engine's instructions can see of it: its architectural part without its caches and without the moment at which
its next loads may be performed. -/
def Engine.core (g : Engine) : Engine :=
  { g.arch with sc := [], scMiss := none, scHeld := false, icache := [], earlier := none }

/-- From `s` to `u` nothing moved but lines in caches, translations, placement, counters and free values: every byte of
memory, every poison mark, and what every engine and Cupola unit can see of itself are as before. -/
def Traffic (s u : State) : Prop :=
  SameMem s u ∧ u.poison = s.poison ∧ (∀ k, (u.eng k).core = (s.eng k).core) ∧ (∀ k, u.unit k = s.unit k)

/-- From `s` to `u` no byte of memory moved, no poison mark went, and no agent can see of itself anything but what it saw. -/
def Maintains (s u : State) : Prop :=
  SameMem s u ∧ u.mem = s.mem ∧ (∀ l, nHas l s.poison = true → nHas l u.poison = true) ∧
  (nWf s.poison = true → nWf u.poison = true) ∧ (∀ k, (u.eng k).core = (s.eng k).core) ∧ (∀ k, u.unit k = s.unit k)

/-- What a load of physical pieces finds: each byte as the reader's own stores `buf` give it, else as memory holds it or,
where the reader has not accessed its aligned 8-byte word since, as memory held it at the earlier moment `x` (R38, R209, R211,
R215). -/
def Loaded (s : State) (x : Option Earlier) (buf : List Store) (l : List (Nat × Nat)) (bs : List Byte) : Prop :=
  (∃ m, bs = l.flatMap (fun p => loadBytes s x m buf p.1 p.2)) ∧
  (x = none → bs = l.flatMap (fun p => fwdRead s buf p.1 p.2))

/-- The address that a scalar access of memory forms (R75). -/
def memAddr (s : State) (o : MOp) : Nat := (agS s o.who o.src1.toNat + o.imm.signExtend 64).toNat

/-- An engine's access of `n` bytes reaches memory at the pieces `l` in state `t`, where no home makes it wait and no
other miss is outstanding (R53). -/
def Reaches (s : State) (o : MOp) (e : Fin 256) (en : Entry) (n : Nat) (acc : Acc) (t : State) (l : List (Nat × Nat))
    (cached : Bool) : Prop :=
  scalarReach s o e.val en (memAddr s o) n acc = (t, .memory l cached) ∧
  (∀ x ∈ neededLines (t.eng e.val) l cached, memWaits t (x * 64) 1 = false) ∧
  (neededLines (t.eng e.val) l cached = [] ∨ cached = false ∨ (t.eng e.val).scMiss = none)

/-- A load of `n` bytes of memory by an engine or a kernel (R75, R76, R193, R209). -/
def LoadsMemory (i : Instr) (o : MOp) (opc n : Nat) (signed : Bool) : Prop :=
  let w := mkWord opc 0 o
  let ext (v : Nat) : Word := if signed then (BitVec.ofNat (8 * n) v).signExtend 64 else BitVec.ofNat 64 v
  ∀ s en, ready s o.who w = some en → agGuard s o.who w = true →
    (∀ e, o.who = .engine e → ∀ t l cached, Reaches s o e en n .r t l cached →
      (∀ p ∈ l, memPoisoned t p.1 p.2 = false) →
      ∃ u bs, Traffic t u ∧ Loaded t (t.eng e.val).earlier (t.eng e.val).own l bs ∧
        Does i s (Completed o.who en (agPutS u o.who o.dst.toNat (ext (leNat bs))))) ∧
    (∀ x, o.who = .unit x → ∀ t l, kTranslate s x.val (memAddr s o) n .r = (t, .ok l) → (kBytes t x.val l).2 = false →
      ∃ u bs, Traffic t u ∧ Loaded t (t.unit x.val).earlier (t.unit x.val).stores l bs ∧
        Does i s (Completed o.who en (agPutS u o.who o.dst.toNat (ext (leNat bs)))))

/-- The stores of `bytes` that physical pieces give a store buffer. -/
def piecesOf (bytes : List Byte) : List (Nat × Nat) → List Store
  | [] => []
  | p :: t => bufferedStores p.1 (bytes.take p.2) ++ piecesOf (bytes.drop p.2) t

/-- A store of `n` bytes of memory by an engine: it enters the store buffer behind the earlier ones, and no byte of
memory changes (R38, R75, R211, R213). -/
def StoresMemory (i : Instr) (o : MOp) (opc n : Nat) : Prop :=
  let w := mkWord opc 0 o
  ∀ s en, ready s o.who w = some en → agGuard s o.who w = true →
    (∀ e, o.who = .engine e → ∀ t l cached, Reaches s o e en n .w t l cached →
      ∃ u, Traffic t u ∧ ∃ g : Engine,
        g.core = { (t.eng e.val).core with
          stores := (t.eng e.val).stores ++
            (piecesOf (leBytes n (agS t o.who o.src2.toNat).toNat) l).map (fun x => { x with nc := !cached }) } ∧
        Does i s (Completed o.who en (u.setEng e.val g))) ∧
    (∀ x, o.who = .unit x → ∀ t l, kTranslate s x.val (memAddr s o) n .w = (t, .ok l) →
      Does i s (Completed o.who en (kStore t x.val l (leBytes n (agS t o.who o.src2.toNat).toNat) (fun _ => false))))

/-- A control instruction on an engine's dispatcher: it stands at ENG_PC, and no hold or queued write keeps it there
(R40, R78). -/
def Stands (s : State) (e : Fin 256) (w : Word) (t : State) : Prop :=
  (s.eng e.val).runs = true ∧ (s.eng e.val).hold = none ∧ fetchWord s e.val false = (t, some w) ∧
  wordDefined s.pkg.feature w = true ∧ (t.eng e.val).controlHeld w = false

/-- An engine that has gone to `pc` past one more instruction. -/
def Engine.gone (g : Engine) (pc : Nat) : Engine := { g with pc := pc, dsn := (g.dsn + 1) % 2 ^ 32 }

/-- A control row: `f` gives, from the S and P registers, the number of predicate lanes and the instruction's address, the
register it links and where it goes if not to the next instruction. With `jump` a misaligned target is exception 0x04
on an engine (R70, R78, R79, R193). -/
def Controls (i : Instr) (o : MOp) (w : Word) (jump : Bool)
    (f : (Nat → Word) → (Nat → PReg) → Nat → Word → Option (Nat × Word) × Option Word) : Prop :=
  (∀ e, o.who = .engine e → ∀ s t, Stands s e w t →
    let g := t.eng e.val
    let r := f g.sReg g.pReg 256 (BitVec.ofNat 64 g.pc)
    (g.guardOf w = false → Does i s (Bookkept e.val (t.setEng e.val (g.gone ((g.pc + 8) % 2 ^ 64))))) ∧
    (g.guardOf w = true → (jump = true → ∀ x, r.2 = some x → x.toNat % 8 = 0) →
      Does i s (Bookkept e.val (t.setEng e.val
        (((match r.1 with | some p => g.putS p.1 p.2 | none => g)).gone
          (match r.2 with | some x => x.toNat | none => (g.pc + 8) % 2 ^ 64))))) ∧
    (g.guardOf w = true → jump = true → ∀ x, r.2 = some x → x.toNat % 8 ≠ 0 →
      Does i s (fun u => u = raiseDispatch t e.val 0x04 x.toNat))) ∧
  (∀ k, o.who = .unit k → ∀ s en, cupDefined s.pkg.feature w = true → unitEntry s k.val w = some en →
    let r := f (agS s o.who) (agP s o.who) 128 (BitVec.ofNat 64 en.addr)
    (agGuard s o.who w = false → Does i s (fun u => u = unitGoto s k.val (en.addr + 8))) ∧
    (agGuard s o.who w = true → Does i s (fun u =>
      u = unitGoto (match r.1 with | some p => agPutS s o.who p.1 p.2 | none => s) k.val
        (match r.2 with | some x => x.toNat | none => en.addr + 8))))

/-- The target of a relative branch: the instruction's address plus eight times the signed offset (R78). -/
def branchTo (o : MOp) (addr : Word) : Option Word := some (addr + 8 * (o.imm.extractLsb' 0 32).signExtend 64)

/-! ### Terms for vectors and accumulators -/

/-- Lane `i` of V[n] in lanes of `w` bits. -/
def vLane (s : State) (who : Agent) (w n i : Nat) : Nat := (agV s who n).toNat / 2 ^ (w * i) % 2 ^ w

/-- Whether a byte of that lane carries a poison mark (R100). -/
def vBad (s : State) (who : Agent) (w n i : Nat) : Prop := ∃ b, w / 8 * i ≤ b ∧ b < w / 8 * (i + 1) ∧ (agVm s who n).getLsbD b = true

/-- Whether lane `i` is active under the guard of a word (R114). -/
def vActive (s : State) (o : MOp) (i : Nat) : Prop := (agP s o.who o.pred.toNat).getLsbD i = true

/-- A result over lanes of V[dst]: where `act` holds the lane takes a value that `val` accepts, or is marked where `bad`
holds; elsewhere it is zero with `zm` and kept without (R100, R114). -/
def Lanes (s : State) (who : Agent) (w dst : Nat) (zm : Bool) (act : Nat → Prop) (val : Nat → Nat → Prop) (bad : Nat → Prop)
    (t : State) : Prop :=
  ∀ i, i < agBits who / w →
    (act i → ¬ bad i → val i (vLane t who w dst i) ∧ ¬ vBad t who w dst i) ∧
    (act i → bad i → vBad t who w dst i) ∧
    (¬ act i → zm = true → vLane t who w dst i = 0 ∧ ¬ vBad t who w dst i) ∧
    (¬ act i → zm = false → vLane t who w dst i = vLane s who w dst i ∧ (vBad t who w dst i ↔ vBad s who w dst i))

/-- What an engine sees of itself apart from V, the flags and the rounding generator. -/
def Engine.otherThanV (g : Engine) : Engine := { g.arch with v := [], vp := [], fp := 0, sr := 0 }

/-- From `s` to `u` nothing changed but V registers of `who` that `dst` names, bookkeeping, flags that were set, and the
engine's rounding generator. -/
def OnlyV (who : Agent) (dst : Nat → Prop) (s u : State) : Prop :=
  u = { s with engines := u.engines, units := u.units, nonce := u.nonce, eps := u.eps, ucs := u.ucs, idents := u.idents } ∧
  SameIdents s u ∧ (∀ n, ¬ dst n → agV u who n = agV s who n ∧ agVm u who n = agVm s who n) ∧
  (match who with
   | .engine e => (∀ k, k ≠ e.val → u.eng k = s.eng k) ∧ (u.eng e.val).otherThanV = (s.eng e.val).otherThanV ∧
       (u.eng e.val).fp ||| (s.eng e.val).fp = (u.eng e.val).fp ∧ ∀ k, u.unit k = s.unit k
   | .unit x => (∀ k, u.eng k = s.eng k) ∧ (∀ k, k ≠ x.val → u.unit k = s.unit k) ∧
       { u.unit x.val with v := [], vp := [] } = { s.unit x.val with v := [], vp := [] })

/-- The same with one P register in place of V. -/
def OnlyP (who : Agent) (dst : Nat) (s u : State) : Prop :=
  u = { s with engines := u.engines, units := u.units, nonce := u.nonce, eps := u.eps, ucs := u.ucs, idents := u.idents } ∧
  SameIdents s u ∧ (∀ n, n ≠ dst → agP u who n = agP s who n) ∧
  (match who with
   | .engine e => (∀ k, k ≠ e.val → u.eng k = s.eng k) ∧
       { (u.eng e.val).arch with p := [], fp := 0 } = { (s.eng e.val).arch with p := [], fp := 0 } ∧
       (u.eng e.val).fp ||| (s.eng e.val).fp = (u.eng e.val).fp ∧ ∀ k, u.unit k = s.unit k
   | .unit x => (∀ k, u.eng k = s.eng k) ∧ (∀ k, k ≠ x.val → u.unit k = s.unit k) ∧
       { u.unit x.val with p := [] } = { s.unit x.val with p := [] })

/-- The integer that a lane of a TYPE holds: two's complement, unsigned for U8 (R113). -/
def laneInt (t v : Nat) : Int := if t = 7 then ((v % 256 : Nat) : Int) else (BitVec.ofNat (typeWidth t) v).toInt

/-- An integer put into a lane: the bits of the integer, or with `sat` of the nearest the TYPE holds (R115, R126). -/
def laneOut (t : Nat) (sat : Bool) (x : Int) : Nat :=
  let w := typeWidth t
  let lo : Int := if t = 7 then 0 else -(2 ^ (w - 1))
  let hi : Int := if t = 7 then 2 ^ w - 1 else 2 ^ (w - 1) - 1
  ((if sat then max lo (min hi x) else x) % 2 ^ w).toNat

/-- The fields of a vector word's IMM (R114). -/
def vTypeOf (o : MOp) : Nat := iType o.imm.toNat

/-- An elementwise row: on every active lane a function of the lanes of V[SRC1], V[SRC2] and V[SRC3]; a lane with a
poisoned operand is marked; nothing else changes (R100, R101, R114). `n` operands are read. -/
def VecOp (i : Instr) (o : MOp) (opc n : Nat) (f : Nat → Nat → Nat → Nat) : Prop :=
  ∀ s en, ready s o.who (mkWord opc 2 o) = some en →
    let w := typeWidth (vTypeOf o)
    let c := iSrc3 o.imm.toNat
    let s1 := o.src1.toNat
    let s2 := o.src2.toNat
    Does i s (fun t => ∃ u, Completed o.who en u t ∧ OnlyV o.who (fun k => k = o.dst.toNat) s u ∧
      Lanes s o.who w o.dst.toNat (iZm o.imm.toNat) (vActive s o)
        (fun j v => v = f (vLane s o.who w s1 j) (if 2 ≤ n then vLane s o.who w s2 j else 0) (if 3 ≤ n then vLane s o.who w c j else 0))
        (fun j => vBad s o.who w s1 j ∨ (2 ≤ n ∧ vBad s o.who w s2 j) ∨ (3 ≤ n ∧ vBad s o.who w c j)) u)

/-- A two-operand lane function: on a floating-point TYPE the operation of R142 under the word's RM, on an integer TYPE
`g` of the lanes' integers, wrapped or saturated (R115). -/
def lane2 (o : MOp) (op : FpOp) (g : Int → Int → Int) (a b _c : Nat) : Nat :=
  match fpOfType (vTypeOf o) with
  | some f => (fpOp2 f (rmOf (iRm o.imm.toNat) .rne) op a b).1
  | none => laneOut (vTypeOf o) (iSat o.imm.toNat) (g (laneInt (vTypeOf o) a) (laneInt (vTypeOf o) b))

/-- Element (i, c) of accumulator tile `a` (R103). -/
def acc (s : State) (e : Fin 256) (a i c : Nat) : BitVec 32 := look 0 (s.eng e.val).a (accKey a i c)

/-- What an engine sees of itself apart from its accumulators, flags, generator and check counts. -/
def Engine.otherThanAcc (g : Engine) : Engine :=
  { g.arch with
    a := [], ap := [], accLatent := [], tsLatent := [], tsPoison := [], fp := 0, sr := 0, ceCount := 0, ueCount := 0, lastErr := 0
    tc := [], heldTc := [], heldCtrl := [] }

/-- The completion counter that IMM names has gained one where CTEN is set, and no other counter has changed (R102). In
drowse the increment waits. -/
def Counted (o : MOp) (e : Fin 256) (s u : State) : Prop :=
  asleep s e.val = false → ∀ k, (u.eng e.val).tcVal k =
    (s.eng e.val).tcVal k + (if o.imm.getLsbD 16 && k == o.imm.toNat / 2 ^ 10 % 64 then 1 else 0)

/-- An engine none of whose tile-store rows and accumulators is poisoned or has an error not yet found. -/
def Engine.sound (g : Engine) : Prop := g.tsLatent = [] ∧ g.tsPoison = [] ∧ g.accLatent = [] ∧ g.ap = []

/-- From `s` to `u` nothing changed but accumulator tile `a` of engine `e`, bookkeeping, flags, tile counters, the rounding
generator and what a read of the tile store or the accumulators found out about their errors. -/
def OnlyAcc (e : Fin 256) (a : Nat) (s u : State) : Prop :=
  u = { s with engines := u.engines, nonce := u.nonce, eps := u.eps, idents := u.idents } ∧ SameIdents s u ∧ (∀ k, k ≠ e.val → u.eng k = s.eng k) ∧
  (u.eng e.val).otherThanAcc = (s.eng e.val).otherThanAcc ∧
  (∀ b i c, b ≠ a → i < 128 → c < 128 → acc u e b i c = acc s e b i c)

/-- An element of an operand block of 8-bit integers with rows of `len` bytes, signed or not (R106). -/
def byteAt (s : State) (e : Fin 256) (signed : Bool) (a : Nat) : Int :=
  let b := look 0 (s.eng e.val).ts a
  if signed then b.toInt else (b.toNat : Int)

/-- Keys taken from the active lanes of a segment `g` and placed from lane `at_` on, best first by R122: `m` of them, with
their lane numbers beside them, then fill up to `len` lanes. No active lane left out is preferred to one taken. -/
def Ordered (s u : State) (o : MOp) (low : Bool) (g : Nat × Nat) (at_ m len : Nat) : Prop :=
  let t := vTypeOf o
  let w := typeWidth t
  let key (j : Nat) : Nat := vLane u o.who w o.dst.toNat (at_ + j)
  let idx (j : Nat) : Nat := vLane u o.who w (o.dst.toNat + 1) (at_ + j)
  (∀ j, j < m → g.1 ≤ idx j ∧ idx j < g.1 + g.2 ∧ vActive s o (idx j) ∧ key j = vLane s o.who w o.src1.toNat (idx j)) ∧
  (∀ j k, j < k → k < m → preferred t low (key j, idx j) (key k, idx k) = true) ∧
  (∀ i, g.1 ≤ i → i < g.1 + g.2 → vActive s o i → (∃ j, j < m ∧ idx j = i) ∨
    ∀ j, j < m → preferred t low (key j, idx j) (vLane s o.who w o.src1.toNat i, i) = true) ∧
  (∀ j, m ≤ j → j < len → key j = fillKey t (o.imm.getLsbD 6) ∧ idx j = 2 ^ w - 1)

/-- The active lanes of a segment. -/
def activeIn (s : State) (o : MOp) (g : Nat × Nat) : List Nat :=
  ((List.range g.2).map (fun i => g.1 + i)).filter (fun i => (agP s o.who o.pred.toNat).getLsbD i)

/-- The segments of a row, by SEGP (R119): the whole register where SEGP is 0. -/
def segsOf (s : State) (o : MOp) : List (Nat × Nat) :=
  let n := agBits o.who / typeWidth (vTypeOf o)
  let j := o.imm.toNat / 8 % 8
  if j = 0 then [(0, n)] else segments (fun i => (agP s o.who j).getLsbD i) n

/-! ### Terms for the Cupola -/

/-- Kernel accesses of `n` bytes that all reach memory, one after the other: the state then and the pieces of each
(R188, R194). -/
def kReach (u n : Nat) (acc : Acc) : List Nat → State → Option (State × List (List (Nat × Nat)))
  | [], s => some (s, [])
  | va :: t, s =>
    match kTranslate s u va n acc with
    | (s, .ok l) => (kReach u n acc t s).map (fun r => (r.1, l :: r.2))
    | _ => none

/-- A provided kernel's invocation on unit `u`: its launch, and the run as it starts (R183, R202). -/
def Runs (s : State) (u : Fin 384) (id : Nat) (r : KRun) : Prop :=
  ∃ i l, (s.unit u.val).inv = some i ∧ unitLaunch s u.val = some l ∧ i.kernel = id ∧ i.fault = none ∧
    r = { st := s, unit := u.val, f := launchF l.words, cc := l.cc, off := i.granule, len := granuleLen (launchF l.words) i.granule }

/-- The observer as which a unit's launch writes. -/
def unitObs (s : State) (u : Nat) : Obs := ((unitLaunch s u).map launchObs).getD .other

/-! ### Single changes -/

/-- From `s` to `t` nothing changed but engine `e`, which is now `g`. -/
def OnlyEng (e : Nat) (g : Engine) (s t : State) : Prop :=
  t = { s with engines := t.engines } ∧ t.eng e = g ∧ ∀ k, k ≠ e → t.eng k = s.eng k

/-- From `s` to `t` nothing changed but stream `k`, which is now `x`. -/
def OnlyStream (k : Nat) (x : Stream) (s t : State) : Prop :=
  t = { s with streams := t.streams } ∧ t.stream k = x ∧ ∀ j, j ≠ k → t.stream j = s.stream j

/-- A ring that a doorbell has named `p` to: a valid index is taken, another sets DB_ERR (R172). -/
def rung (r : Ring) (p : Nat) : Ring :=
  let n := (p + 2 ^ 32 - r.consumer) % 2 ^ 32
  if n ≤ 2 ^ r.log2n ∧ (r.producer + 2 ^ 32 - r.consumer) % 2 ^ 32 ≤ n then { r with producer := p } else { r with dbErr := true }

/-- A ring whose reset has ended (R173). -/
def emptied (r : Ring) : Ring := { r with consumer := r.producer, enable := false, resetting := false, fault := none }

/-- A ring after a write of its control register without RESET: ASN is taken only while ENABLE was 0 (R173). -/
def controlled (r : Ring) (v : Word) : Ring :=
  { r with asn := if r.enable then r.asn else (v.extractLsb' 0 20).toNat, enable := v.getLsbD 32 }

/-- A ring that has refused an entry (R173). -/
def refusedOne (r : Ring) : Ring := { r with consumer := (r.consumer + 1) % 2 ^ 32, refused := min 255 (r.refused + 1) }

/-! ### Forms that the state keeps -/

/-- Memory's canonical form: addresses strictly rising, and no entry equal to what an unlisted address reads as. -/
def Memory.wf (m : Tab Byte) : Bool := tabWf 0 m

/-- Memory and its poison marks are in canonical form, so that equal contents are equal data. -/
def State.MemOk (s : State) : Prop := Memory.wf s.mem = true ∧ nWf s.poison = true

/-- A step that goes on to a state in which a property holds. -/
def goesOn (o : Out) (p : State → Prop) : Prop :=
  match o with
  | .next t => p t
  | .fault _ => False
  | .refused _ => False

end Sys2Proof.Machine
end

