-- ==== Sys2Proof/Certificates/Slice0/Obligations.lean ====
section
/-! DEFINITION. The statements about the NX4 package, from the numbered rules of its spec. -/

open Sys2Proof Sys2Proof.Machine

/-- R44: S0 reads as zero and P0 as all-true, and writes to them are discarded; every other S, P and V register reads as
it was last written, and no other register of the file changes. For an engine and for a Cupola unit. -/
def Obligations.RegisterFiles : Prop :=
  ∀ (s : State) (who : Agent),
    agS s who 0 = 0 ∧ agP s who 0 = BitVec.allOnes 256 ∧
    (∀ n v k, agS (agPutS s who n v) who k = if n ≠ 0 ∧ k = n then v else agS s who k) ∧
    (∀ n v k, agP (agPutP s who n v) who k = if n ≠ 0 ∧ k = n then v else agP s who k) ∧
    (∀ n v m k, agV (agPutV s who n v m) who k = (if k = n then v else agV s who k) ∧
      agVm (agPutV s who n v m) who k = if k = n then m else agVm s who k) ∧
    (∀ n v k, agP (agPutS s who n v) who k = agP s who k ∧ agV (agPutS s who n v) who k = agV s who k) ∧
    (∀ n v k, agS (agPutP s who n v) who k = agS s who k ∧ agV (agPutP s who n v) who k = agV s who k) ∧
    (∀ n v m k, agS (agPutV s who n v m) who k = agS s who k ∧ agP (agPutV s who n v m) who k = agP s who k)

/-- R72, R73: the scalar arithmetic, logic and constant rows write these results to S[DST], on an engine and on a Cupola
unit, and change nothing else but bookkeeping. -/
def Obligations.ScalarArithmetic : Prop :=
  ∀ o : MOp,
    ComputesS (.add o) o 0x00 (fun a b _ => a + b) ∧
    ComputesS (.sub o) o 0x01 (fun a b _ => a - b) ∧
    ComputesS (.addSat o) o 0x02 (fun a b _ => BitVec.ofInt 64 (max (-2 ^ 63) (min (2 ^ 63 - 1) (a.toInt + b.toInt)))) ∧
    ComputesS (.subSat o) o 0x03 (fun a b _ => BitVec.ofInt 64 (max (-2 ^ 63) (min (2 ^ 63 - 1) (a.toInt - b.toInt)))) ∧
    ComputesS (.mul o) o 0x04 (fun a b _ => BitVec.ofInt 64 (a.toInt * b.toInt)) ∧
    ComputesS (.mulh o) o 0x05 (fun a b _ => BitVec.ofInt 64 (a.toInt * b.toInt / 2 ^ 64)) ∧
    ComputesS (.mulhu o) o 0x06 (fun a b _ => BitVec.ofNat 64 (a.toNat * b.toNat / 2 ^ 64)) ∧
    ComputesS (.div o) o 0x07 (fun a b _ => if b = 0 then -1 else BitVec.ofInt 64 (a.toInt.tdiv b.toInt)) ∧
    ComputesS (.divu o) o 0x08 (fun a b _ => if b = 0 then -1 else BitVec.ofNat 64 (a.toNat / b.toNat)) ∧
    ComputesS (.rem o) o 0x09 (fun a b _ => if b = 0 then a else BitVec.ofInt 64 (a.toInt.tmod b.toInt)) ∧
    ComputesS (.remu o) o 0x0A (fun a b _ => if b = 0 then a else BitVec.ofNat 64 (a.toNat % b.toNat)) ∧
    ComputesS (.and o) o 0x0B (fun a b _ => a &&& b) ∧
    ComputesS (.or o) o 0x0C (fun a b _ => a ||| b) ∧
    ComputesS (.xor o) o 0x0D (fun a b _ => a ^^^ b) ∧
    ComputesS (.shl o) o 0x0E (fun a b _ => BitVec.ofNat 64 (a.toNat * 2 ^ (b.toNat % 64))) ∧
    ComputesS (.shr o) o 0x0F (fun a b _ => BitVec.ofNat 64 (a.toNat / 2 ^ (b.toNat % 64))) ∧
    ComputesS (.sra o) o 0x10 (fun a b _ => BitVec.ofInt 64 (a.toInt / 2 ^ (b.toNat % 64))) ∧
    ComputesS (.min o) o 0x11 (fun a b _ => BitVec.ofInt 64 (min a.toInt b.toInt)) ∧
    ComputesS (.max o) o 0x12 (fun a b _ => BitVec.ofInt 64 (max a.toInt b.toInt)) ∧
    ComputesS (.minu o) o 0x13 (fun a b _ => BitVec.ofNat 64 (min a.toNat b.toNat)) ∧
    ComputesS (.maxu o) o 0x14 (fun a b _ => BitVec.ofNat 64 (max a.toNat b.toNat)) ∧
    ComputesS (.slt o) o 0x15 (fun a b _ => if a.toInt < b.toInt then 1 else 0) ∧
    ComputesS (.sltu o) o 0x16 (fun a b _ => if a.toNat < b.toNat then 1 else 0) ∧
    ComputesS (.seq o) o 0x17 (fun a b _ => if a = b then 1 else 0) ∧
    ComputesS (.addi o) o 0x20 (fun a _ i => a + i) ∧
    ComputesS (.andi o) o 0x21 (fun a _ i => a &&& i) ∧
    ComputesS (.ori o) o 0x22 (fun a _ i => a ||| i) ∧
    ComputesS (.xori o) o 0x23 (fun a _ i => a ^^^ i) ∧
    ComputesS (.shli o) o 0x24 (fun a _ _ => BitVec.ofNat 64 (a.toNat * 2 ^ (o.imm.toNat % 64))) ∧
    ComputesS (.shri o) o 0x25 (fun a _ _ => BitVec.ofNat 64 (a.toNat / 2 ^ (o.imm.toNat % 64))) ∧
    ComputesS (.srai o) o 0x26 (fun a _ _ => BitVec.ofInt 64 (a.toInt / 2 ^ (o.imm.toNat % 64))) ∧
    ComputesS (.slti o) o 0x27 (fun a _ i => if a.toInt < i.toInt then 1 else 0) ∧
    ComputesS (.ldi o) o 0x28 (fun _ _ i => i) ∧
    ComputesS (.ldih o) o 0x29 (fun a _ _ => BitVec.ofNat 64 (a.toNat % 2 ^ 32 + o.imm.toNat % 2 ^ 32 * 2 ^ 32))

/-- R74, R193: SREAD writes the value that IMM selects to S[DST]: for an engine its number, ENG_ASN, the floating-point
flags, PKG_FEATURE or the instruction's DSN; for a Cupola unit its number or the feature level. -/
def Obligations.ScalarRead : Prop :=
  ∀ (o : MOp) (s : State) (en : Entry),
    ready s o.who (mkWord 0x2A 0 o) = some en → agGuard s o.who (mkWord 0x2A 0 o) = true →
    (∀ e : Fin 256, o.who = .engine e →
      ∀ p ∈ [(0, BitVec.ofNat 64 e.val), (1, BitVec.ofNat 64 (s.eng e.val).asn), (2, (s.eng e.val).fp.setWidth 64),
        (3, BitVec.ofNat 64 s.pkg.feature), (4, BitVec.ofNat 64 en.dsn)],
      o.imm.toNat = p.1 → Does (.sread o) s (Completed o.who en (agPutS s o.who o.dst.toNat p.2))) ∧
    (∀ u : Fin 384, o.who = .unit u →
      (o.imm.toNat = 0 → Does (.sread o) s (Completed o.who en (agPutS s o.who o.dst.toNat (BitVec.ofNat 64 u.val)))) ∧
      (o.imm.toNat = 3 → Does (.sread o) s (Completed o.who en (agPutS s o.who o.dst.toNat (BitVec.ofNat 64 s.pkg.feature)))))

/-- R70: an instruction of one lane whose guard is false completes without an effect of any kind: it writes no register,
tile-store byte or counter, sends nothing and raises nothing. For the scalar, sync, transfer, near-memory and system
rows. -/
def Obligations.GuardOff : Prop :=
  ∀ (o : MOp) (s : State) (en : Entry),
    (∀ p ∈ [(Instr.add o, mkWord 0x00 0 o), (.sub o, mkWord 0x01 0 o), (.addSat o, mkWord 0x02 0 o), (.subSat o, mkWord 0x03 0 o),
      (.mul o, mkWord 0x04 0 o), (.mulh o, mkWord 0x05 0 o), (.mulhu o, mkWord 0x06 0 o), (.div o, mkWord 0x07 0 o),
      (.divu o, mkWord 0x08 0 o), (.rem o, mkWord 0x09 0 o), (.remu o, mkWord 0x0A 0 o), (.and o, mkWord 0x0B 0 o),
      (.or o, mkWord 0x0C 0 o), (.xor o, mkWord 0x0D 0 o), (.shl o, mkWord 0x0E 0 o), (.shr o, mkWord 0x0F 0 o),
      (.sra o, mkWord 0x10 0 o), (.min o, mkWord 0x11 0 o), (.max o, mkWord 0x12 0 o), (.minu o, mkWord 0x13 0 o),
      (.maxu o, mkWord 0x14 0 o), (.slt o, mkWord 0x15 0 o), (.sltu o, mkWord 0x16 0 o), (.seq o, mkWord 0x17 0 o),
      (.addi o, mkWord 0x20 0 o), (.andi o, mkWord 0x21 0 o), (.ori o, mkWord 0x22 0 o), (.xori o, mkWord 0x23 0 o),
      (.shli o, mkWord 0x24 0 o), (.shri o, mkWord 0x25 0 o), (.srai o, mkWord 0x26 0 o), (.slti o, mkWord 0x27 0 o),
      (.ldi o, mkWord 0x28 0 o), (.ldih o, mkWord 0x29 0 o), (.sread o, mkWord 0x2A 0 o),
      (.ldB o, mkWord 0x40 0 o), (.ldH o, mkWord 0x41 0 o), (.ldW o, mkWord 0x42 0 o), (.ldD o, mkWord 0x43 0 o),
      (.ldBu o, mkWord 0x44 0 o), (.ldHu o, mkWord 0x45 0 o), (.ldWu o, mkWord 0x46 0 o),
      (.stB o, mkWord 0x48 0 o), (.stH o, mkWord 0x49 0 o), (.stW o, mkWord 0x4A 0 o), (.stD o, mkWord 0x4B 0 o),
      (.ldlB o, mkWord 0x50 0 o), (.ldlH o, mkWord 0x51 0 o), (.ldlW o, mkWord 0x52 0 o), (.ldlD o, mkWord 0x53 0 o),
      (.ldlBu o, mkWord 0x54 0 o), (.ldlHu o, mkWord 0x55 0 o), (.ldlWu o, mkWord 0x56 0 o),
      (.stlB o, mkWord 0x58 0 o), (.stlH o, mkWord 0x59 0 o), (.stlW o, mkWord 0x5A 0 o), (.stlD o, mkWord 0x5B 0 o),
      (.fenceLoc o, mkWordTop 0x08 6 33 0 o), (.fencePkg o, mkWordTop 0x08 6 33 1 o), (.fenceSys o, mkWordTop 0x08 6 33 2 o),
      (.tsend o, mkWord 0x00 7 o)],
      ready s o.who p.2 = some en → agGuard s o.who p.2 = false → Does p.1 s (Completed o.who en s)) ∧
    (∀ e : Fin 256, o.who = .engine e →
      ∀ p ∈ [(Instr.tcwait o, mkWord 0x00 6 o), (.tcadd o, mkWord 0x01 6 o), (.tcset o, mkWord 0x02 6 o),
        (.waitt o, mkWord 0x03 6 o), (.station o, mkWord 0x09 6 o), (.seed o, mkWord 0x0A 6 o), (.expect o, mkWord 0x0B 6 o)],
      ready s o.who p.2 = some en → en.waits = false → agGuard s o.who p.2 = false → Does p.1 s (Completed o.who en s)) ∧
    (∀ e : Fin 256, o.who = .engine e →
      ∀ p ∈ [(Instr.shuntR o, mkWord 0x00 4 o), (.shuntT o, mkWord 0x01 4 o), (.shuntq o, mkWord 0x02 4 o),
        (.cupx o, mkWord 0x00 5 o), (.cupa o, mkWord 0x01 5 o),
        (.cclean o, mkWord 0x01 7 o), (.cflush o, mkWord 0x02 7 o), (.cinval o, mkWord 0x03 7 o), (.flagclr o, mkWord 0x04 7 o)],
      ready s o.who p.2 = some en → agGuard s o.who p.2 = false → Does p.1 s (Completed o.who en s)) ∧
    (∀ u : Fin 384, o.who = .unit u →
      ∀ p ∈ [(Instr.gld o, mkWord 0x00 4 o), (.gst o, mkWord 0x01 4 o), (.amo o, mkWord 0x04 4 o)],
      ready s o.who p.2 = some en → agGuard s o.who p.2 = false → Does p.1 s (Completed o.who en s))

/-- R75, R77, R441: the scalar loads and stores of the tile store, and of a unit's scratch: what a load writes to S[DST],
which bytes a store writes, and the range and data-loss exceptions that take their place. -/
def Obligations.LocalMemory : Prop :=
  ∀ o : MOp,
    LoadsLocal (.ldlB o) o 0x50 1 true ∧ LoadsLocal (.ldlH o) o 0x51 2 true ∧ LoadsLocal (.ldlW o) o 0x52 4 true ∧
    LoadsLocal (.ldlD o) o 0x53 8 true ∧ LoadsLocal (.ldlBu o) o 0x54 1 false ∧ LoadsLocal (.ldlHu o) o 0x55 2 false ∧
    LoadsLocal (.ldlWu o) o 0x56 4 false ∧
    StoresLocal (.stlB o) o 0x58 1 ∧ StoresLocal (.stlH o) o 0x59 2 ∧ StoresLocal (.stlW o) o 0x5A 4 ∧
    StoresLocal (.stlD o) o 0x5B 8

/-- R46, R47: a write of bytes to an engine's tile store, or to a unit's scratch, puts each of them at its address and
leaves every other byte as it was. A row that is written whole without poison loses its mark, a row that receives poison
is marked, and every other row keeps its own. -/
def Obligations.LocalWrite : Prop :=
  ∀ (s : State) (who : Agent) (a : Nat) (bytes : List Byte) (bad : Bool),
    let t := agWrite s who [{ addr := a, bytes := bytes, poison := bad }]
    (∀ i, i < bytes.length → agRead t who (a + i) 1 = [bytes.getD i 0]) ∧
    (∀ x, x < a ∨ a + bytes.length ≤ x → agRead t who x 1 = agRead s who x 1) ∧
    (∀ r, a ≤ 64 * r → 64 * r + 64 ≤ a + bytes.length → agPois t who (64 * r) 64 = bad) ∧
    (∀ r, 64 * r + 64 ≤ a ∨ a + bytes.length ≤ 64 * r → agPois t who (64 * r) 64 = agPois s who (64 * r) 64) ∧
    (∀ r, 0 < bytes.length → 64 * r < a + bytes.length → a < 64 * r + 64 → (a > 64 * r ∨ a + bytes.length < 64 * r + 64) →
      agPois t who (64 * r) 64 = (bad || agPois s who (64 * r) 64))

/-- R38, R75, R76, R209, R211, R213, R215: the scalar loads and stores of memory, by an engine and by a kernel. A load gives
S[DST] the bytes at the address as the reader's own stores give them, else as memory holds them or, in words that it has not
accessed since, held them at a moment after its last fence; it extends them as the mnemonic says and changes no byte of memory.
A store enters the agent's store buffer in order; memory changes only when the buffer drains. -/
def Obligations.MemoryAccess : Prop :=
  ∀ o : MOp,
    LoadsMemory (.ldB o) o 0x40 1 true ∧ LoadsMemory (.ldH o) o 0x41 2 true ∧ LoadsMemory (.ldW o) o 0x42 4 true ∧
    LoadsMemory (.ldD o) o 0x43 8 true ∧ LoadsMemory (.ldBu o) o 0x44 1 false ∧ LoadsMemory (.ldHu o) o 0x45 2 false ∧
    LoadsMemory (.ldWu o) o 0x46 4 false ∧
    StoresMemory (.stB o) o 0x48 1 ∧ StoresMemory (.stH o) o 0x49 2 ∧ StoresMemory (.stW o) o 0x4A 4 ∧
    StoresMemory (.stD o) o 0x4B 8

/-- R213, R215: a store buffer that empties makes memory read, at every byte of the unified range outside the mirror
area, as its owner read it, and it leaves every engine's registers and tile store as they were. -/
def Obligations.DrainedStoresVisible : Prop :=
  ∀ (s : State) (e : Nat),
    let t := drainEngine s e
    (t.eng e).own = [] ∧
    (∀ a, a < s.uBytes → inMirror s a = false → memByte t a = fwdByte s (s.eng e).own a) ∧
    (∀ k n, (t.eng k).sReg n = (s.eng k).sReg n ∧ (t.eng k).pReg n = (s.eng k).pReg n ∧ (t.eng k).vReg n = (s.eng k).vReg n) ∧
    (∀ k a n, (t.eng k).tsRead a n = (s.eng k).tsRead a n)

/-- R257, R259: a translation changes memory only by setting bits: every bit of memory that was set stays set, no poison mark
goes, and what every engine and Cupola unit can see of itself is as before. -/
def Obligations.TranslationSetsBits : Prop :=
  ∀ (s : State) (cc asn va : Nat) (keys : List Nat) (acc : Acc) (dev : Bool),
    let t := (translate s cc keys asn va acc dev).1
    (∀ a, memByte t a ||| memByte s a = memByte t a) ∧ (∀ l, nHas l s.poison = true → nHas l t.poison = true) ∧
    (∀ k, (t.eng k).core = (s.eng k).core) ∧ (∀ k, t.unit k = s.unit k)

/-- R78, R79, R193: the control class. Where a branch, call, jump, LOOP or NOP goes, and what it links; guarded off it
goes to the next instruction. -/
def Obligations.ControlFlow : Prop :=
  ∀ o : MOp,
    Controls (.b o) o (mkWord 0x00 1 o) false (fun _ _ _ a => (none, branchTo o a)) ∧
    Controls (.beq o) o (mkWordTop 0x01 1 32 0 o) false (fun rd _ _ a =>
      (none, if rd o.src1.toNat = rd o.src2.toNat then branchTo o a else none)) ∧
    Controls (.bne o) o (mkWordTop 0x01 1 32 1 o) false (fun rd _ _ a =>
      (none, if rd o.src1.toNat ≠ rd o.src2.toNat then branchTo o a else none)) ∧
    Controls (.blt o) o (mkWordTop 0x01 1 32 2 o) false (fun rd _ _ a =>
      (none, if (rd o.src1.toNat).toInt < (rd o.src2.toNat).toInt then branchTo o a else none)) ∧
    Controls (.bge o) o (mkWordTop 0x01 1 32 3 o) false (fun rd _ _ a =>
      (none, if (rd o.src2.toNat).toInt ≤ (rd o.src1.toNat).toInt then branchTo o a else none)) ∧
    Controls (.bltu o) o (mkWordTop 0x01 1 32 4 o) false (fun rd _ _ a =>
      (none, if (rd o.src1.toNat).toNat < (rd o.src2.toNat).toNat then branchTo o a else none)) ∧
    Controls (.bgeu o) o (mkWordTop 0x01 1 32 5 o) false (fun rd _ _ a =>
      (none, if (rd o.src2.toNat).toNat ≤ (rd o.src1.toNat).toNat then branchTo o a else none)) ∧
    Controls (.bpany o) o (mkWordTop 0x02 1 32 0 o) false (fun _ pr lanes a =>
      (none, if ∃ i, i < lanes ∧ (pr o.src1.toNat).getLsbD i = true then branchTo o a else none)) ∧
    Controls (.bpall o) o (mkWordTop 0x02 1 32 1 o) false (fun _ pr lanes a =>
      (none, if ∀ i, i < lanes → (pr o.src1.toNat).getLsbD i = true then branchTo o a else none)) ∧
    Controls (.bpnone o) o (mkWordTop 0x02 1 32 2 o) false (fun _ pr lanes a =>
      (none, if ∀ i, i < lanes → (pr o.src1.toNat).getLsbD i = false then branchTo o a else none)) ∧
    Controls (.call o) o (mkWord 0x03 1 o) false (fun _ _ _ a => (some (o.dst.toNat, a + 8), branchTo o a)) ∧
    Controls (.callr o) o (mkWord 0x04 1 o) true (fun rd _ _ a => (some (o.dst.toNat, a + 8), some (rd o.src1.toNat))) ∧
    Controls (.jr o) o (mkWord 0x05 1 o) true (fun rd _ _ _ => (none, some (rd o.src1.toNat + o.imm.signExtend 64))) ∧
    Controls (.loop o) o (mkWord 0x06 1 o) false (fun rd _ _ a =>
      (some (o.dst.toNat, rd o.dst.toNat - 1), if rd o.dst.toNat - 1 ≠ 0 then branchTo o a else none)) ∧
    Controls (.nop o) o (mkWord 0x08 1 o) false (fun _ _ _ _ => (none, none))

/-- R80, R183: HALT of an engine whose queues are empty parks it with CAUSE halt at the next instruction; CUPOLA_HALT
ends the unit's invocation, whose stores have become visible. -/
def Obligations.Halts : Prop :=
  ∀ o : MOp,
    (∀ e, o.who = .engine e → ∀ s t, Stands s e (mkWord 0x07 1 o) t →
      (t.eng e.val).guardOf (mkWord 0x07 1 o) = true → (t.eng e.val).queuesEmpty = true → (t.eng e.val).state = .running →
      Does (.halt o) s (fun u =>
        Bookkept e.val (t.setEng e.val ((t.eng e.val).gone (((t.eng e.val).pc + 8) % 2 ^ 64))) u ∧
        (u.eng e.val).state = .parking ∧ (u.eng e.val).cause = .halt)) ∧
    (∀ k, o.who = .unit k → ∀ s en, cupDefined s.pkg.feature (mkWord 0x07 1 o) = true →
      unitEntry s k.val (mkWord 0x07 1 o) = some en → agGuard s o.who (mkWord 0x07 1 o) = true →
      Does (.cupolaHalt o) s (fun u => (u.unit k.val).inv = none ∧ (u.unit k.val).stores = []))

/-- R50, R51, R83: TCADD and TCSET change their counter at once; TCWAIT completes where its counter has reached the
value modulo 2^32, and otherwise stands waiting and changes nothing; ENG_TC_k written is set. Not in drowse. -/
def Obligations.TileCounters : Prop :=
  ∀ (o : MOp) (e : Fin 256), o.who = .engine e →
    (∀ s en, ready s o.who (mkWord 0x01 6 o) = some en → agGuard s o.who (mkWord 0x01 6 o) = true → asleep s e.val = false →
      Does (.tcadd o) s (Completed o.who en (s.setEng e.val { s.eng e.val with
        tc := put 0 (s.eng e.val).tc (o.imm.toNat / 2 ^ 29)
          ((s.eng e.val).tcVal (o.imm.toNat / 2 ^ 29) + BitVec.ofNat 32 (en.s1.toNat + o.imm.toNat % 2 ^ 23)) }))) ∧
    (∀ s en, ready s o.who (mkWord 0x02 6 o) = some en → agGuard s o.who (mkWord 0x02 6 o) = true → asleep s e.val = false →
      Does (.tcset o) s (Completed o.who en (s.setEng e.val { s.eng e.val with
        tc := put 0 (s.eng e.val).tc (o.imm.toNat / 2 ^ 29) (BitVec.ofNat 32 (en.s1.toNat + o.imm.toNat % 2 ^ 23)) }))) ∧
    (∀ s en, ready s o.who (mkWord 0x00 6 o) = some en → en.waits = true ∨ agGuard s o.who (mkWord 0x00 6 o) = true →
      let c := (s.eng e.val).tcVal (o.imm.toNat / 2 ^ 29)
      let v := BitVec.ofNat 32 (en.s1.toNat + o.imm.toNat % 2 ^ 23)
      ((c - v).toNat < 2 ^ 31 → Does (.tcwait o) s (Completed o.who en s)) ∧
      (2 ^ 31 ≤ (c - v).toNat → en.released = false → Does (.tcwait o) s (fun t =>
        (∀ k, (t.eng k).arch = (s.eng k).arch) ∧ SameMem s t ∧
        ∀ x ∈ (t.eng e.val).entries, x.dsn = en.dsn → x.waits = true))) ∧
    (∀ s (k : Fin 64) (v : BitVec 32), (s.eng e.val).migrating = none → (s.eng e.val).unplaced = false → asleep s e.val = false →
      ((s.eng e.val).state = .idle ∨ (s.eng e.val).state = .parked) →
      Does (.engTcWrite e k v) s (fun t => (t.eng e.val).tcVal k.val = v ∧
        (∀ j, j ≠ k.val → (t.eng e.val).tcVal j = (s.eng e.val).tcVal j) ∧ SameMem s t))

/-- R51, R83: TCWAIT_RELEASE: a TCWAIT that waits and whose counter has reached its value leaves the queues, where no
lower-numbered queue holds another that does. A counter that reaches the value releases it for good. -/
def Obligations.WaitsReleased : Prop :=
  ∀ (s : State) (e : Fin 256),
    (∀ q x, q ≤ 5 → ((s.eng e.val).queue q).head? = some x → x.waits = true → x.released = true →
      headEntry s e.val x.word = some x →
      (∀ p y, p < q → ((s.eng e.val).queue p).head? = some y → (y.waits && y.released) = false) →
      Does (.tcwaitRelease e) s (fun t => Left (t.eng e.val) x ∧ Bookkept e.val s t)) ∧
    (∀ (set : Bool) (k v : Nat) (x : Entry),
      (s.eng e.val).migrating = none → (s.eng e.val).unplaced = false → asleep s e.val = false →
      x ∈ ((tcUpdate s e.val set k v).eng e.val).entries → x.waits = true → wOpc x.word = 0 → syncTc x.word = k →
      tcReaches (((tcUpdate s e.val set k v).eng e.val).tcVal k) (syncX x) = true → x.released = true)

/-- R84, R94, R328: WAITT takes the oldest Ticket held into the tile store, frees its slot and advances its counter;
TSEND sends the 64 bytes of the tile store to an endpoint that accepts them and has a credit. -/
def Obligations.TicketInstructions : Prop :=
  ∀ o : MOp,
    (∀ e, o.who = .engine e → ∀ s en k ks, ready s o.who (mkWord 0x03 6 o) = some en →
      en.waits = true ∨ agGuard s o.who (mkWord 0x03 6 o) = true → (s.ep (epEngine e.val)).slots = k :: ks →
      let l := (en.s1.toNat + o.imm.toNat % 2 ^ 22) % 2 ^ 22
      l % 64 = 0 → l + 72 ≤ 2 ^ 22 →
      Does (.waitt o) s (fun t =>
        Left (t.eng e.val) en ∧ (t.ep (epEngine e.val)).slots = ks ∧
        (∀ i, i < 72 → i < (k.payload ++ leBytes 4 k.sender ++ leBytes 4 k.seq).length →
          (t.eng e.val).tsRead (l + i) 1 = [(k.payload ++ leBytes 4 k.sender ++ leBytes 4 k.seq).getD i 0]) ∧
        (o.imm.getLsbD 22 = true → asleep s e.val = false →
          (t.eng e.val).tcVal (o.imm.toNat / 2 ^ 29) = (s.eng e.val).tcVal (o.imm.toNat / 2 ^ 29) + 1) ∧
        (∀ n, agS t o.who n = agS s o.who n) ∧ t.mem = s.mem)) ∧
    (∀ s en, ready s o.who (mkWord 0x00 7 o) = some en → agGuard s o.who (mkWord 0x00 7 o) = true →
      let ep := (agS s o.who o.src1.toNat).toNat % 2 ^ 32
      let l := ((agS s o.who o.src2.toNat).toNat + o.imm.toNat % 2 ^ 22) % agLocal o.who
      let u := agSense s o.who l 64
      let k : TkSend := { sender := senderOf o.who, asn := agAsn s o.who, payload := agRead u o.who l 64, auto := false }
      l % 64 = 0 → l + 64 ≤ agLocal o.who → agPois u o.who l 64 = false → epAccepts u ep k.asn k.payload = true →
      (u.ep ep).waiting = [] → epFree (u.ep ep) = true → mayLeave (u.ep ep) k.sender = true →
      ∃ v : State, (v.ep ep).inflight = (u.ep ep).inflight ++ [k] ∧ (v.ep ep).slots = (u.ep ep).slots ∧
        (v.ep ep).waiting = [] ∧ (∀ j, j ≠ ep → v.ep j = u.ep j) ∧ v = { u with eps := v.eps } ∧
        Does (.tsend o) s (Completed o.who en v))

/-- R85, R210, R215, R221, R227, R247: a FENCE of an engine completes with its store buffer empty: at LOC the stores are performed
where its own queues and shunters see them, at PKG and SYS for every observer, and later loads return nothing older. A kernel's
empties its unit's at PKG and SYS and leaves it at LOC. At PKG and SYS it waits, and changes nothing, while a store waits at its
home, at SYS also while a write of an engine window is held. -/
def Obligations.Fences : Prop :=
  ∀ o : MOp,
    (∀ e, o.who = .engine e → ∀ s en, ready s o.who (mkWordTop 0x08 6 33 0 o) = some en →
      agGuard s o.who (mkWordTop 0x08 6 33 0 o) = true →
      Does (.fenceLoc o) s (fun t => Completed o.who en (s.setEng e.val (s.eng e.val).nearStores) t ∧
        (t.eng e.val).stores = [] ∧ (t.eng e.val).near = (s.eng e.val).own)) ∧
    (∀ p ∈ [(Instr.fencePkg o, mkWordTop 0x08 6 33 1 o, false), (.fenceSys o, mkWordTop 0x08 6 33 2 o, true)],
      (∀ e, o.who = .engine e → ∀ s en, ready s o.who p.2.1 = some en → agGuard s o.who p.2.1 = true →
        let d := drainEngine s e.val
        (storesWait s (s.eng e.val).own = false → (p.2.2 = true → holdsWrite s (.engine e.val) = false) →
          Does p.1 s (fun t => Completed o.who en (d.setEng e.val { d.eng e.val with earlier := none }) t ∧ (t.eng e.val).own = [])) ∧
        (storesWait s (s.eng e.val).own = true ∨ (p.2.2 = true ∧ holdsWrite s (.engine e.val) = true) →
          Does p.1 s (fun t => t = s)))) ∧
    (∀ u, o.who = .unit u → ∀ s en, ready s o.who (mkWordTop 0x08 6 33 0 o) = some en →
      agGuard s o.who (mkWordTop 0x08 6 33 0 o) = true → Does (.fenceLoc o) s (Completed o.who en s)) ∧
    (∀ p ∈ [(Instr.fencePkg o, mkWordTop 0x08 6 33 1 o), (.fenceSys o, mkWordTop 0x08 6 33 2 o)],
      (∀ u, o.who = .unit u → ∀ s en, ready s o.who p.2 = some en → agGuard s o.who p.2 = true →
        (storesWait s (s.unit u.val).stores = false →
          Does p.1 s (fun t => Completed o.who en (drainUnit s u.val) t ∧ (t.unit u.val).stores = [])) ∧
        (storesWait s (s.unit u.val).stores = true → Does p.1 s (fun t => t = s))))

/-- R86, R87, R88, R93: STATION once the engine's other work has ended, recorded in an active pair and otherwise
advancing its counter; SEED loads the generator; FLAGCLR clears flags; EXPECT is accepted and leaves its queue. -/
def Obligations.StationSeedFlagsExpect : Prop :=
  ∀ (o : MOp) (e : Fin 256), o.who = .engine e →
    (∀ s en, ready s o.who (mkWord 0x09 6 o) = some en → agGuard s o.who (mkWord 0x09 6 o) = true →
      (∀ q ∈ [1, 2, 3, 4, 5], (s.eng e.val).queue q = []) → workEnded s e.val = true → s.holding = false →
      storesWait s (s.eng e.val).own = false →
      let u := drainEngine s e.val
      ((tdActive s && tdPart s e.val) = false → o.imm.getLsbD 28 = false → Does (.station o) s (Completed o.who en u)) ∧
      ((tdActive s && tdPart s e.val) = false → o.imm.getLsbD 28 = true →
        Does (.station o) s (Completed o.who en (tcAdd u e.val (o.imm.toNat / 2 ^ 29) 1))) ∧
      ((tdActive s && tdPart s e.val) = true → nHas e.val s.td.epochAhead = false →
        Does (.station o) s (fun t =>
          nHas e.val t.td.epochAhead = true ∧ Left (t.eng e.val) en ∧ t.mem = u.mem ∧
          t.td.ckptsOut = u.td.ckptsOut ++ [checkpointOf u e.val en] ∧
          t.td.stationCtr = u.td.stationCtr ++
            (if o.imm.getLsbD 28 then [(e.val, o.imm.toNat / 2 ^ 29, u.td.opened)] else [])))) ∧
    (∀ s en, ready s o.who (mkWord 0x0A 6 o) = some en → agGuard s o.who (mkWord 0x0A 6 o) = true →
      Does (.seed o) s (Completed o.who en (s.setEng e.val { s.eng e.val with sr := en.s2 ++ en.s1 }))) ∧
    (∀ s en, ready s o.who (mkWord 0x04 7 o) = some en → agGuard s o.who (mkWord 0x04 7 o) = true →
      Does (.flagclr o) s (Completed o.who en
        (s.setEng e.val { s.eng e.val with fp := (s.eng e.val).fp &&& ~~~(o.imm.setWidth 5) }))) ∧
    (∀ s en, ready s o.who (mkWord 0x0B 6 o) = some en → agGuard s o.who (mkWord 0x0B 6 o) = true →
      expectChunks en.s1.toNat en.s2.toNat ≤ 2 ^ 24 → s.shut = false →
      backPressured s (s.eng e.val).asn = false →
      Does (.expect o) s (fun t => Left (t.eng e.val) en ∧ t.nextKey = s.nextKey + 1 ∧ ∀ n, agS t o.who n = agS s o.who n))

/-- R89–R92, R147, R181: what the transfer and near-memory instructions submit. SHUNT.R and SHUNT.T append a descriptor
with the next sequence number to the shunter that IMM names, CUPX a launch, CUPA an atomic; SHUNTQ stores the credit word.
Where the device accepts submissions. -/
def Obligations.Submissions : Prop :=
  ∀ (o : MOp) (e : Fin 256), o.who = .engine e →
    let st := 2 * e.val + o.imm.toNat / 2 ^ 34
    let accepts (s : State) (ws : List Word) : Prop :=
      descCheck (descF ws) s.pkg.feature (s.eng e.val).asn true (decide ((descF ws).ctEngine = e.val)) = 0 ∧ s.shut = false ∧
      backPressured s (descF ws).asn = false ∧ (s.stream st).slots.length < 8
    let submitted (s : State) (ws : List Word) : State := ({ s with nextKey := s.nextKey + 1 } : State).setStream st { s.stream st with
      lastSeq := ((s.stream st).lastSeq + 1) % 2 ^ 64
      slots := (s.stream st).slots ++ [{ seq := ((s.stream st).lastSeq + 1) % 2 ^ 64, words := ws, born := s.nextKey }] }
    let addr (en : Entry) : Nat := (en.s1.toNat + o.imm.toNat % 2 ^ 22) % 2 ^ 22
    (∀ s en, ready s o.who (mkWord 0x00 4 o) = some en → agGuard s o.who (mkWord 0x00 4 o) = true → accepts s en.regs →
      Does (.shuntR o) s (Completed o.who en (submitted s en.regs))) ∧
    (∀ s en, ready s o.who (mkWord 0x01 4 o) = some en → agGuard s o.who (mkWord 0x01 4 o) = true →
      addr en % 128 = 0 →
      let u := senseTs s e.val (addr en) 128
      let ws := wordsOf ((u.eng e.val).tsRead (addr en) 128) 16
      (u.eng e.val).tsPois (addr en) 128 = false → accepts u ws →
      Does (.shuntT o) s (Completed o.who en (submitted u ws))) ∧
    (∀ s en, ready s o.who (mkWord 0x02 4 o) = some en → agGuard s o.who (mkWord 0x02 4 o) = true →
      addr en % 8 = 0 → o.imm.getLsbD 33 = false →
      let credit := leBytes 2 (8 - (s.stream st).slots.length) ++ [0, 0] ++ leBytes 4 (s.stream st).endedSeq
      Does (.shuntq o) s (Completed o.who en (agWrite s o.who [{ addr := addr en, bytes := credit }]))) ∧
    (∀ s en, ready s o.who (mkWord 0x00 5 o) = some en → agGuard s o.who (mkWord 0x00 5 o) = true →
      addr en % 128 = 0 →
      let u := senseTs s e.val (addr en) 128
      let ws := wordsOf ((u.eng e.val).tsRead (addr en) 128) 16
      let q := ((s.eng e.val).launchSeq + 1) % 2 ^ 64
      (u.eng e.val).tsPois (addr en) 128 = false →
      launchCheck u (launchF ws) (u.eng e.val).asn (decide ((launchF ws).ctEngine = e.val)) = 0 → u.shut = false →
      backPressured u (launchF ws).asn = false → (launchF ws).len ≠ 0 →
      Does (.cupx o) s (fun t => Left (t.eng e.val) en ∧ (t.eng e.val).launchSeq = q ∧
        t.launches = s.launches ++ [(s.nextKey, { cc := ccOfEngine e.val, engine := some e.val, seq := q, words := ws })] ∧
        t.mem = s.mem ∧ ∀ n, agS t o.who n = agS s o.who n)) ∧
    (∀ s en, ready s o.who (mkWord 0x01 5 o) = some en → agGuard s o.who (mkWord 0x01 5 o) = true →
      let n := 2 * 2 ^ (o.imm.toNat / 2 ^ 29 % 4)
      en.s1.toNat % n = 0 → (o.imm.getLsbD 28 = true → addr en % 8 = 0) → s.shut = false →
      backPressured s (s.eng e.val).asn = false →
      Does (.cupa o) s (fun t => Left (t.eng e.val) en ∧ t.mem = s.mem ∧ (∀ j, agS t o.who j = agS s o.who j) ∧
        t.atomics = s.atomics ++ [(s.nextKey,
          { src := 0, dsn := en.dsn, engine := e.val, asn := (s.eng e.val).asn, va := en.s1.toNat,
            aop := o.imm.toNat / 2 ^ 31, size := n, op := en.s2, cmp := en.sd, ret := o.imm.getLsbD 28,
            local_ := addr en, tc := o.imm.toNat / 2 ^ 22 % 64 })]))

/-- R299: CCLEAN leaves no cache with the line dirty, CFLUSH none with the line at all, CINVAL not the engine's own; each
first makes the engine's stores visible, and no other byte of memory changes. Where the address reaches the unified
range and no home makes it wait. -/
def Obligations.CacheMaintenance : Prop :=
  ∀ (o : MOp) (e : Fin 256), o.who = .engine e → ∀ s t x en (opc : Nat),
    let va := memAddr s o
    let l := x.pa va / 64
    let ok : Prop := ready s o.who (mkWord opc 7 o) = some en ∧ agGuard s o.who (mkWord opc 7 o) = true ∧
      translate s (ccOfEngine e.val) (engKeys e.val) (s.eng e.val).asn va .r true = (t, .ok x) ∧
      region t (x.pa va) = .unified ∧ memWaits t (x.pa va) 1 = false ∧ storesWait t (t.eng e.val).own = false
    let shared (u : State) : Prop := Left (u.eng e.val) en ∧ SameMem (drainEngine t e.val) u ∧ (u.eng e.val).own = [] ∧
      (∀ k, nHas k (drainEngine t e.val).poison = true → nHas k u.poison = true) ∧
      ∀ n, agS u o.who n = agS s o.who n
    (opc = 1 → ok → Does (.cclean o) s (fun u => shared u ∧ (∀ k, look 0 (u.eng k).sc l ≠ 2) ∧
      (∀ h, look 0 (u.hart h).cache l ≠ 2) ∧
      (look 0 (u.pc (home (l * 64))).lines l = 0 ∨ look 0 (u.pc (home (l * 64))).lines l % 2 = 1))) ∧
    (opc = 2 → ok → Does (.cflush o) s (fun u => shared u ∧ (∀ k, look 0 (u.eng k).sc l = 0) ∧
      (∀ h, look 0 (u.hart h).cache l = 0) ∧ look 0 (u.pc (home (l * 64))).lines l = 0)) ∧
    (opc = 3 → ok → Does (.cinval o) s (fun u => shared u ∧ look 0 (u.eng e.val).sc l = 0))

/-- R52, R58, R60, R61, R66, R307: the commands of an engine's control registers, on an engine that is neither migrating nor
in a drowsing Spire. START fetches from ENG_ENTRY, PARK begins to park a RUNNING engine, ICINV empties the instruction
cache of an engine that is IDLE or PARKED, RESUME leaves PARKED, and RESET clears what R61 names. -/
def Obligations.EngineControl : Prop :=
  ∀ (s : State) (e : Fin 256), (s.eng e.val).migrating = none → asleep s e.val = false →
    let g := s.eng e.val
    (g.state = .idle → g.unplaced = false → Does (.engCtrlStart e) s
      (OnlyEng e.val { g with
        dsn := 0, icache := [], earlier := none, pc := g.entry, state := .running, cause := .none, exc := none, multi := false
        resumeMode := 0 } s)) ∧
    (g.state = .running → Does (.engCtrlPark e) s
      (OnlyEng e.val { g with state := .parking, cause := .software, finishing := g.underWay, resumeMode := 0 } s)) ∧
    (g.state = .idle ∨ g.state = .parked → Does (.engCtrlIcinv e) s (OnlyEng e.val { g with icache := [], resumeMode := 0 } s)) ∧
    (g.state = .parked → g.unplaced = false → g.exc = none → g.excs = [] → ∀ m : BitVec 2, m.toNat ≤ 1 →
      Does (.engCtrlResume e m) s (fun t => (t.eng e.val).state ≠ .parked ∧
        Bookkept e.val (s.setEng e.val { g with resumeMode := m.toNat, exc := none, multi := false, earlier := none }) t)) ∧
    (g.state ≠ .resetting → (s.stream (2 * e.val)).slots = [] → (s.stream (2 * e.val + 1)).slots = [] →
      (∀ p ∈ s.launches, p.2.engine ≠ some e.val) →
      Does (.engCtrlReset e) s (fun t =>
        (t.eng e.val).state = .idle ∧ (t.eng e.val).cause = .none ∧ (t.eng e.val).exc = none ∧ (t.eng e.val).entries = [] ∧
        (∀ n, (t.eng e.val).sReg n = 0) ∧ (∀ k, (t.eng e.val).tcVal k = 0) ∧ (t.eng e.val).own = [] ∧
        (t.eng e.val).asn = 0 ∧ (t.eng e.val).fp = 0 ∧
        (∀ a n, (t.eng e.val).tsRead a n = g.tsRead a n) ∧ SameMem (drainEngine s e.val) t)) ∧
    Does (.engScCtrlDisable e) s (OnlyEng e.val
      { g with scDisable := true, scClean := g.scClean || (!g.scDisable && !s.holding) } s) ∧
    Does (.engScCtrlEnable e) s
      (OnlyEng e.val { g with scDisable := false, scClean := false, scDisabled := false, sc := if g.scDisabled then [] else g.sc } s) ∧
    (∀ q : Word, (∀ p ∈ s.launches, p.2.engine = some e.val → p.2.seq ≠ q.toNat) →
      Does (.engCupCancel e q) s (fun t => t = s)) ∧
    (∀ (q : Word) k l, s.launches = [(k, l)] → l.engine = some e.val → l.seq = q.toNat → l.aborting = none →
      l.running ≠ [] → (∀ u ∈ s.units, ∀ i, u.2.inv = some i → i.fault = none) →
      Does (.engCupCancel e q) s (fun t => ∃ m, findLaunch t k = some m ∧ m.aborting = some 0x0C ∧ m.waiting = [])) ∧
    Does (.scalarMissFill e) s (OnlyEng e.val { g with scMiss := none, scHeld := false } s) ∧
    (g.state = .parking → Does (.engineParked e) s (fun t =>
      (t.eng e.val).state = .parked ∧ (t.eng e.val).exc = g.firstExc ∧ (t.eng e.val).own = [] ∧
      (∀ n, (t.eng e.val).sReg n = g.sReg n) ∧ (t.eng e.val).pc = g.pc ∧ SameMem (drainEngine s e.val) t))

/-- R37–R41, R68: DISPATCH of an instruction that its engine holds no longer for: it enters every queue that it names, with the
operands captured and the next DSN, and ENG_PC and ENG_DSN move on; an undefined word that reaches empty queues is reported. A
slot without an instruction, or one held for a full queue, changes nothing but bookkeeping. -/
def Obligations.Dispatching : Prop :=
  ∀ (s : State) (e : Fin 256), (s.eng e.val).runs = true → (s.eng e.val).scHeld = false →
    (∀ b, Does (.dispatch e false b) s (fun u => Bookkept e.val s u ∧ ∀ q, (u.eng e.val).queue q = (s.eng e.val).queue q)) ∧
    ((s.eng e.val).hold = none → ∀ refill t w, fetchWord s e.val refill = (t, some w) →
      dispatcherRaises t.pkg.feature w = false → wCls w ≠ 1 →
      let g := t.eng e.val
      ((∃ q ∈ wordQueues w, queueDepth q ≤ (g.queue q).length) →
        Does (.dispatch e true refill) s (fun u => Bookkept e.val t u ∧ ∀ q, (u.eng e.val).queue q = g.queue q)) ∧
      ((∀ q ∈ wordQueues w, (g.queue q).length < queueDepth q) →
        (∀ x ∈ g.q0, regsMeet (writesS x.word) (readsAtDispatch w) = false) →
        (wordDefined t.pkg.feature w = false → (∀ q ∈ wordQueues w, g.queue q = []) → wordQueues w ≠ [] →
          g.runs = true → (∀ q x, (g.queue q).head? = some x → wordDefined t.pkg.feature x.word = true) →
          Does (.dispatch e true refill) s (fun u => (u.eng e.val).state = .parking ∧
            (∀ q ∈ wordQueues w, (u.eng e.val).queue q ≠ []) ∧
            ∃ x ∈ (u.eng e.val).excs, x.queue = (wordQueues w).headD 0 ∧ (g.excs = [] → x = ⟨x.queue, 0x01, g.dsn, g.pc, 0, false⟩))) ∧
        (wordDefined t.pkg.feature w = true → Does (.dispatch e true refill) s (fun u =>
          Bookkept e.val (t.setEng e.val (g.gone ((g.pc + 8) % 2 ^ 64))) u ∧
          (u.eng e.val).hold = (if holdsDispatch w then some g.dsn else none) ∧
          ∃ en : Entry, en.dsn = g.dsn ∧ en.addr = g.pc ∧ en.word = w ∧ en.s1 = g.sReg (wS1 w) ∧ en.s2 = g.sReg (wS2 w) ∧
            en.sd = g.sReg (wDst w) ∧ en.waits = false ∧
            ∀ q, q ≤ 5 → (u.eng e.val).queue q = if q ∈ wordQueues w then g.queue q ++ [en] else g.queue q))))

/-- R62, R63: a migration takes the engine's context with it. From its start the engine's stores are visible, its caches are
empty and its two shunters are held; after the switch it lies in the new slot. Its registers, accumulators, tile store, position
and state are as before, where its Spire is not in drowse and no write of its window is held; its tile counters gain what was
sent to it meanwhile. A migration that may not start, and a switch before the shunters rest or under a keeper hold, change
nothing. -/
def Obligations.Migration : Prop :=
  ∀ (s : State) (e : Fin 256),
    let context (t : State) : Engine :=
      { (t.eng e.val).core with migrating := none, slot := none, near := [], stores := [], tc := [], heldTc := [], heldCtrl := [] }
    let same (t : State) : Prop := context t = context s ∧ (t.eng e.val).state = (s.eng e.val).state ∧
      (∀ n, (t.eng e.val).sReg n = (s.eng e.val).sReg n) ∧ ∀ a n, (t.eng e.val).tsRead a n = (s.eng e.val).tsRead a n
    (∀ slot : Fin 288, mayMigrate s e.val slot.val = true → Does (.engineMigration e slot) s (fun t =>
      (t.eng e.val).migrating = some slot.val ∧ (t.eng e.val).own = [] ∧ (t.eng e.val).sc = [] ∧ (t.eng e.val).icache = [] ∧
      (∀ k ∈ [2 * e.val, 2 * e.val + 1], (t.stream k).hold % 2 = 1) ∧ (asleep s e.val = false → same t))) ∧
    (∀ slot : Fin 288, mayMigrate s e.val slot.val = false → Does (.engineMigration e slot) s (fun t => t = s)) ∧
    (∀ slot : Nat, (s.eng e.val).migrating = some slot → streamRests (s.stream (2 * e.val)) = true →
      streamRests (s.stream (2 * e.val + 1)) = true → s.holding = false →
      Does (.engineMigrationSwitch e) s (fun t => (t.eng e.val).migrating = none ∧ physSlot t e.val = slot ∧
        ((s.eng e.val).heldCtrl = [] → same t))) ∧
    ((s.eng e.val).migrating = none ∨ streamRests (s.stream (2 * e.val)) = false ∨
      streamRests (s.stream (2 * e.val + 1)) = false ∨ s.holding = true → Does (.engineMigrationSwitch e) s (fun t => t = s))

/-- R100, R114, R115: the elementwise vector rows, on an engine's 256 bytes and a Cupola unit's 128: what each active lane
becomes, which lanes are kept or cleared, and that nothing else changes. -/
def Obligations.VectorElementwise : Prop :=
  ∀ o : MOp,
    let t := vTypeOf o
    let w := typeWidth t
    let rm := rmOf (iRm o.imm.toNat) .rne
    let fma (np nc : Bool) (a b c : Nat) : Nat := match fpOfType t with | some f => (fpFma f rm np nc a b c).1 | none => 0
    VecOp (.vadd o) o 0x00 2 (lane2 o .add (· + ·)) ∧ VecOp (.vsub o) o 0x01 2 (lane2 o .sub (· - ·)) ∧
    VecOp (.vmul o) o 0x02 2 (lane2 o .mul (· * ·)) ∧
    VecOp (.vdiv o) o 0x03 2 (fun a b _ => match fpOfType t with | some f => (fpOp2 f rm .div a b).1 | none => 0) ∧
    VecOp (.vsqrt o) o 0x04 1 (fun a _ _ => match fpOfType t with | some f => (fpSqrt f rm a).1 | none => 0) ∧
    VecOp (.vmin o) o 0x05 2 (lane2 o .min min) ∧ VecOp (.vmax o) o 0x06 2 (lane2 o .max max) ∧
    VecOp (.vabs o) o 0x07 1 (fun a _ _ => match fpOfType t with
      | some _ => a % 2 ^ (w - 1)
      | none => laneOut t (iSat o.imm.toNat) ((laneInt t a).natAbs : Int)) ∧
    VecOp (.vneg o) o 0x08 1 (fun a _ _ => match fpOfType t with
      | some _ => (a + 2 ^ (w - 1)) % 2 ^ w
      | none => laneOut t (iSat o.imm.toNat && decide (laneInt t a = -(2 ^ (w - 1)))) (-(laneInt t a))) ∧
    VecOp (.vfma o) o 0x09 3 (fma false false) ∧ VecOp (.vfms o) o 0x0A 3 (fma false true) ∧
    VecOp (.vfnma o) o 0x0B 3 (fma true false) ∧
    VecOp (.vand o) o 0x0C 2 (fun a b _ => a &&& b) ∧ VecOp (.vor o) o 0x0D 2 (fun a b _ => a ||| b) ∧
    VecOp (.vxor o) o 0x0E 2 (fun a b _ => a ^^^ b) ∧
    VecOp (.vshl o) o 0x0F 2 (fun a b _ => a * 2 ^ (b % w) % 2 ^ w) ∧
    VecOp (.vshr o) o 0x10 2 (fun a b _ => a / 2 ^ (b % w)) ∧
    VecOp (.vsra o) o 0x11 2 (fun a b _ => (((BitVec.ofNat w a).toInt / 2 ^ (b % w)) % 2 ^ w).toNat)

/-- R113–R116, R135: the rows that select, broadcast, number, permute and convert lanes. A conversion takes each lane of its
part to the destination TYPE under the word's RM, stochastic rounding by the lane's draw; narrowing leaves the lanes of the
other parts as they were. -/
def Obligations.VectorSelection : Prop :=
  ∀ o : MOp,
    let imm := o.imm.toNat
    let t := vTypeOf o
    let w := typeWidth t
    let d := o.dst.toNat
    let opx := iOpx imm
    let does (i : Instr) (opc wd : Nat) (act : State → Nat → Prop) (val : State → Entry → Nat → Nat → Prop)
        (bad : State → Nat → Prop) : Prop :=
      ∀ s en, ready s o.who (mkWord opc 2 o) = some en → Does i s (fun t => ∃ u, Completed o.who en u t ∧
        OnlyV o.who (fun k => k = d) s u ∧ Lanes s o.who wd d (iZm imm) (act s) (val s en) (bad s) u)
    let cvt (s : State) (dw j x : Nat) : Nat :=
      (cvtLane t (opx % 16) (rmOf (iRm imm) (srDrawOf (drawKey s o.who).2 j)) (iSat imm) x).1 % 2 ^ dw
    let sel (s : State) (i : Nat) : Nat := if (agP s o.who (opx % 8)).getLsbD i then o.src1.toNat else o.src2.toNat
    let n := agBits o.who / w
    does (.vsel o) 0x19 w (fun s => vActive s o) (fun s _ i v => v = vLane s o.who w (sel s i) i)
      (fun s i => vBad s o.who w (sel s i) i) ∧
    does (.vbcast o) 0x1A w (fun s => vActive s o) (fun _ en _ v => v = en.s1.toNat % 2 ^ w) (fun _ _ => False) ∧
    does (.viota o) 0x1B w (fun s => vActive s o) (fun _ _ i v => v = i) (fun _ _ => False) ∧
    does (.vperm o) 0x1C w (fun s => vActive s o)
      (fun s _ i v => v = vLane s o.who w o.src1.toNat (vLane s o.who w o.src2.toNat i % n))
      (fun s i => vBad s o.who w o.src2.toNat i ∨ vBad s o.who w o.src1.toNat (vLane s o.who w o.src2.toNat i % n)) ∧
    (∀ dw, typeWidth (opx % 16) = dw → (dw = w →
      does (.vcvt o) 0x1D dw (fun s => vActive s o)
        (fun s _ i v => v = cvt s dw i (vLane s o.who w o.src1.toNat i))
        (fun s i => vBad s o.who w o.src1.toNat i)) ∧
     (w < dw →
      let part := opx / 16 % 8
      does (.vcvt o) 0x1D dw (fun s => vActive s o)
        (fun s _ i v => v = cvt s dw i (vLane s o.who w o.src1.toNat (part * (agBits o.who / dw) + i)))
        (fun s i => vBad s o.who w o.src1.toNat (part * (agBits o.who / dw) + i))) ∧
     (dw < w →
      let part := opx / 16 % 8
      ∀ s en, ready s o.who (mkWord 0x1D 2 o) = some en → Does (.vcvt o) s (fun u' => ∃ u, Completed o.who en u u' ∧
        OnlyV o.who (fun k => k = d) s u ∧
        (∀ i, i < n → part * n + i < agBits o.who / dw →
          let j := part * n + i
          (vActive s o j → ¬ vBad s o.who w o.src1.toNat i → ¬ vBad u o.who dw d j ∧
            vLane u o.who dw d j = cvt s dw j (vLane s o.who w o.src1.toNat i)) ∧
          (vActive s o j → vBad s o.who w o.src1.toNat i → vBad u o.who dw d j) ∧
          (¬ vActive s o j → iZm imm = true → vLane u o.who dw d j = 0 ∧ ¬ vBad u o.who dw d j) ∧
          (¬ vActive s o j → iZm imm = false → vLane u o.who dw d j = vLane s o.who dw d j ∧
            (vBad u o.who dw d j ↔ vBad s o.who dw d j))) ∧
        ∀ j, j < agBits o.who / dw → (j < part * n ∨ part * n + n ≤ j) →
          vLane u o.who dw d j = vLane s o.who dw d j ∧ (vBad u o.who dw d j ↔ vBad s o.who dw d j))))

/-- R100, R114, R115, R118: VCMP and the predicate rows write lanes of one P register; PCOUNT counts lanes into V[DST]. A
poisoned lane of a VCMP gives false, and an engine reports data loss and begins to park. -/
def Obligations.VectorPredicates : Prop :=
  ∀ o : MOp,
    let imm := o.imm.toNat
    let t := vTypeOf o
    let w := typeWidth t
    let d := o.dst.toNat
    let whole (i : Instr) (opc : Nat) (f : Bool → Bool → Bool) : Prop :=
      ∀ s en, ready s o.who (mkWord opc 2 o) = some en → Does i s (fun t => ∃ u, Completed o.who en u t ∧ OnlyP o.who d s u ∧
        (d ≠ 0 → ∀ k, k < agPLanes o.who → (agP u o.who d).getLsbD k =
          f ((agP s o.who o.src1.toNat).getLsbD k) ((agP s o.who o.src2.toNat).getLsbD k)))
    whole (.pand o) 0x30 (fun a b => a && b) ∧ whole (.por o) 0x31 (fun a b => a || b) ∧
    whole (.pxor o) 0x32 (fun a b => a != b) ∧ whole (.pandn o) 0x33 (fun a b => a && !b) ∧
    (∀ s en, ready s o.who (mkWord 0x35 2 o) = some en → Does (.pfirstn o) s (fun t => ∃ u, Completed o.who en u t ∧
      OnlyP o.who d s u ∧ (d ≠ 0 → ∀ k, k < agPLanes o.who → (agP u o.who d).getLsbD k = decide (k < en.s1.toNat)))) ∧
    (∀ s en, ready s o.who (mkWord 0x36 2 o) = some en → Does (.pcount o) s (fun t => ∃ u, Completed o.who en u t ∧
      OnlyV o.who (fun k => k = d) s u ∧ agVm u o.who d = 0 ∧ (agV u o.who d).toNat =
        ((List.range (agPLanes o.who)).filter (fun k => (agP s o.who o.src1.toNat).getLsbD k)).length)) ∧
    (∀ s en, ready s o.who (mkWord 0x18 2 o) = some en →
      let bad (k : Nat) : Prop := vBad s o.who w o.src1.toNat k ∨ vBad s o.who w o.src2.toNat k
      Does (.vcmp o) s (fun u' => ∃ u, Completed o.who en u u' ∧ OnlyP o.who d s u ∧
        (∀ e, o.who = .engine e → (∃ k, k < agBits o.who / w ∧ vActive s o k ∧ bad k) → (u'.eng e.val).state = .parking) ∧
        (d ≠ 0 → ∀ k, k < agBits o.who / w →
          let x := laneInt t (vLane s o.who w o.src1.toNat k)
          let y := laneInt t (vLane s o.who w o.src2.toNat k)
          let order : Option Ordering := match fpOfType t with
            | some f => fvCmp (fpDecode f (vLane s o.who w o.src1.toNat k)) (fpDecode f (vLane s o.who w o.src2.toNat k))
            | none => some (if x < y then .lt else if x = y then .eq else .gt)
          (vActive s o k → bad k → (agP u o.who d).getLsbD k = false) ∧
          (vActive s o k → ¬ bad k → (agP u o.who d).getLsbD k =
            (match iOpx imm % 8 with
             | 0 => decide (order = some .eq) | 1 => decide (order ≠ some .eq) | 2 => decide (order = some .lt)
             | 3 => decide (order = some .lt ∨ order = some .eq) | 4 => decide (order = some .gt)
             | 5 => decide (order = some .gt ∨ order = some .eq) | 6 => decide (order = none) | _ => decide (order ≠ none))) ∧
          (¬ vActive s o k → (agP u o.who d).getLsbD k = (!iZm imm && (agP s o.who d).getLsbD k)))))

/-- R47, R100, R117: the vector loads and stores of the tile store and scratch, where every address is aligned and in range:
each active lane takes the bytes at its address, after the errors of the rows read have been found, and each stored byte is the
last active lane's; every other byte stays. A lane whose index is poisoned loads poison and stores nothing. -/
def Obligations.VectorLocalMemory : Prop :=
  ∀ o : MOp,
    let imm := o.imm.toNat
    let w := typeWidth (vTypeOf o)
    let nb := w / 8
    let d := o.dst.toNat
    let addr (s : State) (en : Entry) (k : VAddr) (i : Nat) : Nat :=
      vecAddr o.who en k w (if k = .indexed then agLanes s o.who w o.src2.toNat else []) i
    let badIdx (s : State) (k : VAddr) (i : Nat) : Prop := k = .indexed ∧ vBad s o.who w o.src2.toNat i
    let clear (s : State) (en : Entry) (k : VAddr) : Prop :=
      (k = .contiguous → vecBase o.who en % 64 = 0) ∧
      ∀ i, i < agBits o.who / w → vActive s o i → ¬ badIdx s k i → addr s en k i + nb ≤ agLocal o.who ∧ addr s en k i % nb = 0
    let loads (i : Instr) (opc : Nat) (k : VAddr) : Prop :=
      ∀ s en, ready s o.who (mkWord opc 2 o) = some en → clear s en k →
        let v := forAll ((vecActive s o.who en k w (if k = .indexed then agLanes s o.who w o.src2.toNat else [])).map (addr s en k))
          (fun a s => agSense s o.who a nb) s
        Does i s (fun t => ∃ u, Completed o.who en u t ∧ OnlyV o.who (fun n => n = d) v u ∧
          Lanes s o.who w d false (vActive s o) (fun j x => x = leNat (agRead s o.who (addr s en k j) nb))
            (fun j => badIdx s k j ∨ agPois v o.who (addr s en k j) nb = true) u)
    let stores (i : Instr) (opc : Nat) (k : VAddr) : Prop :=
      ∀ s en, ready s o.who (mkWord opc 2 o) = some en → clear s en k →
        Does i s (fun t => ∃ u, Completed o.who en u t ∧ (∀ n, agV u o.who n = agV s o.who n ∧ agS u o.who n = agS s o.who n) ∧
          SameMem s u ∧
          (∀ j b, j < agBits o.who / w → b < nb → vActive s o j → ¬ badIdx s k j →
            (∀ m, j < m → m < agBits o.who / w → vActive s o m → ¬ badIdx s k m → addr s en k m ≠ addr s en k j) →
            agRead u o.who (addr s en k j + b) 1 = [BitVec.ofNat 8 (vLane s o.who w d j / 2 ^ (8 * b))]) ∧
          (∀ a, (∀ j, j < agBits o.who / w → vActive s o j → ¬ badIdx s k j → a < addr s en k j ∨ addr s en k j + nb ≤ a) →
            agRead u o.who a 1 = agRead s o.who a 1))
    loads (.vldl o) 0x20 .contiguous ∧ stores (.vstl o) 0x21 .contiguous ∧ loads (.vldls o) 0x22 .strided ∧
    stores (.vstls o) 0x23 .strided ∧ loads (.vgathl o) 0x24 .indexed ∧ stores (.vscatl o) 0x25 .indexed

/-- R119–R122: reductions, scans, ordering and compression complete and write their destinations alone. Where no lane of V[SRC1]
is poisoned, a reduction or scan of an integer TYPE combines the active lanes of each segment in the ring of its width; of a floating-point TYPE the lanes, the
identity at inactive ones, by the pairwise tree or in lane order; a sort, top-k or arg row takes the
keys that R122 prefers, with their lane numbers; VCOMPRESS packs the active lanes. -/
def Obligations.VectorReductions : Prop :=
  ∀ o : MOp,
    let imm := o.imm.toNat
    let t := vTypeOf o
    let w := typeWidth t
    let d := o.dst.toNat
    let n := agBits o.who / w
    let rop := iOpx imm % 8
    let good (s : State) : Prop := ∀ i, i < n → ¬ vBad s o.who w o.src1.toNat i
    let fold (s : State) (l : List Nat) : Nat :=
      (l.map (vLane s o.who w o.src1.toNat)).foldl (fun a b => (ropApply t rop .rne a b).1) (ropIdentity t rop)
    let does (i : Instr) (opc : Nat) (dst : Nat → Prop) (p : State → State → Prop) : Prop :=
      ∀ s en, ready s o.who (mkWord opc 2 o) = some en →
        Does i s (fun u' => ∃ u, Completed o.who en u u' ∧ OnlyV o.who dst s u ∧ (good s → p s u))
    let pair (k : Nat) : Prop := k = d ∨ k = d + 1
    (fpOfType t = none → does (.vred o) 0x40 (fun k => k = d) (fun s u => ∀ j, j < n →
      vLane u o.who w d j = match (segsOf s o)[j]? with | some g => fold s (activeIn s o g) | none => 0)) ∧
    (fpOfType t = none → does (.vscan o) 0x41 (fun k => k = d) (fun s u => ∀ g ∈ segsOf s o, ∀ j, j < g.2 →
      vLane u o.who w d (g.1 + j) = fold s (activeIn s o (g.1, j + 1)))) ∧
    (fpOfType t ≠ none →
      let op := ropApply t rop (rmOf (iRm imm) .rne)
      let lane (s : State) (i : Nat) : Nat := if (agP s o.who o.pred.toNat).getLsbD i then vLane s o.who w o.src1.toNat i
        else ropIdentity t rop
      does (.vred o) 0x40 (fun k => k = d) (fun s u => ∀ j, j < n → vLane u o.who w d j = match (segsOf s o)[j]? with
        | some g => (treeReduce op 9 ((List.range g.2).map (fun i => lane s (g.1 + i))) 0).1 % 2 ^ w
        | none => 0) ∧
      does (.vscan o) 0x41 (fun k => k = d) (fun s u => ∀ g ∈ segsOf s o, ∀ j, j < g.2 → vLane u o.who w d (g.1 + j) =
        ((List.range j).foldl (fun a i => (op a (lane s (g.1 + i + 1))).1) (lane s g.1)) % 2 ^ w)) ∧
    does (.vsort o) 0x42 pair (fun s u => ∀ g ∈ segsOf s o,
      Ordered s u o (!o.imm.getLsbD 6) g g.1 (activeIn s o g).length g.2) ∧
    does (.vtopk o) 0x43 pair (fun s u => ∀ g ∈ segsOf s o,
      Ordered s u o (o.imm.getLsbD 6) g g.1 (min (imm / 256 % 256) (activeIn s o g).length) g.2) ∧
    does (.varg o) 0x44 pair (fun s u => ∀ j g, (segsOf s o)[j]? = some g →
      Ordered s u o (o.imm.getLsbD 6) g j (min 1 (activeIn s o g).length) 1) ∧
    does (.vcompress o) 0x45 (fun k => k = d) (fun s u => ∀ j, j < n →
      vLane u o.who w d j = match (activeIn s o (0, n))[j]? with | some i => vLane s o.who w o.src1.toNat i | none => 0)

/-- R104–R107, R126, R138: MMA. In every format, with aligned operands in range, it completes and changes the guarded-on rows
alone. In the integer formats, where nothing is poisoned and no error waits to be found, an accumulator element (i, c) of each
guarded-on row gains the sum of the products of row i of X and column c of W, in the ring of 32 bits. -/
def Obligations.MatrixMultiply : Prop :=
  ∀ (o : MOp) (e : Fin 256), o.who = .engine e → ∀ s en, ready s o.who (mkWord 0x00 3 o) = some en →
    let imm := o.imm.toNat
    let f := imm / 2 ^ 31
    let len := 32 * (imm / 2 ^ 26 % 32 + 1)
    let rows := imm / 2 ^ 19 % 128 + 1
    let zero := o.imm.getLsbD 18
    let x := en.s1.toNat
    let w := en.s2.toNat
    let kb := imm / 2 ^ 26 % 32 + 1
    (x % 64 = 0 → w % 64 = 0 → x + denseBytes rows kb (mmaFmt f).1 ≤ 2 ^ 22 → w + denseBytes 128 kb (mmaFmt f).2 ≤ 2 ^ 22 →
      Does (.mma o) s (fun t => ∃ u, Completed o.who en u t ∧ OnlyAcc e o.dst.toNat s u ∧ Counted o e s u ∧
        ∀ i c, i < 128 → c < 128 → ¬ (i < rows ∧ vActive s o i) → acc u e o.dst.toNat i c = acc s e o.dst.toNat i c)) ∧
    (f = 3 ∨ f = 4 → x % 64 = 0 → w % 64 = 0 → x + rows * len ≤ 2 ^ 22 → w + 128 * len ≤ 2 ^ 22 →
    (s.eng e.val).sound →
    Does (.mma o) s (fun t => ∃ u, Completed o.who en u t ∧ OnlyAcc e o.dst.toNat s u ∧ Counted o e s u ∧ ∀ i c, i < 128 → c < 128 →
      (¬ (i < rows ∧ vActive s o i) → acc u e o.dst.toNat i c = acc s e o.dst.toNat i c) ∧
      (i < rows → vActive s o i → acc u e o.dst.toNat i c =
          BitVec.ofInt 32 ((if zero then 0 else (acc s e o.dst.toNat i c).toInt) +
            ((List.range len).map (fun k => byteAt s e (decide (f = 3)) (x + i * len + k) * byteAt s e true (w + c * len + k))).sum))))

/-- R104, R108, R131: MMAS: the same in every format, and in the integer formats the same with K = 128, and W's column c taken
from the 8 × 8 blocks that the tile's map names; the absent ones are zero. -/
def Obligations.SparseMatrixMultiply : Prop :=
  ∀ (o : MOp) (e : Fin 256), o.who = .engine e → ∀ s en, ready s o.who (mkWord 0x01 3 o) = some en →
    let imm := o.imm.toNat
    let f := imm / 2 ^ 31
    let rows := imm / 2 ^ 19 % 128 + 1
    let zero := o.imm.getLsbD 18
    let x := en.s1.toNat
    let w := en.s2.toNat
    let has (br bc : Nat) : Bool := (look 0 (s.eng e.val).ts (w + (16 * br + bc) / 8)).getLsbD ((16 * br + bc) % 8)
    let before (br bc : Nat) : Nat := ((List.range 256).filter (fun b => decide (b < 16 * br + bc) && has (b / 16) (b % 16))).length
    let el (c k : Nat) : Int := if has (c / 8) (k / 8)
      then byteAt s e true (w + 32 + 64 * before (c / 8) (k / 8) + 8 * (c % 8) + k % 8) else 0
    (x % 64 = 0 → w % 64 = 0 → x + denseBytes 128 4 (mmaFmt f).1 ≤ 2 ^ 22 →
      w + sparseBytes (mbstCode f) (leNat ((s.eng e.val).tsRead w 32)) ≤ 2 ^ 22 →
      Does (.mmas o) s (fun t => ∃ u, Completed o.who en u t ∧ OnlyAcc e o.dst.toNat s u ∧ Counted o e s u ∧
        ∀ i c, i < 128 → c < 128 → ¬ (i < rows ∧ vActive s o i) → acc u e o.dst.toNat i c = acc s e o.dst.toNat i c)) ∧
    (f = 3 ∨ f = 4 → x % 64 = 0 → w % 64 = 0 → x + 128 * 128 ≤ 2 ^ 22 → w + 32 + 64 * before 16 0 ≤ 2 ^ 22 →
    (s.eng e.val).sound →
    Does (.mmas o) s (fun t => ∃ u, Completed o.who en u t ∧ OnlyAcc e o.dst.toNat s u ∧ Counted o e s u ∧ ∀ i c, i < 128 → c < 128 →
      (¬ (i < rows ∧ vActive s o i) → acc u e o.dst.toNat i c = acc s e o.dst.toNat i c) ∧
      (i < rows → vActive s o i → acc u e o.dst.toNat i c =
          BitVec.ofInt 32 ((if zero then 0 else (acc s e o.dst.toNat i c).toInt) +
            ((List.range 128).map (fun k => byteAt s e (decide (f = 3)) (x + i * 128 + k) * el c k)).sum))))

/-- R103, R104, R110, R111: moving accumulator rows. Each row completes and writes what it names alone. AZERO clears the
guarded-on rows; where nothing is poisoned and no error waits to be found, ALOAD fills them from the tile store and ASTORE
stores them in RAW32, the floating-point formats of OFMT without RND, and I8; AGET and APUT move half a row. -/
def Obligations.AccumulatorMoves : Prop :=
  ∀ (o : MOp) (e : Fin 256), o.who = .engine e →
    let imm := o.imm.toNat
    let d := o.dst.toNat
    let f := imm / 2 ^ 31
    let rows := imm / 2 ^ 19 % 128 + 1
    let len := 16 * ofmtBits f
    let pitch (en : Entry) : Nat := if en.s2 = 0 then len else en.s2.toNat
    let fits (s : State) (en : Entry) : Prop := en.s1.toNat % 64 = 0 ∧ (en.s2 ≠ 0 → en.s2.toNat % 64 = 0 ∧ len ≤ en.s2.toNat) ∧
      ∀ i, i < rows → vActive s o i → en.s1.toNat + i * pitch en + len ≤ 2 ^ 22
    (∀ s en, ready s o.who (mkWord 0x08 3 o) = some en →
      Does (.azero o) s (fun t => ∃ u, Completed o.who en u t ∧ OnlyAcc e d s u ∧ ∀ i c, i < 128 → c < 128 →
        (vActive s o i → acc u e d i c = 0 ∧ nHas (accKey d i c) (u.eng e.val).ap = false) ∧
        (¬ vActive s o i → acc u e d i c = acc s e d i c))) ∧
    (∀ s en, ready s o.who (mkWord 0x09 3 o) = some en → fits s en →
      Does (.aload o) s (fun t => ∃ u, Completed o.who en u t ∧ OnlyAcc e d s u ∧ Counted o e s u ∧ ∀ i c, i < 128 → c < 128 →
        (¬ (i < rows ∧ vActive s o i) → acc u e d i c = acc s e d i c) ∧
        ((s.eng e.val).sound → i < rows → vActive s o i → acc u e d i c =
          if f = 0 then BitVec.ofNat 32 (leNat ((s.eng e.val).tsRead (en.s1.toNat + i * pitch en + 4 * c) 4))
          else BitVec.ofNat 32 (65536 * leNat ((s.eng e.val).tsRead (en.s1.toNat + i * pitch en + 2 * c) 2))))) ∧
    (∀ s en, ready s o.who (mkWord 0x0A 3 o) = some en → fits s en → f ≠ 5 → f ≠ 6 →
      Does (.astore o) s (fun t => ∃ u, Completed o.who en u t ∧ Counted o e s u ∧
        (∀ b i c, acc u e b i c = acc s e b i c) ∧ (∀ n, agS u o.who n = agS s o.who n ∧ agV u o.who n = agV s o.who n) ∧
        SameMem s u ∧
        ((s.eng e.val).sound → o.imm.getLsbD 17 = false → ∀ i c, i < rows → c < 128 → vActive s o i →
          let b := ofmtBits f / 8
          let x := acc s e d i c
          let fp (g : FpFmt) : Nat := (fpConvVal g .rne (o.imm.getLsbD 30) (fp32Flushed x.toNat)).1
          (u.eng e.val).tsRead (en.s1.toNat + i * pitch en + b * c) b = leBytes b
            (match f with
             | 0 => x.toNat | 1 => fp .bf16 | 2 => fp .fp16 | 3 => fp .e4m3 | 4 => fp .e5m2
             | _ => ((if o.imm.getLsbD 30 then max (-128) (min 127 x.toInt) else x.toInt) % 256).toNat)) ∧
        (∀ a, (∀ i, i < rows → vActive s o i → a < en.s1.toNat + i * pitch en ∨ en.s1.toNat + i * pitch en + len ≤ a) →
          (u.eng e.val).tsRead a 1 = (s.eng e.val).tsRead a 1))) ∧
    (∀ s en, ready s o.who (mkWord 0x0A 3 o) = some en → fits s en → f = 5 ∨ f = 6 →
      let sc := en.s1.toNat + rows * pitch en
      (∀ i, i < rows → vActive s o i → sc + 4 * i + 4 ≤ 2 ^ 22) →
      Does (.astore o) s (fun t => ∃ u, Completed o.who en u t ∧ Counted o e s u ∧
        (∀ b i c, acc u e b i c = acc s e b i c) ∧ (∀ n, agS u o.who n = agS s o.who n ∧ agV u o.who n = agV s o.who n) ∧
        SameMem s u ∧
        ∀ a, (∀ i, i < rows → vActive s o i → (a < en.s1.toNat + i * pitch en ∨ en.s1.toNat + i * pitch en + len ≤ a) ∧
            (a < sc + 4 * i ∨ sc + 4 * i + 4 ≤ a)) →
          (u.eng e.val).tsRead a 1 = (s.eng e.val).tsRead a 1)) ∧
    (∀ s en, ready s o.who (mkWord 0x0B 3 o) = some en →
      let v := senseChecks s e.val (checkRows o.src1.toNat (imm % 128) ((List.range 4).map (fun j => 4 * (imm / 128 % 2) + j)))
      Does (.aget o) s (fun t => ∃ u, Completed o.who en u t ∧ OnlyV o.who (fun k => k = d) v u ∧ ∀ j, j < 64 →
        let key := accKey o.src1.toNat (imm % 128) (64 * (imm / 128 % 2) + j)
        (nHas key (v.eng e.val).ap = false → vLane u o.who 32 d j =
          (acc s e o.src1.toNat (imm % 128) (64 * (imm / 128 % 2) + j)).toNat ∧ ¬ vBad u o.who 32 d j) ∧
        (nHas key (v.eng e.val).ap = true → vBad u o.who 32 d j))) ∧
    (∀ s en, ready s o.who (mkWord 0x0C 3 o) = some en →
      Does (.aput o) s (fun t => ∃ u, Completed o.who en u t ∧ OnlyAcc e d s u ∧ ∀ i c, i < 128 → c < 128 →
        let here := i = imm % 128 ∧ c / 64 = imm / 128 % 2
        (¬ here → acc u e d i c = acc s e d i c) ∧
        (here → ¬ vBad s o.who 32 o.src1.toNat (c % 64) →
          acc u e d i c = BitVec.ofNat 32 (vLane s o.who 32 o.src1.toNat (c % 64)) ∧ nHas (accKey d i c) (u.eng e.val).ap = false) ∧
        (here → vBad s o.who 32 o.src1.toNat (c % 64) → nHas (accKey d i c) (u.eng e.val).ap = true)))

/-- R194, R196, R211: GLD copies memory to scratch, a byte as a load of the unit finds it, and marks the lines that arrive
poisoned; GST puts scratch bytes into the unit's store buffer behind its earlier stores, with the poison of their rows, and
sets POISON where there is any. Where the addresses are in order and reach memory in pieces of whole lines. -/
def Obligations.KernelBlockCopies : Prop :=
  ∀ (o : MOp) (x : Fin 384), o.who = .unit x → ∀ s en t l,
    let n := en.s2.toNat
    let a := gAddr en
    gFault en = none →
    (ready s o.who (mkWord 0x00 4 o) = some en → agGuard s o.who (mkWord 0x00 4 o) = true →
      kTranslate s x.val en.s1.toNat n .r = (t, .ok l) → (∀ p ∈ l, p.1 % 64 = 0 ∧ p.2 % 64 = 0) →
      Does (.gld o) s (fun u' => ∃ u bs, Completed o.who en u u' ∧ SameMem t u ∧
        Loaded t (t.unit x.val).earlier (t.unit x.val).stores l bs ∧
        (∀ k, agS u o.who k = agS s o.who k ∧ agV u o.who k = agV s o.who k) ∧
        (∀ k, k < n → agRead u o.who (a + k) 1 = [bs.getD k 0]) ∧
        (∀ q ∈ (l.flatMap (fun p => linePieces p.1 p.2)).zipIdx,
          agPois u o.who (a + 64 * q.2) 64 = (kBytes t x.val [q.1]).2) ∧
        (∀ b, b < a ∨ a + n ≤ b → agRead u o.who b 1 = agRead s o.who b 1))) ∧
    (ready s o.who (mkWord 0x01 4 o) = some en → agGuard s o.who (mkWord 0x01 4 o) = true →
      kTranslate s x.val en.s1.toNat n .w = (t, .ok l) →
      Does (.gst o) s (fun u' => ∃ u, Completed o.who en u u' ∧ SameMem t u ∧
        (∀ k, agS u o.who k = agS s o.who k) ∧ (∀ b, agRead u o.who b 1 = agRead s o.who b 1) ∧
        let v := agSense t o.who a n
        let w := kStore v x.val l (agRead v o.who a n) (fun k => agPois v o.who (a + k) 1)
        u = if agPois v o.who a n then markPoison w x.val else w))

/-- R194, R196, R206: VGATHM loads each active lane from its address and marks the lanes that arrive poisoned; VSCATM stores
them in lane order, with their poison; VAMO performs one atomic on each, in some order. A lane whose index is poisoned is
left out and sets POISON. Where every address is aligned and reaches memory. -/
def Obligations.KernelGatherScatter : Prop :=
  ∀ (o : MOp) (x : Fin 384), o.who = .unit x → ∀ s en t ps (opc : Nat),
    let imm := o.imm.toNat
    let n := if opc = 5 then 2 * 2 ^ (imm / 2 ^ 29 % 4) else typeWidth (imm / 2 ^ 31) / 8
    let lanes := kLanes s o.who en (8 * n)
    let good := kGood lanes (8 * n)
    let reach (acc : Acc) : Prop := ready s o.who (mkWord opc 4 o) = some en ∧ good.2 = true ∧
      kReach x.val n acc (good.1.map Prod.snd) s = some (t, ps)
    let value (j : Nat) : Nat := vLane s o.who (8 * n) o.dst.toNat j
    let marked (j : Nat) : Bool := (laneAt (agLanes s o.who (8 * n) o.dst.toNat) j).pois
    (opc = 2 → reach .r → Does (.vgathm o) s (fun u' => ∃ v u, Traffic t v ∧ Completed o.who en u u' ∧
      OnlyV o.who (fun k => k = o.dst.toNat) v u ∧
      Lanes s o.who (8 * n) o.dst.toNat false (vActive s o)
        (fun j y => ∃ (k va : Nat) (l : List (Nat × Nat)) (bs : List Byte), good.1[k]? = some (j, va) ∧ ps[k]? = some l ∧
          Loaded t (t.unit x.val).earlier (t.unit x.val).stores l bs ∧ y = leNat bs % 2 ^ (8 * n))
        (fun j => ∀ (k va : Nat) (l : List (Nat × Nat)), good.1[k]? = some (j, va) → ps[k]? = some l → (kBytes t x.val l).2 = true) u)) ∧
    (opc = 3 → reach .w → Does (.vscatm o) s (fun u' => ∃ u, Completed o.who en u u' ∧
      let v := forAll (good.1.zip ps) (fun q s => kStore s x.val q.2 (leBytes n (value q.1.1)) (fun _ => marked q.1.1)) t
      OnlyV o.who (fun _ => False) (if lanes.any (fun q => q.2.2 || marked q.1) then markPoison v x.val else v) u)) ∧
    (opc = 5 → reach .a →
      let pas := ps.map (fun l => (l.headD (0, 0)).1)
      let v := drainUnit t x.val
      (∀ pa ∈ pas, atomicReady t pa n = true) →
      Does (.vamo o) s (fun u' => ∃ (u : State) (m : Nat) (order : List ((Nat × Nat) × Nat)), Completed o.who en u u' ∧
        order.Perm (good.1.zip pas) ∧
        let w := forAll order (fun q s =>
          let r := performAtomic s (unitObs v x.val) q.2 n (imm / 2 ^ 31) (value q.1.1) 0 (marked q.1.1)
          if r.2 = none ∨ marked q.1.1 = true then markPoison r.1 x.val else r.1) { v with nonce := m }
        OnlyV o.who (fun _ => False) (if lanes.any (fun q => q.2.2) then markPoison w x.val else w) u))

/-- R92, R206: AMO performs its operation on memory in place, behind the unit's own stores, and with RET gives the old
value; on poisoned memory it changes nothing, and with RET raises 0x20, without it sets POISON. Where the address is
aligned and reaches memory that is ready for it. -/
def Obligations.KernelAtomic : Prop :=
  ∀ (o : MOp) (x : Fin 384), o.who = .unit x → ∀ s en t pa k,
    let imm := o.imm.toNat
    let n := 2 * 2 ^ (imm / 2 ^ 29 % 4)
    let v := drainUnit t x.val
    let old := leNat (memRead v pa n)
    let w := (performAtomic v (unitObs v x.val) pa n (imm / 2 ^ 31) en.s2.toNat en.sd.toNat false).1
    ready s o.who (mkWord 0x04 4 o) = some en → agGuard s o.who (mkWord 0x04 4 o) = true → en.s1.toNat % n = 0 →
    kTranslate s x.val en.s1.toNat n .a = (t, .ok [(pa, k)]) → atomicReady t pa n = true →
    (pa % n = 0 → pa < v.uBytes → inMirror v pa = false → memPoisoned v pa n = false →
      Does (.amo o) s (fun u' => ∃ u, Completed o.who en u u' ∧
        (∀ a, memByte u a = if pa ≤ a ∧ a < pa + n
          then (leBytes n (atomicOp (imm / 2 ^ 31) n old en.s2.toNat en.sd.toNat)).getD (a - pa) 0 else memByte v a) ∧
        ∀ j, agS u o.who j = if o.imm.getLsbD 28 = true ∧ j = o.dst.toNat ∧ j ≠ 0 then BitVec.ofNat 64 old else agS s o.who j)) ∧
    (memPoisoned v pa n = true → SameMem v w ∧
      (o.imm.getLsbD 28 = true → exec (.amo o) s = .next (kernelExc w x.val 0x20)) ∧
      (o.imm.getLsbD 28 = false → Does (.amo o) s (Completed o.who en (markPoison w x.val))))

/-- R100, R138–R140, R195: MXDOT adds to each active lane below R the dot product of the blocks of X and of row j of W, group
by group in some order; where X, the row or the lane is poisoned the lane is marked; other lanes keep their values. -/
def Obligations.KernelDotProduct : Prop :=
  ∀ (o : MOp) (x : Fin 384), o.who = .unit x → ∀ s en,
    let imm := o.imm.toNat
    let fmt := (mmaFmt (imm / 2 ^ 31)).1
    let nb := imm / 2 ^ 26 % 32 + 1
    let r := imm / 2 ^ 21 % 32 + 1
    let xa := en.s1.toNat % 0x80000
    let wa := en.s2.toNat % 0x80000
    let v := agSense (agSense s o.who xa (denseBytes 1 nb fmt)) o.who wa (denseBytes r nb fmt)
    let xv := denseVec o.who v xa 1 nb fmt 0
    let wv (j : Nat) : OpVec := denseVec o.who v wa r nb fmt j
    ready s o.who (mkWord 0x00 3 o) = some en → xa % 64 = 0 → wa % 64 = 0 →
    xa + denseBytes 1 nb fmt ≤ 0x80000 → wa + denseBytes r nb fmt ≤ 0x80000 →
    Does (.mxdot o) s (fun u' => ∃ u, Completed o.who en u u' ∧ OnlyV o.who (fun k => k = o.dst.toNat) v u ∧
      ∀ j, j < 32 →
        let bad : Prop := vBad s o.who 32 o.dst.toNat j ∨ xv.pois = true ∨ (wv j).pois = true
        (j < r → vActive s o j → ¬ bad → (∃ order : List Nat, order.Perm (List.range nb) ∧
          vLane u o.who 32 o.dst.toNat j = (mmaElement false false false (fun _ => .rne) order xv (wv j)
            (vLane s o.who 32 o.dst.toNat j)).1) ∧ ¬ vBad u o.who 32 o.dst.toNat j) ∧
        (j < r → vActive s o j → bad → vBad u o.who 32 o.dst.toNat j) ∧
        (¬ (j < r ∧ vActive s o j) → vLane u o.who 32 o.dst.toNat j = vLane s o.who 32 o.dst.toNat j ∧
          (vBad u o.who 32 o.dst.toNat j ↔ vBad s o.who 32 o.dst.toNat j)))

/-- R144, R183, R188, R197, R218: an invocation of a provided kernel. The run `r` has read what the kernel needs, one access
after the other, under the launch's ASN. Where every access was translated with its permission, lay in the unified range and
had to wait for nothing, and no tile of its input was malformed, the kernel performs the effects that are left, in some order,
and ends: its unit is free and holds no store. Where an access is refused, faults or must wait, nothing of it is performed:
the launch aborts, the invocation is held, or it waits for the tile or the lock. A unit that runs no invocation of the kernel,
or holds one at a fault, does nothing. -/
def Obligations.ProvidedKernels : Prop :=
  ∀ (s : State) (u : Fin 384),
    ∀ p ∈ [(Instr.fill u, 0x001, planFill), (.copy u, 0x002, planCopy), (.checksum u, 0x003, planChecksum),
      (.gather u, 0x010, planGather), (.scatter u, 0x011, planScatter), (.segReduce u, 0x020, planSegReduce),
      (.spmvCsrt u, 0x030, planSpmv), (.embedBag u, 0x040, planEmbedBag), (.histogram u, 0x050, planHistogram),
      (.segTopk u, 0x060, planSegTopk), (.mxPack u, 0x070, planMx false), (.mxUnpack u, 0x071, planMx true),
      (.mbstCompress u, 0x072, planMbst true), (.mbstDecompress u, 0x073, planMbst false), (.mxGemv u, 0x080, planGemv)],
    (∀ r₀, Runs s u p.2.1 r₀ →
      let r := p.2.2 r₀
      let early (k : Nat) (el : Option Nat) : Bool := r.invoc.hasDone k el
      (r.stop = none → Does p.1 s (fun t => (t.unit u.val).inv = none ∧ (t.unit u.val).stores = [] ∧
        ∃ (order : List (KOp × Nat)) (q : State × Bool),
          order.Perm (r.ops.zipIdx.filter (fun x => x.1.plain || !early x.2 none)) ∧
          q = order.foldl (fun a x =>
            let k := kApply a.1 r (unitObs r.st u.val) (fun el => !early x.2 (some el) || nHas (el / 8) a.1.poison) x.1
            (k.1, a.2 || k.2)) (r.st.fresh.2, r.bad) ∧
          t = endInvoc (if q.2 then markPoison q.1 u.val else q.1) u.val)) ∧
      (∀ c, r.stop = some (.exc c) → exec p.1 s = .next (kernelExc r.st u.val c)) ∧
      (∀ va c pte lv acc, r.stop = some (.fault va c pte lv acc) → exec p.1 s = .next (holdInvoc r.st u.val va c pte lv acc)) ∧
      (∀ k, r.stop = some (.wait (some k)) → exec p.1 s = .next (noteWait s u.val k)) ∧
      (r.stop = some (.wait none) → exec p.1 s = .next s)) ∧
    ((∀ i, (s.unit u.val).inv = some i → i.kernel ≠ p.2.1 ∨ i.fault.isSome = true) → exec p.1 s = .next s)

/-- R202: what the byte kernels and HISTOGRAM do: FILL writes its pattern over the granule, COPY the source's bytes,
CHECKSUM adds the sum of the granule's words modulo 2^64 to its target by one atomic, HISTOGRAM adds one to the bin of
each element. Where everything they read is free of poison. The first three stop nowhere but at their accesses, and an access
within one page succeeds where the page is translated with the permission, lies in the unified range and makes nothing wait. -/
def Obligations.KernelEffects : Prop :=
  ∀ (s : State) (u : Fin 384) (r : KRun) (id : Nat), Runs s u id r →
    (∀ va n acc t x, pagePieces va n = [(va, n)] →
      translate s r.cc [16 + dieOfUnit u.val, r.cc] r.f.asn va acc true = (t, .ok x) → region t (x.pa va) = .unified →
      memWaits t (x.pa va) n = false → (acc = .a → atomicReady t (x.pa va) n = true) → (r.need va n acc).stop = none) ∧
    (planFill r).stop = (r.need r.va r.len .w).stop ∧
    (planCopy r).stop = ((r.need ((r.arg 0 + r.off) % 2 ^ 64) r.len .r).need r.va r.len .w).stop ∧
    (planChecksum r).stop = ((r.need r.va r.len .r).need (r.arg 0) 8 .a).stop ∧
    ((planFill r).stop = none → (planFill r).ops =
      [.write r.va ((List.range r.len).map (fun i => (BitVec.ofNat 8 (r.arg 0 / 256 ^ (i % r.arg 1)), false)))]) ∧
    (let from_ := (r.arg 0 + r.off) % 2 ^ 64
     (planCopy r).stop = none → (planCopy r).ops = [.write r.va ((r.need from_ r.len .r).rd from_ r.len)]) ∧
    (let data := (r.need r.va r.len .r).rd r.va r.len
     (planChecksum r).stop = none → pbBad data = false → (planChecksum r).ops =
      [.atomic (r.arg 0) 8 0x0 (((List.range (r.len / 8)).map (fun i => pbNat (pbEl data 8 i))).sum % 2 ^ 64) false]) ∧
    ((planHistogram r).stop = none → ∀ op ∈ (planHistogram r).ops, ∃ at_, op = .atomic at_ 8 0x0 1 false ∧
      (at_ = r.arg 3 ∨ ∃ b, b < r.arg 1 ∧ at_ = (r.arg 0 + 8 * b) % 2 ^ 64))

/-- R147, R153–R161, R257, R266: the events of shunters and Booking units. A car is issued only while the stream may
have more in flight; a car that completes writes its bytes and then counts; the last one frees the slot; a segment holds
at most sixteen translations; a pause completes with its record; an invalidation is acknowledged where no car in flight
uses what it names. -/
def Obligations.ShunterEvents : Prop :=
  ∀ (s : State) (st : Fin 576),
    let t := s.stream st.val
    (t.hold ≠ 0 ∨ streamLimit s st.val ≤ t.inFlight ∨ issuable t = none → exec (.carIssue st) s = .next s) ∧
    (∀ i d, t.hold = 0 → t.inFlight < streamLimit s st.val → issuable t = some i → t.slots[i]? = some d →
      (descF d.words).remote = false → d.faultAt = none →
      let d' := { d with issued := d.issued + 1, inflight := nIns d.issued d.inflight }
      Does (.carIssue st) s (OnlyStream st.val { t with slots := t.slots.set i d' } s)) ∧
    (∀ car d rest, t.slots = d :: rest → nHas car d.inflight = true → (descF d.words).remote = false →
      carWaits s d car = false → d.counted = car → d.done = [] → d.ended = none → d.recFault = none →
      (∀ x ∈ d :: rest, x.phase = .running) → (∀ e, streamEngine st.val = some e → (s.eng e).state ≠ .resetting) →
      let f := descF d.words
      let u := readCar s st.val d car
      let v := carApply u st.val d (carOut u st.val d car) (d.landsNow u st.val car)
      let counts (w : State) : Prop := f.ctEn = true → (s.eng f.ctEngine).migrating = none →
        (s.eng f.ctEngine).unplaced = false → asleep s f.ctEngine = false → ∀ k,
          (w.eng f.ctEngine).tcVal k = (s.eng f.ctEngine).tcVal k + BitVec.ofNat 32 (if k = f.ctTc then f.ctInc else 0)
      (car + 1 < f.cars → Does (.carComplete st ⟨0, car⟩) s (fun w => w.mem = v.mem ∧ w.poison = v.poison ∧ counts w ∧
        (w.stream st.val).endedSeq = t.endedSeq ∧ ∃ d', (w.stream st.val).slots = d' :: rest ∧ d'.words = d.words ∧
          d'.seq = d.seq ∧ d'.counted = car + 1 ∧ d'.inflight = nDel car d.inflight ∧ d'.done = [])) ∧
      (car + 1 = f.cars → f.record = 0 → rest = [] → Does (.carComplete st ⟨0, car⟩) s (fun w => w.mem = v.mem ∧
        w.poison = v.poison ∧ counts w ∧ (w.stream st.val).endedSeq = d.seq ∧ (w.stream st.val).slots = []))) ∧
    (∀ i d c, pausedDue t = some i → t.slots[i]? = some d → d.phase = .pausing c → d.faultAt = none → t.hold ≠ 0 →
      let f := descF d.words
      let q := tryRecord s (streamCc st.val) f.asn f.record (streamObs st.val)
        (recordBytes d.seq 2 c (d.flags false) d.counted (f.progress d.counted))
      let paused (w : State) : Prop :=
        (w.stream st.val).slots = t.slots.set i { d with phase := .paused c, xlats := [] }
      (f.record = 0 → Does (.pausedRecordWrite st) s (fun w => paused w ∧ w.mem = s.mem)) ∧
      (f.record ≠ 0 → q.2 = .done → Does (.pausedRecordWrite st) s (fun w => paused w ∧ w.mem = q.1.mem))) ∧
    (segmentDue t = none → exec (.segmentTranslate st) s = .next s) ∧
    (∀ i d, segmentDue t = some i → t.slots[i]? = some d → d.phase = .running →
      let r := formSegment s st.val d d.segHi
      r.2.xlats.length ≤ 16 ∧ d.segHi ≤ r.2.hi ∧
      (r.2.fault = none → Does (.segmentTranslate st) s (fun w => (w.stream st.val).slots = t.slots.set i
        { d with segHi := r.2.hi, xlats := r.2.xlats, maps := r.2.maps, faultAt := none })) ∧
      (∀ pf, r.2.fault = some pf → pf.car = d.segHi → d.counted < (descF d.words).cars →
        Does (.segmentTranslate st) s (fun w => ∃ d', (w.stream st.val).slots[i]? = some d' ∧
          d'.phase = .pausing pf.cause ∧ d'.faultAt = some pf))) ∧
    (∀ (cc : Fin 4) (q : WalkReq),
      let acc : Acc := if q.exec then .x else if q.write then .w else .r
      let r := translate s cc.val [cc.val] q.asn.toNat q.va.toNat acc (decide (q.kind = 9))
      (q.kind = 1 → ∀ k : Fin 576, k.val = 2 * (q.engine % 256) + q.unit % 2 →
        exec (.bookingPageWalk cc q) s = exec (.segmentTranslate k) s) ∧
      (q.kind = 2 → ∀ k : Fin 576, k.val = 512 + 16 * cc.val + q.unit % 16 →
        exec (.bookingPageWalk cc q) s = exec (.segmentTranslate k) s) ∧
      (q.kind ≠ 1 → q.kind ≠ 2 → ∀ x, r.2 = .ok x → exec (.bookingPageWalk cc q) s = .next r.1) ∧
      (q.kind ≠ 1 → q.kind ≠ 2 → ∀ a p l, r.2 = .fault a p l → Does (.bookingPageWalk cc q) s (fun w =>
        let k := 4 * cc.val + domainOf r.1 cc.val q.asn.toNat
        w.mem = r.1.mem ∧ (∀ j, nHas j (r.1.siding k).unanswered = true → nHas j (w.siding k).unanswered = true) ∧
        ∃ id, nHas id (w.siding k).unanswered = true))) ∧
    (∀ cc : Fin 4, Does (.invalidationAck cc) s (fun w => w = { s with books := w.books } ∧ ∀ k,
      w.book k = (match (s.book k).cur with
        | some c => if ackReady s cc.val c then { s.book k with acks := nIns cc.val (s.book k).acks } else s.book k
        | none => s.book k)))

/-- R171–R173, R201, R343, R348: the rings of bulk shunters, launches, remote operations and collectives: what a doorbell,
a write of a control register and a reset leave, for a ring that holds nothing when it is reset. -/
def Obligations.RingControl : Prop :=
  ∀ s : State,
    (∀ (cc : Fin 4) (i : Fin 16),
      let k := 512 + 16 * cc.val + i.val
      let t := s.stream k
      (∀ p, Does (.bsDoorbell cc i p) s (OnlyStream k { t with ring := rung t.ring p.toNat } s)) ∧
      (t.slots = [] → Does (.bsCtrlReset cc i) s (OnlyStream k { t with ring := emptied t.ring } s)) ∧
      (∀ v, (bit v 33 = false → Does (.bsCtrlEnable cc i v) s (OnlyStream k { t with ring := controlled t.ring v } s)) ∧
        (bit v 33 = true → t.slots = [] → Does (.bsCtrlEnable cc i v) s
          (OnlyStream k { t with ring := emptied (controlled t.ring v) } s)))) ∧
    (∀ (cc r : Fin 4),
      let k := 4 * cc.val + r.val
      let only (x : Ring) (w : State) : Prop := w = { s with clRings := w.clRings } ∧ w.clRing k = x ∧
        ∀ j, j ≠ k → w.clRing j = s.clRing j
      (∀ p, Does (.clDoorbell cc r p) s (only (rung (s.clRing k) p.toNat))) ∧
      (ringLaunches s k = [] → Does (.clCtrlReset cc r) s (only (emptied (s.clRing k)))) ∧
      (∀ v, (bit v 33 = false → Does (.clCtrlEnable cc r v) s (only (controlled (s.clRing k) v))) ∧
        (bit v 33 = true → ringLaunches s k = [] → Does (.clCtrlEnable cc r v) s (only (emptied (controlled (s.clRing k) v)))))) ∧
    (∀ (tm : Fin 2) (r : Fin 8),
      let k := 8 * tm.val + r.val
      let only (x : Ring) (w : State) : Prop := w = { s with roRings := w.roRings } ∧ w.roRing k = x ∧
        ∀ j, j ≠ k → w.roRing j = s.roRing j
      (∀ p, Does (.roDoorbell tm r p) s (only (rung (s.roRing k) p.toNat))) ∧
      (ringRops s k = [] → Does (.roCtrlReset tm r) s (only (emptied (s.roRing k)))) ∧
      (∀ v, (bit v 33 = false → Does (.roCtrlEnable tm r v) s (only (controlled (s.roRing k) v))) ∧
        (bit v 33 = true → ringRops s k = [] → Does (.roCtrlEnable tm r v) s (only (emptied (controlled (s.roRing k) v)))))) ∧
    (∀ (tm : Fin 2) (r : Fin 4),
      let k := 4 * tm.val + r.val
      let only (x : Ring) (w : State) : Prop := w = { s with crRings := w.crRings } ∧ w.crRing k = x ∧
        ∀ j, j ≠ k → w.crRing j = s.crRing j
      (∀ p, Does (.crDoorbell tm r p) s (only (rung (s.crRing k) p.toNat))) ∧
      (ringColls s k = [] → Does (.crCtrlReset tm r) s (only (emptied (s.crRing k)))) ∧
      (∀ v, (bit v 33 = false → Does (.crCtrlEnable tm r v) s (only (controlled (s.crRing k) v))) ∧
        (bit v 33 = true → ringColls s k = [] → Does (.crCtrlEnable tm r v) s (only (emptied (controlled (s.crRing k) v)))))) ∧
    (∀ (cc : Fin 4) k ks r p, (s.ep (epDoorbell cc.val)).slots = k :: ks → doorbellOf k.payload = some (r, p) →
      Does (.doorbellTicket cc) s (fun w => (w.ep (epDoorbell cc.val)).slots = ks ∧ w.mem = s.mem ∧
        (r < 0x10 → w.clRings = s.clRings ∧ ∀ j, (w.stream j).ring =
          if j = 512 + 16 * cc.val + r then rung (s.stream j).ring p else (s.stream j).ring) ∧
        (0x10 ≤ r → w.streams = s.streams ∧ ∀ j, w.clRing j =
          if j = 4 * cc.val + (r - 0x10) then rung (s.clRing j) p else s.clRing j))) ∧
    (∀ (tm : Fin 2) k ks r p, (s.ep (epJunction tm.val)).slots = k :: ks → doorbellOf k.payload = some (r, p) →
      Does (.junctionDoorbellTicket tm) s (fun w => (w.ep (epJunction tm.val)).slots = ks ∧ w.mem = s.mem ∧
        (r < 8 → w.crRings = s.crRings ∧ ∀ j, w.roRing j = if j = 8 * tm.val + r then rung (s.roRing j) p else s.roRing j) ∧
        (8 ≤ r → w.roRings = s.roRings ∧ ∀ j, w.crRing j =
          if j = 4 * tm.val + (r - 0x10) then rung (s.crRing j) p else s.crRing j)))

/-- R146, R147, R171, R173, R180, R181, R343, R344, R348, R349: a ring takes its next entry: one that passes the checks is
accepted with the next sequence number of its ring, one that does not is refused and counted, its record written where it has one, and nothing else starts.
Where the entry and a group's own entry can be read, no fault of its ASN is held back, and the package accepts work. -/
def Obligations.RingEntries : Prop :=
  ∀ s : State, s.shut = false →
    (∀ (cc : Fin 4) (i : Fin 16) t bs,
      let k := 512 + 16 * cc.val + i.val
      let q := s.stream k
      let f := descF (wordsOf bs 16)
      let code := descCheck f t.pkg.feature q.ring.asn false (bulkCtOk t f.ctEngine f.asn)
      q.ring.open? = true → q.slots.length < 16 → q.hold = 0 → readEntry s cc.val q.ring 128 = (t, .ok bs) →
      backPressured t f.asn = false →
      (code = 0 → Does (.bulkRingEntryAccept cc i) s (fun w => w.mem = t.mem ∧ w.stream k = { q with
        ring := { q.ring with consumer := (q.ring.consumer + 1) % 2 ^ 32 }
        lastSeq := (q.lastSeq + 1) % 2 ^ 64
        slots := q.slots ++ [{ seq := (q.lastSeq + 1) % 2 ^ 64, words := wordsOf bs 16, born := t.nextKey }] })) ∧
      (code ≠ 0 → ∀ v, refusedRecord t cc.val (refusedAsn q.ring.asn f.asn) f.record (recordBytes 0 4 code 0 0 [0, 0, 0, 0, 0]) = some v →
        Does (.bulkRingEntryAccept cc i) s (fun w => w.mem = v.mem ∧ w.stream k = { q with ring := refusedOne q.ring }))) ∧
    (∀ (cc r : Fin 4) t bs,
      let k := 4 * cc.val + r.val
      let q := s.clRing k
      let f := launchF (wordsOf bs 16)
      let code := launchCheck t f q.asn (bulkCtOk t f.ctEngine f.asn)
      q.open? = true → (ringLaunches s k).length < 16 → readEntry s cc.val q 128 = (t, .ok bs) →
      backPressured t f.asn = false →
      (code = 0 → f.len ≠ 0 → Does (.launchRingEntryAccept cc r) s (fun w => w.mem = t.mem ∧
        w.clRing k = { q with consumer := (q.consumer + 1) % 2 ^ 32, seqLast := (q.seqLast + 1) % 2 ^ 64 } ∧
        w.launches = s.launches ++ [(s.nextKey,
          { cc := cc.val, engine := none, ring := k, seq := (q.seqLast + 1) % 2 ^ 64, words := wordsOf bs 16 })])) ∧
      (code ≠ 0 → ∀ v, refusedRecord t cc.val (refusedAsn q.asn f.asn) f.record (leBytes 8 0 ++ [4, BitVec.ofNat 8 code, 0, 0] ++
          leBytes 4 0 ++ leBytes 8 0 ++ leBytes 4 0 ++ leBytes 4 0xFFFFFFFF) = some v →
        Does (.launchRingEntryAccept cc r) s (fun w => w.mem = v.mem ∧ w.clRing k = refusedOne q ∧ w.launches = s.launches))) ∧
    (∀ (tm : Fin 2) (r : Fin 8) t bs,
      let k := 8 * tm.val + r.val
      let q := s.roRing k
      let f := ropF bs
      let code := ropCheck t f q.asn
      q.open? = true → (ringRops s k).length < 16 → pkgIdOk s.pkgId = true → termFailed s tm.val = false →
      readEntry s tm.val q 64 = (t, .ok bs) → backPressured t f.asn = false →
      (code = 0 → opsRefused t f.dst = false → Does (.remoteOpEntryAccept tm r) s (fun w => w.mem = t.mem ∧
        w.roRing k = { q with consumer := (q.consumer + 1) % 2 ^ 32, seqLast := (q.seqLast + 1) % 2 ^ 64 } ∧
        w.remOps = s.remOps ++ [{ tm := tm.val, ring := r.val, seq := (q.seqLast + 1) % 2 ^ 64, entry := bs, tag := s.opTag % 2 ^ 32, born := t.nextKey }] ∧
        ∃ u ∈ (w.path f.dst).unacked, u.frame.type = (if f.opc = 1 then 3 else 5) ∧ u.frame.addr = f.remote ∧
          u.frame.opTag = s.opTag % 2 ^ 32)) ∧
      (code ≠ 0 → ∀ v, refusedRecord t tm.val (refusedAsn q.asn f.asn) f.record (ropRecord 0 4 code 0 0) = some v →
        Does (.remoteOpEntryAccept tm r) s (fun w => w.mem = v.mem ∧ w.roRing k = refusedOne q ∧ w.remOps = s.remOps))) ∧
    (∀ (tm : Fin 2) (r : Fin 4) t bs ids rank,
      let k := 4 * tm.val + r.val
      let q := s.crRing k
      let f := collF (wordsOf bs 16)
      let ok := collOk t f q.asn ids.length
      q.open? = true → (ringColls s k).length < 16 → pkgIdOk s.pkgId = true → termFailed s tm.val = false →
      (s.fwOf tm.val).failed.testBit 3 = false → readEntry s tm.val q 128 = (t, .ok bs) → backPressured t f.asn = false →
      let blank : Coll := { tm := tm.val, ring := r.val, seq := 0, words := wordsOf bs 16, members := [], rank := 0 }
      let refuses (c : Nat) : Prop := ∀ v, refusedRecord t tm.val (refusedAsn q.asn f.asn) f.record
        (collRecord blank 0 4 c false 0xFFFF f.tag) = some v →
        Does (.collectiveEntryAccept tm r) s (fun w => w.mem = v.mem ∧ w.crRing k = refusedOne q ∧ w.colls = s.colls)
      groupWaits t f.group = false →
      (groupOf t f.group = none → refuses 0x61) ∧
      (groupOf t f.group = some (ids, rank) → ok = false → refuses 0x62) ∧
      (groupOf t f.group = some (ids, rank) → ok = true → lostRank t ids rank = none →
        Does (.collectiveEntryAccept tm r) s (fun w =>
          (w.crRing k).consumer = (q.consumer + 1) % 2 ^ 32 ∧ (w.crRing k).seqLast = (q.seqLast + 1) % 2 ^ 64)))

/-- R92, R182–R192, R198–R200, R204–R206, R350, R364: launches and their granules, cancelling, the kernel commands, and the
atomics that wait at their homes. -/
def Obligations.LaunchEvents : Prop :=
  ∀ s : State,
    (∀ k l, findLaunch s k = some l → l.aborting = none → l.rangeFault = none → s.holding = false →
      (∀ p ∈ l.pages, p.invalidated = false) →
      let f := launchF l.words
      let r := translate s l.cc [l.cc] f.asn (f.base + l.dealtTo) .r false
      (f.len ≤ l.dealtTo → exec (.pageDeal k) s = .next s) ∧
      (l.dealtTo < f.len → ∀ x, r.2 = .ok x → mayDeal r.1 l (pageTiles f x l.dealtTo (pageEnd f x)) = false → exec (.pageDeal k) s = .next r.1) ∧
      (l.dealtTo < f.len → ∀ x, r.2 = .ok x → mayDeal r.1 l (pageTiles f x l.dealtTo (pageEnd f x)) = true →
        Does (.pageDeal k) s (fun w => w.mem = r.1.mem ∧
        ∃ m, findLaunch w k = some m ∧ m.dealtTo = min f.len (x.vbase + x.size - f.base) ∧ m.running = l.running ∧
          m.pages = l.pages ++ [{ x := x, off := l.dealtTo }] ∧
          ∀ g, nHas g m.waiting = (nHas g l.waiting || (granules f l.dealtTo m.dealtTo).contains g))) ∧
      (l.dealtTo < f.len → ∀ a p v, r.2 = .fault a p v → Does (.pageDeal k) s (fun w =>
        ∃ m, findLaunch w k = some m ∧ m.dealtTo = l.dealtTo ∧ m.waiting = l.waiting ∧ m.rangeFault.isSome = true ∧
          m.paused = some 1))) ∧
    (∀ k off l pg (u : Fin 384), findLaunch s k = some l → pageAt l off = some pg →
      let f := launchF l.words
      let pa := pg.x.pa (f.base + off)
      unitOfPa s pa = some u.val → nHas off l.waiting = true → pg.invalidated = false → l.aborting = none →
      s.holding = false → memWaits s pa 64 = false → (s.stack (u.val / 32)).thermal < 3 → (s.unit u.val).inv = none →
      s.sig.moving ≠ some u.val → mayChoose s u.val k = true →
      Does (.invocationStart k off) s (fun w => w.mem = s.mem ∧
        (∃ i, (w.unit u.val).inv = some i ∧ i.launch = k ∧ i.granule = off ∧ i.kernel = f.kernel ∧ i.fault = none ∧
          i.pos = if f.kernel < 0x100 then 0 else (s.kernel (f.kernel - 0x100)).entry) ∧
        (∃ m, findLaunch w k = some m ∧ (∀ g, nHas g m.waiting = (nHas g l.waiting && g != off)) ∧
          ∀ g, nHas g m.running = (nHas g l.running || g == off)) ∧
        (∀ n, n < 32 → agS w (.unit u) n =
          if n = 1 then BitVec.ofNat 64 (f.base + off) else if n = 2 then BitVec.ofNat 64 (granuleLen f off)
          else if n = 3 then BitVec.ofNat 64 off else if n = 4 then BitVec.ofNat 64 u.val
          else if 8 ≤ n ∧ n < 16 then wordAt f.args (n - 8) else 0) ∧
        (∀ n i, n < 8 → i < 128 → (agP w (.unit u) n).getLsbD i = true))) ∧
    (∀ (cc r : Fin 4) v,
      ((∀ p ∈ s.launches, p.2.engine = none → p.2.ring = 4 * cc.val + r.val → p.2.seq ≠ v.toNat) →
        exec (.clCancel cc r v) s = .next s) ∧
      (∀ k l, s.launches = [(k, l)] → l.engine = none → l.ring = 4 * cc.val + r.val → l.seq = v.toNat →
        l.aborting = none → l.running ≠ [] → (∀ u ∈ s.units, ∀ i, u.2.inv = some i → i.fault = none) →
        Does (.clCancel cc r v) s (fun w => ∃ m, findLaunch w k = some m ∧ m.aborting = some 0x0C ∧ m.waiting = []))) ∧
    (∀ (tm : Fin 2) (r : Fin 4) v,
      ((∀ c ∈ s.colls, c.tm = tm.val → c.ring = r.val → c.seq ≠ v.toNat) → exec (.jnCancel tm r v) s = .next s) ∧
      (∀ c, s.colls = [c] → c.tm = tm.val → c.ring = r.val → c.seq = v.toNat → c.final = none → c.recFault = none →
        (collF c.words).record = 0 →
        Does (.jnCancel tm r v) s (fun w => w.colls = [] ∧ w.mem = s.mem ∧
          (w.crRing (4 * tm.val + r.val)).seqEnded = c.seq))) ∧
    (∀ (cc : Fin 4) (asn : Asn) (kn : BitVec 12) (ow : Asn),
      let wait (op own : Nat) : State :=
        { s with kCmds := s.kCmds ++ [(cc.val, op, kn.toNat, own, look 0 s.kAddr cc.val)] }
      (asn = 0 → exec (.cupKcmdInstall cc asn kn ow) s = .next (wait 1 ow.toNat) ∧
        exec (.cupKcmdRemove cc asn kn) s = .next (wait 2 0)) ∧
      (asn ≠ 0 → exec (.cupKcmdInstall cc asn kn ow) s = .next { s with kResult := put 0 s.kResult cc.val 9 } ∧
        exec (.cupKcmdRemove cc asn kn) s = .next { s with kResult := put 0 s.kResult cc.val 9 })) ∧
    (s.kCmds = [] → exec .cupKcmdComplete s = .next s) ∧
    (∀ cc op kn own a rest, s.kCmds = (cc, op, kn, own, a) :: rest → s.holding = false →
      let r := kernelCommand s op kn own a
      (kn < 0x100 ∨ 0x140 ≤ kn → r.result = 6) ∧
      (0x100 ≤ kn → kn < 0x140 → s.pkg.feature.testBit 4 = true → (∃ p ∈ s.launches, (launchF p.2.words).kernel = kn) →
        r.result = 5) ∧
      Does .cupKcmdComplete s (fun w => w.kCmds = rest ∧ look 0 w.kResult cc = r.result ∧ look 0 w.kBad cc = r.bad ∧
        w.mem = s.mem ∧ w.sig.logHead = s.sig.logHead + 1 ∧ (r.result ≠ 0 → w.kernels = s.kernels) ∧
        (∀ x, r.kernel = some x → ∀ j, w.kernel j = if j = kn - 0x100 then x else s.kernel j))) ∧
    (∀ k x, s.atomics = [(k, x)] → x.src = 0 → x.fault = none → x.discard = false → s.holding = false →
      (s.eng x.engine).migrating = none → (s.eng x.engine).unplaced = false → asleep s x.engine = false →
      let r := translate s (ccOfEngine x.engine) [ccOfEngine x.engine] x.asn x.va .a false
      ∀ y, r.2 = .ok y →
        let t := r.1
        let pa := y.pa x.va
        (atomicReady t pa x.size = true → memPoisoned t pa x.size = false → pa / 64 = (pa + x.size - 1) / 64 →
          pa + x.size ≤ t.uBytes → inMirror t pa = false → 0 < x.size →
          Does (.atomicPerform k) s (fun w => w.atomics = [] ∧
            (∀ a, memByte w a = if pa ≤ a ∧ a < pa + x.size then
              (leBytes x.size (atomicOp x.aop x.size (leNat (memRead t pa x.size)) x.op.toNat x.cmp.toNat)).getD (a - pa) 0
              else memByte t a) ∧
            (x.ret = true → (w.eng x.engine).tsRead x.local_ 8 = leBytes 8 (leNat (memRead t pa x.size))) ∧
            (x.ret = false → ∀ a, (w.eng x.engine).tsRead a 1 = (s.eng x.engine).tsRead a 1) ∧
            (w.eng x.engine).tcVal x.tc = (s.eng x.engine).tcVal x.tc + 1)) ∧
        (atomicReady t pa x.size = true → memPoisoned t pa x.size = true → Does (.atomicPerform k) s (fun w =>
          w.atomics = [] ∧ w.mem = t.mem ∧ (w.eng x.engine).cupPoison = true ∧
          (w.eng x.engine).tcVal x.tc = (s.eng x.engine).tcVal x.tc + 1))) ∧
    (∀ k x, s.atomics = [(k, x)] → x.src ≠ 0 → s.holding = false → atomicReady s x.va x.size = true →
      memPoisoned s x.va x.size = false → x.va / 64 = (x.va + x.size - 1) / 64 → x.va + x.size ≤ s.uBytes →
      inMirror s x.va = false → 0 < x.size →
      Does (.atomicPerform k) s (fun w => w.atomics = [] ∧ ∀ a, memByte w a = if x.va ≤ a ∧ a < x.va + x.size then
        (leBytes x.size (atomicOp x.aop x.size (leNat (memRead s x.va x.size)) x.op.toNat x.cmp.toNat)).getD (a - x.va) 0
        else memByte s a)) ∧
    (∀ ch : Fin 384, s.holding = false → spareOf s (ch.val / 32) = none → s.sig.moving = none ∨ s.sig.moving = some ch.val →
      ((s.unit ch.val).inv.isSome = true → exec (.cupolaSpareSwitch ch) s = .next { s with sig := { s.sig with moving := some ch.val } }) ∧
      ((s.unit ch.val).inv = none → Does (.cupolaSpareSwitch ch) s (fun w => w = { s with sig := w.sig, idents := w.idents } ∧
        spareOf w (ch.val / 32) = some ch.val ∧ w.sig.moving = none ∧ w.sig.serviceDies.testBit (0x10 + ch.val / 32) = true)))

/-- R209–R214, R222, R223, R237, R254, R299–R301, R326: what harts and devices do to the unified range, the registers and the
holes of the address map: what they read, which bytes they write, what enters the store buffer, and the causes of the
exceptions. A hart's access is made after what its core did since the last one, unless that raised an exception, translated and
checked as R312 says; in M mode,
with no protection set, its address is physical. A device's request passes the IOMMU, which is bare here or names where it goes.
Where nothing makes the access wait. -/
def Obligations.HartMemory : Prop :=
  ∀ (s : State) (h : Fin 128),
    let runs : Prop := (s.host (h.val / 64)).running = true
    let excOf (t : State) (c va : Nat) : State := t.modHart h.val (fun g => { g with exc := c, excVal := va })
    (∀ a : HartAcc, runs → (hartSteps s h.val a.core).2 = false →
      exec (.hartAccess h a) s = .next (hartSteps s h.val a.core).1) ∧
    (∀ a : HartAcc, runs → (hartSteps s h.val a.core).2 = true → a.size ≠ 0 →
      let t₀ := (hartSteps s h.val a.core).1
      let start := if a.pre then drainHart t₀ h.val else t₀
      let q := hartReach start h.val a.addr a.size (hartRight a.op)
      let t := q.1
      let cause : Nat := match a.op with | .fetch => 1 | .load => 5 | .lr => 5 | .store => 7 | .sc => 7
      hartBlocked t₀ h.val a = false →
      ((start.hart h.val).priv = 3 → bit ((start.hart h.val).get 0x300) 17 = false →
        (∀ i, i < 16 → (start.hart h.val).pmpRange i = none) → q = (start, .ok [(a.addr, a.size)] false)) ∧
      (q.2 = .wait → exec (.hartAccess h a) s = .next t₀) ∧
      (∀ c va, q.2 = .fault c va → exec (.hartAccess h a) s = .next (excOf t c va)) ∧
      (∀ l nc, q.2 = .ok l nc →
        let ends (p : State → Prop) : Prop := Does (.hartAccess h a) s (fun w => ∃ u, p u ∧
          w = hartAfter (if a.post then drainHart u h.val else u) h.val a.post)
        let raises (c : Nat) : Prop := ends (fun u => u = excOf t c a.addr)
        let memory : Prop := ∀ p ∈ l, region t p.1 = .unified ∧ p.1 + p.2 ≤ t.uBytes
        let free : Prop := memory ∧ hartWaits t h.val (pieceLines l) nc (a.op == .fetch) = false
        let reads : Prop := a.op = .load ∨ a.op = .fetch ∨ a.op = .lr
        let poisoned : Prop := ∃ p ∈ l, memPoisoned t p.1 p.2 = true
        let quiet (u : State) : Prop := SameMem t u ∧ u.poison = t.poison ∧ (u.hart h.val).exc = 0
        (¬ memory → (∀ pa n, l = [(pa, n)] → region t pa = .hole ∨ region t pa = .unified) → raises cause) ∧
        (free → reads → poisoned → raises 19) ∧
        (free → a.op = .lr → ¬ poisoned → a.addr % a.size ≠ 0 → raises 4) ∧
        (free → a.op = .load ∨ a.op = .lr → ¬ poisoned → (a.op = .lr → a.addr % a.size = 0) →
          let x := if (l.flatMap (fun p => wordPieces p.1 p.2)).length ≤ 1 then none else (t.hart h.val).earlier
          ends (fun u => quiet u ∧ (u.hart h.val).stores = (t.hart h.val).stores ∧
            (a.op = .lr → (u.hart h.val).lr = (l.head?).map (fun p => p.1 / 64)) ∧
            ∃ bs, Loaded t x (t.hart h.val).stores l bs ∧ (u.hart h.val).reply = BitVec.ofNat 128 (leNat bs))) ∧
        (free → a.op = .fetch → ¬ poisoned →
          ends (fun u => quiet u ∧ (u.hart h.val).stores = (t.hart h.val).stores ∧ (u.hart h.val).reply = (t.hart h.val).reply ∧
            ∃ bs, Loaded t (t.hart h.val).ahead (t.hart h.val).stores l bs ∧ (u.hart h.val).instr = BitVec.ofNat 128 (leNat bs))) ∧
        (free → a.op = .store → ends (fun u => quiet u ∧ (u.hart h.val).stores = (t.hart h.val).stores ++
          (piecesOf (leBytes a.size a.data) l).map (fun x => { x with nc := nc }))) ∧
        (memory → a.op = .sc → a.addr % a.size ≠ 0 → raises 6) ∧
        (∀ pa, l = [(pa, a.size)] → a.op = .sc → a.addr % a.size = 0 →
          (memory → (t.hart h.val).lr ≠ some (pa / 64) →
            ends (fun u => u.mem = t.mem ∧ (u.hart h.val).lr = none ∧ (u.hart h.val).reply = 1 ∧ (u.hart h.val).exc = 0)) ∧
          (free → (t.hart h.val).lr = some (pa / 64) → hartStoresWait t h.val (t.hart h.val).stores = false →
            (∀ x, pa ≤ x → x < pa + a.size → inMirror t x = false) →
            let v := if (t.hart h.val).stores.any (storesMeet { pa := pa, bytes := leBytes a.size a.data }) then drainHart t h.val else t
            ends (fun u => (u.hart h.val).lr = none ∧ (u.hart h.val).reply = 0 ∧ (u.hart h.val).exc = 0 ∧
              ∀ x, memByte u x = if pa ≤ x ∧ x < pa + a.size then (leBytes a.size a.data).getD (x - pa) 0 else memByte v x))) ∧
        (∀ pa n, l = [(pa, n)] → portHeld t h.val pa = false →
          (region t pa = .mmio ∧ holdsInBlock t h.val ((pa - mmioBase) / 2 ^ 32) = false) ∨ region t pa = .ticket →
          let word := mmioWrite (hartDone t h.val (t.hart h.val).reply) 0 pa (BitVec.ofNat 64 a.data) (.hart h.val)
          (a.op = .load → a.size = 8 → pa % 8 = 0 → mmioReadWaits t pa = false →
            ends (fun u => u.mem = t.mem ∧ (u.hart h.val).exc = 0 ∧ (u.hart h.val).reply = (mmioRead t pa).setWidth 128)) ∧
          (a.op = .store → a.size = 8 → pa % 8 = 0 → ends (fun u => u = word)) ∧
          (a.op = .store → a.size = 16 → wideTarget pa = true →
            ends (fun u => u = mmioWrite word 0 (pa + 8) (BitVec.ofNat 64 (a.data / 2 ^ 64)) (.hart h.val))) ∧
          (¬ (a.size = 8 ∧ pa % 8 = 0 ∧ (a.op = .load ∨ a.op = .store)) → ¬ (a.size = 16 ∧ a.op = .store ∧ wideTarget pa = true) →
            raises cause)))) ∧
    (∀ a : HartAmo, runs → amoSizeOk a.op a.size = true → ((s.hart h.val).fencing && holdsWrite s (.hart h.val)) = false →
      (a.addr % a.size ≠ 0 → exec (.hartAmo h a) s = .next (excOf s 6 a.addr)) ∧
      (a.addr % a.size = 0 → ∀ t c va, hartReach s h.val a.addr a.size .a = (t, .fault c va) →
        exec (.hartAmo h a) s = .next (excOf t c va)) ∧
      (a.addr % a.size = 0 → ∀ t pa n nc, hartReach s h.val a.addr a.size .a = (t, .ok [(pa, n)] nc) →
        (region t pa ≠ .unified ∨ t.uBytes < pa + a.size → exec (.hartAmo h a) s = .next (excOf t 7 a.addr)) ∧
        (region t pa = .unified → pa + a.size ≤ t.uBytes → hartWaits t h.val (linesOf pa a.size) true false = false →
          hartStoresWait t h.val (t.hart h.val).stores = false →
          (memPoisoned t pa a.size = true → exec (.hartAmo h a) s = .next (excOf t 19 a.addr)) ∧
          (memPoisoned t pa a.size = false → inMirror t pa = false →
            let v := if a.rl || (t.hart h.val).stores.any (storesMeet { pa := pa, bytes := List.replicate a.size 0 })
              then drainHart t h.val else t
            let old := leNat (memRead v pa a.size)
            Does (.hartAmo h a) s (fun w => (w.hart h.val).exc = 0 ∧ (w.hart h.val).reply = BitVec.ofNat 128 old ∧
              ∀ x, memByte w x = if pa ≤ x ∧ x < pa + a.size
                then (leBytes a.size (amoValue a.op a.size old a.data a.cmp)).getD (x - pa) 0 else memByte v x))))) ∧
    (∀ addr, runs → ((s.hart h.val).fencing && holdsWrite s (.hart h.val)) = false →
      let does (i : Instr) (acc : Acc) (on : Word → Bool) (p : State → Nat → State → Prop) : Prop :=
        (∀ c, (s.hart h.val).cboStop on = some c → exec i s = .next (excOf s c 0)) ∧
        ((s.hart h.val).cboStop on = none →
          (∀ t c va, hartReach s h.val (addr / 64 * 64) 64 acc = (t, .fault c va) → exec i s = .next (excOf t c addr)) ∧
          (∀ t pa n nc, hartReach s h.val (addr / 64 * 64) 64 acc = (t, .ok [(pa, n)] nc) → region t pa = .unified →
            memWaits t pa 1 = false → hostHeld t (h.val / 64) (home pa) = false →
            hartStoresWait t h.val (t.hart h.val).stores = false →
            let l := pa / 64
            Does i s (p (if (t.hart h.val).stores.any (storesMeet { pa := l * 64, bytes := List.replicate 64 0 })
              then drainHart t h.val else t) l)))
      let gone (v : State) (l : Nat) (w : State) : Prop := SameMem v w ∧ (∀ k, look 0 (w.eng k).sc l = 0) ∧
        (∀ k, look 0 (w.hart k).cache l = 0) ∧ look 0 (w.pc (home (l * 64))).lines l = 0
      does (.cboClean h addr) .r cbcfe (fun v l w => SameMem v w ∧ (∀ k, look 0 (w.eng k).sc l ≠ 2) ∧
        (∀ k, look 0 (w.hart k).cache l ≠ 2) ∧
        (look 0 (w.pc (home (l * 64))).lines l = 0 ∨ look 0 (w.pc (home (l * 64))).lines l % 2 = 1)) ∧
      does (.cboFlush h addr) .r cbcfe gone ∧ does (.cboInval h addr) .r cbie gone ∧
      does (.cboZero h addr) .w cbze (fun v l w => SameMem v w ∧ (w.hart h.val).stores =
        (v.hart h.val).stores ++ [{ pa := l * 64, bytes := List.replicate 64 0 }])) ∧
    (∀ addr, exec (.prefetch h addr) s = .next s) ∧
    (∀ (d : Fin 2) (a : DevAcc),
      let s₀ := portSteps s d.val a.port
      deviceWorks s₀ d.val = true →
      (∀ write, fld ((s₀.host d.val).io 16) 3 0 = 1 → ioReach s₀ d.val a.dev.toNat a.addr write = (s₀, .mem a.addr)) ∧
      (∀ bytes : List Byte, bytes ≠ [] →
        (∀ t c, ioReach s₀ d.val a.dev.toNat a.addr true = (t, .fault c) → exec (.deviceDmaWrite d a bytes) s =
          .next (dmaRefuse (ioFault t d.val a.dev.toNat c 3 a.addr) d.val)) ∧
        (∀ t page, ioReach s₀ d.val a.dev.toNat a.addr true = (t, .msi page) →
          Does (.deviceDmaWrite d a bytes) s (fun w => w.mem = t.mem ∧ (w.host d.val).dmaRefused = false)) ∧
        (∀ t pa, ioReach s₀ d.val a.dev.toNat a.addr true = (t, .mem pa) →
          (t.uBytes < pa + bytes.length → Does (.deviceDmaWrite d a bytes) s (fun w => w.mem = t.mem ∧ (w.host d.val).dmaRefused = true)) ∧
          (pa + bytes.length ≤ t.uBytes → dmaWaits t d.val pa bytes.length = false →
            (∀ x, pa ≤ x → x < pa + bytes.length → inMirror t x = false) →
            Does (.deviceDmaWrite d a bytes) s (fun w => (w.host d.val).dmaRefused = false ∧
              ∀ x, memByte w x = if pa ≤ x ∧ x < pa + bytes.length then bytes.getD (x - pa) 0 else memByte t x)))) ∧
      (∀ n, n ≠ 0 →
        (∀ t c, ioReach s₀ d.val a.dev.toNat a.addr false = (t, .fault c) → exec (.deviceDmaRead d a n) s =
          .next (dmaRefuse (ioFault t d.val a.dev.toNat c 2 a.addr) d.val)) ∧
        (∀ t pa, ioReach s₀ d.val a.dev.toNat a.addr false = (t, .mem pa) →
          (t.uBytes < pa + n → Does (.deviceDmaRead d a n) s (fun w => w.mem = t.mem ∧ (w.host d.val).dmaRefused = true)) ∧
          (pa + n ≤ t.uBytes → dmaWaits t d.val pa n = false → Does (.deviceDmaRead d a n) s (fun w => SameMem t w ∧
            (w.host d.val).dmaRefused = false ∧ (w.host d.val).dmaPoison = memPoisoned t pa n ∧
            (w.host d.val).dmaData.length = n ∧ ∀ i, i < n → memPoisoned t (pa + i) 1 = false →
              (w.host d.val).dmaData[i]? = some (memByte t (pa + i)))))))

/-- R187, R239, R241, R244, R247, R249, R250, R252, R253: a migration locks its tile, with the tile whose frame it takes, and
when it completes moves it without changing a byte, once every line of it is good or poisoned; a lost device keeps its
place in the list; a line found uncorrectable is recovered from a good copy or poisoned. -/
def Obligations.TilesAndLines : Prop :=
  ∀ s : State,
    (∀ tile (toHbm : Bool) frame vframe,
      let dest : Frame := if toHbm then .hbm frame else .slow frame
      (tileLocked s tile = true → exec (.tileMigrationStart tile toHbm frame none vframe) s = .next s) ∧
      (s.shut = false → s.pkg.slowReady = true → tile < s.uBytes / 65536 → tileLocked s tile = false →
        frameExists s dest = true → frameTaken s dest = false → dupApart s tile dest = true →
        (toHbm = true → isExpress s tile = true ∨ expressPending s (home (tile * 65536)) = false) →
        (toHbm = true → (∃ n, frameOf s tile = .slow n) ∧ wanted s tile = true) → (toHbm = false → mayLeaveHbm s tile = true) →
        Does (.tileMigrationStart tile toHbm frame none vframe) s (fun w => tileLocked w tile = true ∧ w.mem = s.mem ∧
          w = { s with migs := s.migs ++ [{ tile := tile, dest := dest, express := toHbm && isExpress s tile }] })) ∧
      (∀ v, s.shut = false → s.pkg.slowReady = true → toHbm = true → tile < s.uBytes / 65536 → tileLocked s tile = false →
        frameExists s dest = true → dupApart s tile dest = true → (∃ n, frameOf s tile = .slow n) → wanted s tile = true →
        isExpress s tile = true ∨ expressPending s (home (tile * 65536)) = false →
        v ≠ tile → frameOf s v = dest → mayLeaveHbm s v = true → frameExists s (.slow vframe) = true →
        frameTaken s (.slow vframe) = false → dupApart s v (.slow vframe) = true →
        Does (.tileMigrationStart tile toHbm frame (some v) vframe) s (fun w =>
          tileLocked w tile = true ∧ tileLocked w v = true ∧
          w = { s with migs := s.migs ++ [{ tile := tile, dest := dest, victim := some (v, .slow vframe), express := isExpress s tile }] }))) ∧
    (∀ m, s.migs = [m] → m.victim = none → copyReady s m.tile = false →
      exec (.tileMigrationComplete m.tile) s = .next s) ∧
    (∀ m, s.migs = [m] → m.victim = none → copyReady s m.tile = true → s.expects = [] →
      Does (.tileMigrationComplete m.tile) s (fun w => w.migs = [] ∧ w.mem = s.mem ∧ w.poison = s.poison ∧
        frameOf w m.tile = m.dest ∧ (w.tile m.tile).count = 0 ∧ (∀ t, t ≠ m.tile → frameOf w t = frameOf s t) ∧
        ∀ h, (w.hart h).lr = (match (s.hart h).lr with | some l => if l / 1024 = m.tile then none else some l | none => none))) ∧
    (∀ tile, (∀ m ∈ s.migs, m.tile ≠ tile) → exec (.tileMigrationComplete tile) s = .next s) ∧
    (∀ i, Does (.slowDeviceLost i) s (fun w => w = { s with pkg := { s.pkg with slowDevs := w.pkg.slowDevs } } ∧
      ∀ j, w.pkg.slowDevs[j]? = (s.pkg.slowDevs[j]?).map (fun (d : Nat × Nat × Nat × Nat) =>
        if j = i then (d.1, d.2.1, d.2.2.1, 2) else d))) ∧
    (∀ l dup mir rewritten, nHas l s.recovering = true ∨ lineLost s l = true →
      let good := (dup && dupAnswers s (l / 1024)) || (mir && mirrorUsable s l)
      (good = true → Does (.lineRecoveryComplete l ⟨dup, mir⟩ rewritten) s (fun w => nHas l w.recovering = false ∧ w.mem = s.mem ∧
        w.poison = s.poison ∧ (lineLost s l = true → nHas l (w.tile (l / 1024)).saved = true) ∧
        (lineLost s l = false → rewritten = true → w.migs = s.migs) ∧
        (w.tt (home (l * 64))).recovered = min 0xFFFF ((s.tt (home (l * 64))).recovered + 1))) ∧
      (good = false → Does (.lineRecoveryComplete l ⟨dup, mir⟩ rewritten) s (fun w => nHas l w.recovering = false ∧ w.mem = s.mem ∧
        (∀ x, nHas x w.poison = (nHas x s.poison || x == l)) ∧
        (w.tt (home (l * 64))).poisoned = min 0xFFFF ((s.tt (home (l * 64))).poisoned + if nHas l s.poison then 0 else 1) ∧
        (w.tt (home (l * 64))).errLog = (s.tt (home (l * 64))).errLog ++ [l * 64]))) ∧
    (∀ l good rewritten, nHas l s.recovering = false → lineLost s l = false →
      exec (.lineRecoveryComplete l good rewritten) s = .next s)

/-- R262–R265: Sidings: a batch is published whole, entry by entry behind its header, where its ring has room; held faults
enter the parked list in order; an answer lets its requester go on or ends it; SD_CONS moves only forward to the
producer. -/
def Obligations.SidingEvents : Prop :=
  ∀ (s : State) (cc d : Fin 4),
    let k := 4 * cc.val + d.val
    let x := s.siding k
    (x.closed = none ∨ sdRoom x = false → exec (.batchPublish cc d) s = .next s) ∧
    (∀ b, x.closed = some b → sdRoom x = true → b.entries.length < 256 →
      let addr (i : Nat) : Nat := x.base + ((x.producer + i) % 2 ^ x.log2n) * 64
      x.base + 2 ^ x.log2n * 64 ≤ s.uBytes → x.base % 64 = 0 →
      (∀ a, x.base ≤ a → a < x.base + 2 ^ x.log2n * 64 → inMirror s a = false) →
      Does (.batchPublish cc d) s (fun w =>
        (w.siding k).producer = (x.producer + b.entries.length + 1) % 2 ^ 32 ∧ (w.siding k).batchNo = (x.batchNo + 1) % 2 ^ 32 ∧
        memRead w (addr 0) 7 = leBytes 4 ((x.batchNo + 1) % 2 ^ 32) ++
          [0x80, BitVec.ofNat 8 b.entries.length, BitVec.ofNat 8 b.close] ∧
        (∀ i f, b.entries[i]? = some f → memRead w (addr (i + 1)) 64 = faultBytes f) ∧
        ∀ a, (a < x.base ∨ x.base + 2 ^ x.log2n * 64 ≤ a) → memByte w a = memByte s a)) ∧
    ((s.book cc.val).heldFaults = [] →
      (∀ j, j < 4 → (s.siding (4 * cc.val + j)).closed ≠ none ∨ parkedOf (s.book cc.val) j = 0) →
      exec (.heldFaultAdmit cc) s = .next s) ∧
    (∀ p, (s.book cc.val).heldFaults = [p] → p.1 < 4 → (s.book cc.val).parked = [] →
      (s.siding (4 * cc.val + p.1)).closed = none → (s.siding (4 * cc.val + p.1)).open_.length < 64 →
      Does (.heldFaultAdmit cc) s (fun w => (w.book cc.val).heldFaults = [] ∧ (w.book cc.val).parked = [] ∧
        w.siding (4 * cc.val + p.1) = sdClose { s.siding (4 * cc.val + p.1) with
          overflow := min 0xFFF ((s.siding (4 * cc.val + p.1)).overflow + 1)
          open_ := (s.siding (4 * cc.val + p.1)).open_ ++ [{ p.2 with parked := true }] })) ∧
    (∀ p, (s.book cc.val).heldFaults = [p] → parkRoom (s.book cc.val) p.1 = true →
      (∀ j, j < 4 → (s.siding (4 * cc.val + j)).closed ≠ none) →
      Does (.heldFaultAdmit cc) s (fun w => (w.book cc.val).heldFaults = [] ∧
        (w.book cc.val).parked = (s.book cc.val).parked ++ [p] ∧
        (w.siding (4 * cc.val + p.1)).overflow = min 0xFFF ((s.siding (4 * cc.val + p.1)).overflow + 1))) ∧
    (∀ id : BitVec 32, nHas id.toNat x.unanswered = false →
      Does (.sdAnswerRetry cc d id) s (fun w => w = { s with sidings := w.sidings } ∧ w.siding k = { x with ansErr := true }) ∧
      Does (.sdAnswerError cc d id) s (fun w => w = { s with sidings := w.sidings } ∧ w.siding k = { x with ansErr := true })) ∧
    (∀ (id : BitVec 32) j y, nHas id.toNat x.unanswered = true → s.atomics = [(j, y)] → y.fault = some (k * 2 ^ 32 + id.toNat) →
      s.streams = [] → s.units = [] → s.launches = [] → s.expects = [] → s.remOps = [] → s.colls = [] →
      s.clRings = [] → s.roRings = [] → s.crRings = [] →
      Does (.sdAnswerRetry cc d id) s (fun w => w.atomics = [(j, { y with fault := none })] ∧
        nHas id.toNat (w.siding k).unanswered = false ∧ w.mem = s.mem) ∧
      Does (.sdAnswerError cc d id) s (fun w => w.atomics = [] ∧ nHas id.toNat (w.siding k).unanswered = false ∧ w.mem = s.mem ∧
        (y.discard = false → (s.eng y.engine).migrating = none → (s.eng y.engine).unplaced = false → asleep s y.engine = false →
          (w.eng y.engine).tcVal y.tc = (s.eng y.engine).tcVal y.tc + 1))) ∧
    (∀ v : BitVec 32,
      let ok := (v.toNat + 2 ^ 32 - x.consumer) % 2 ^ 32 ≤ (x.producer + 2 ^ 32 - x.consumer) % 2 ^ 32
      (ok → Does (.sdConsWrite cc d v) s (fun w => (w.siding k).consumer = v.toNat ∧ (w.siding k).producer = x.producer ∧
        (x.closed = none → x.open_ ≠ [] → x.open_.length < 64 → v.toNat = x.producer →
          (w.siding k).closed = some ⟨x.open_, 2⟩ ∧ (w.siding k).open_ = []))) ∧
      (¬ ok → Does (.sdConsWrite cc d v) s (fun w => ∀ j, w.siding j = s.siding j))) ∧
    (∀ v : Word, Does (.sdCtrlEnable cc d v) s (fun w => (∀ j, j ≠ k → w.siding j = s.siding j) ∧
      (w.siding k).enable = v.getLsbD 33 ∧ (w.siding k).notifyEn = v.getLsbD 32 ∧
      (w.siding k).endpoint = (v.extractLsb' 0 32).toNat ∧ (w.siding k).consumer = x.consumer ∧
      (w.siding k).producer = (if v.getLsbD 33 && !x.enable then x.consumer else x.producer)))

/-- R164, R189, R266: invalidation: a command that starts removes exactly the translations that its scope names, marks the
launch pages that it names, and waits for every Booking unit; one that finds the unit busy waits its turn. -/
def Obligations.Invalidation : Prop :=
  ∀ (s : State) (cc : Fin 4),
    let b := s.book cc.val
    let starts (i : Instr) (c : InvCmd) (kept : Xlat → Prop) : Prop :=
      (b.cur ≠ none → Does i s (fun w => w = { s with books := w.books } ∧ w.book cc.val = { b with held := b.held ++ [c] })) ∧
      (b.cur = none → Does i s (fun w => (w.book cc.val).cur = some c ∧ (w.book cc.val).acks = [] ∧
        (∀ k x, x ∈ look [] w.tlb k ↔ x ∈ look [] s.tlb k ∧ kept x) ∧
        (∀ p ∈ w.launches, ∀ g ∈ p.2.pages, kept g.x ∨ g.invalidated = true) ∧
        (s.streams = [] → w.mem = s.mem)))
    let page (x : Xlat) : Prop := x.vbase ≤ b.invVa ∧ b.invVa < x.vbase + x.size
    starts (.bkInvEveryAsn cc) ⟨0, 0, b.invVa⟩ (fun _ => False) ∧
    (∀ asn : Asn, starts (.bkInvOneAsn cc asn) ⟨1, asn.toNat, b.invVa⟩ (fun x => x.global_ = true ∨ x.asn ≠ asn.toNat)) ∧
    (∀ asn : Asn, starts (.bkInvOnePage cc asn) ⟨2, asn.toNat, b.invVa⟩
      (fun x => x.global_ = true ∨ x.asn ≠ asn.toNat ∨ ¬ page x)) ∧
    starts (.bkInvPageEveryAsn cc) ⟨3, 0, b.invVa⟩ (fun x => ¬ page x) ∧
    (b.cur = none ∨ b.acks ≠ [0, 1, 2, 3] → exec (.bkInvDone cc) s = .next s) ∧
    (∀ c, b.cur = some c → b.acks = [0, 1, 2, 3] → b.held = [] → Does (.bkInvDone cc) s (fun w =>
      w = { s with books := w.books, tlb := w.tlb, astCache := w.astCache } ∧ w.book cc.val = { b with cur := none, acks := [] } ∧
      ∀ k x, x ∈ look [] w.tlb k ↔ x ∈ look [] s.tlb k ∧ invMatches c x = false)) ∧
    (∀ c d rest, b.cur = some c → b.acks = [0, 1, 2, 3] → b.held = d :: rest → Does (.bkInvDone cc) s (fun w =>
      (w.book cc.val).cur = some d ∧ (w.book cc.val).acks = [] ∧ (w.book cc.val).held = rest ∧
      ∀ k x, x ∈ look [] w.tlb k ↔ x ∈ look [] s.tlb k ∧ invMatches c x = false ∧ invMatches d x = false))

/-- R255, R270, R275–R281, R284, R285, R287–R290: the HBM channels: what a read finds and counts, where a write goes, how a
channel is retrained, retired and moved, how a stack's temperature acts with its hysteresis, and the traffic
generator. -/
def Obligations.HbmChannels : Prop :=
  ∀ (s : State) (ch : Fin 384),
    let c := s.chan ch.val
    let stk := s.stack (ch.val / 32)
    let here (line : Nat) : Prop := line < 2 ^ 26 ∧ (2031616 ≤ line / 32 ∨ (granuleOf s ch.val (line / 32)).isSome = true)
    let pa (line : Nat) : Option Nat := paLine s ch.val (line / 32) (line % 32)
    let clean (line : Nat) : Prop := ∀ l, pa line = some l → nHas l s.poison = false
    let level (was x : Nat) : Nat := if 115 ≤ x ∨ (3 ≤ was ∧ 100 ≤ x) then 3 else if 105 ≤ x ∨ (2 ≤ was ∧ 100 ≤ x) then 2
      else if 95 ≤ x ∨ (1 ≤ was ∧ 90 ≤ x) then 1 else 0
    let credits : Nat := (if s.sig.wa.testBit 3 = true ∧ (s.ident (0x10 + ch.val / 32)).stepping = 0x0B00 then 128 else 256) /
      (if stk.thermal = 1 then 2 else 1)
    exec (.refresh ch) s = .next s ∧
    (∀ line e, here line → c.serves = true → c.wcb = [e] → e.line = line → Does (.hbmRead ch line 0) s (fun w => w.mem = s.mem ∧
      (e.latent = 1 → (w.chan ch.val).ce = min 0xFFFF (c.ce + 1) ∧ (w.chan ch.val).ue = c.ue ∧ w.poison = s.poison) ∧
      (e.latent = 2 → (w.chan ch.val).ue = min 0xFFFF (c.ue + 1) ∧ (w.chan ch.val).ce = c.ce ∧ (w.chan ch.val).wcb = [] ∧
        ∀ l, pa line = some l → nHas l w.poison = true))) ∧
    (∀ line err, here line → c.serves = true → (∀ e ∈ c.wcb, e.line = line → e.latent = 0) →
      (err = 0 → Does (.hbmRead ch line err) s (fun w => w.mem = s.mem ∧ w.poison = s.poison ∧ w.recovering = s.recovering ∧
        ∀ j, w.chan j = s.chan j)) ∧
      (0 < err → err ≤ 36 → clean line → Does (.hbmRead ch line err) s (fun w => w.mem = s.mem ∧
        (w.chan ch.val).ce = min 0xFFFF (c.ce + 1) ∧ (w.chan ch.val).ue = c.ue ∧ w.recovering = s.recovering ∧
        ∃ k, k < 16 ∧ (look {} (w.chan ch.val).log k).valid = true ∧ (look {} (w.chan ch.val).log k).sector = 2 * line ∧
          (look {} (w.chan ch.val).log k).symbol = err - 1)) ∧
      (err = 37 → clean line → Does (.hbmRead ch line err) s (fun w => w.mem = s.mem ∧
        (w.chan ch.val).ue = min 0xFFFF (c.ue + 1) ∧ (w.chan ch.val).ce = c.ce ∧
        (∀ l, pa line = some l → nHas l w.recovering = true) ∧
        (s.pkg.ueRetire = 1 → (w.chan ch.val).mustRetire = true)))) ∧
    (∀ line err, line < 2 ^ 26 → c.state = .retraining ∨ c.state = .selfRefresh →
      Does (.hbmRead ch line err) s (fun w => w = { s with chans := w.chans } ∧ (∀ j, j ≠ ch.val → w.chan j = s.chan j) ∧
        w.chan ch.val = if c.waiting = [] ∧ c.queue.length < credits
          then { c with queue := c.queue ++ [{ write := false, line := line, err := err }] }
          else { c with waiting := c.waiting ++ [{ write := false, line := line, err := err }] })) ∧
    (∀ line first bytes, here line → c.serves = true → bytes ≠ [] → first + bytes.length ≤ 64 →
      (∀ l, pa line = some l → Does (.hbmWrite ch line first bytes) s (fun w =>
        (∀ a, look 0 w.mem a = if l * 64 + first ≤ a ∧ a < l * 64 + first + bytes.length
          then bytes.getD (a - (l * 64 + first)) 0 else look 0 s.mem a) ∧
        (bytes.length = 64 ∨ (∀ e ∈ c.wcb, e.latent = 0) →
          ∀ x, nHas x w.poison = (nHas x s.poison && !(x == l && bytes.length == 64))) ∧
        (bytes.length < 64 → ∀ x, nHas x s.poison = true → nHas x w.poison = true) ∧
        (bytes.length = 64 → ∀ e ∈ (w.chan ch.val).wcb, e.line ≠ line) ∧
        (bytes.length < 64 → (∀ e ∈ c.wcb, e.line ≠ line) → ∃ e ∈ (w.chan ch.val).wcb, e.line = line))) ∧
      (pa line = none → Does (.hbmWrite ch line first bytes) s (fun w => w.mem = s.mem ∧
        (∀ x, nHas x s.poison = true → nHas x w.poison = true) ∧
        ∀ a, look 0 (w.chan ch.val).reserve a = if line * 64 + first ≤ a ∧ a < line * 64 + first + bytes.length
          then bytes.getD (a - (line * 64 + first)) 0 else look 0 c.reserve a))) ∧
    (s.holding = false → s.stopping = false → c.serves = true → stk.temp < 105 →
      (∀ i, i < 32 → (s.chan (32 * (ch.val / 32) + i)).state ≠ .retraining) →
      Does (.channelRetrain ch) s (fun w => w = { s with chans := w.chans } ∧ w.chan ch.val = { c with state := .retraining })) ∧
    (∀ ok lanes, (c.state ≠ .retraining → exec (.channelRetrainComplete ch ok lanes) s = .next s) ∧
      (c.state = .retraining → stk.thermal < 3 → Does (.channelRetrainComplete ch ok lanes) s (fun w =>
        (w.chan ch.val).state = (if c.failing then .failing else .active) ∧ (w.chan ch.val).queue = [] ∧
        (w.chan ch.val).waiting = [] ∧ (w.chan ch.val).retrains = min 0xFFFF (c.retrains + 1) ∧ (w.chan ch.val).lanes = (if ok then lanes % 256 else c.lanes) ∧
        (ok = false → (w.chan ch.val).mustRetire = true) ∧ (c.queue = [] → c.waiting = [] → w.mem = s.mem))) ∧
      (c.state = .retraining → 3 ≤ stk.thermal → Does (.channelRetrainComplete ch ok lanes) s (fun w => w.mem = s.mem ∧
        (w.chan ch.val).state = .selfRefresh ∧ (w.chan ch.val).wcb = [] ∧ (w.chan ch.val).queue = c.queue ∧
        (w.chan ch.val).waiting = c.waiting ∧ (w.chan ch.val).retrains = min 0xFFFF (c.retrains + 1) ∧
        (w.chan ch.val).lanes = (if ok then lanes % 256 else c.lanes)))) ∧
    (s.holding = false → c.mustRetire = true →
      (stk.retiredCh = 0xFF → Does (.channelRetire ch) s (fun w => w.mem = s.mem ∧ (w.chan ch.val).mustRetire = false ∧
        (w.stack (ch.val / 32)).retiredCh = ch.val % 32 ∧ (w.stack (ch.val / 32)).retireState = 1 ∧
        (w.stack (ch.val / 32)).moveNext = 0)) ∧
      (stk.retiredCh = ch.val % 32 → Does (.channelRetire ch) s (fun w => w.mem = s.mem ∧ (w.chan ch.val).mustRetire = false ∧
        w.stack (ch.val / 32) = stk)) ∧
      (stk.retiredCh ≠ 0xFF → stk.retiredCh ≠ ch.val % 32 → Does (.channelRetire ch) s (fun w => w.mem = s.mem ∧
        (w.stack (ch.val / 32)).failingCh = (if stk.failingCh = 0xFF then ch.val % 32 else stk.failingCh) ∧
        (w.chan ch.val).failing = true ∧ (w.chan ch.val).mustRetire = false ∧
        w.sig.serviceDies = s.sig.serviceDies ||| 2 ^ (0x10 + ch.val / 32) ∧
        (c.serves = true → (w.chan ch.val).state = .failing)))) ∧
    (∀ (p : Fin 12) bad, let k := s.stack p.val
      (k.retireState ≠ 1 → exec (.granuleMove p bad) s = .next s) ∧
      ((s.chan (32 * p.val + k.retiredCh)).rests = true → exec (.granuleMove p bad) s = .next s) ∧
      (k.retireState = 1 → (s.chan (32 * p.val + k.retiredCh)).rests = false → k.moveNext + 1 ≤ 2031616 →
        Does (.granuleMove p bad) s (fun w => w.mem = s.mem ∧
        (w.stack p.val).moveNext = k.moveNext + 1 ∧
        (k.moveNext + 1 = 2031616 → (w.stack p.val).retireState = 2 ∧ (w.chan (32 * p.val + k.retiredCh)).state = .retired)))) ∧
    (∀ sector, s.holding = false → s.stopping = false → s.sig.keeper = .watching → s.sig.inspEn = true →
      c.serves = true ∨ c.state = .retired → sector < 2 ^ 27 →
      (2031616 ≤ sector / 64 ∨ c.state = .retired ∨ (granuleOf s ch.val (sector / 64)).isSome = true) →
      Does (.patrolScrub ch sector 0) s (fun w => w = { s with chans := w.chans } ∧
        w.chan ch.val = { c with scrubbed := c.scrubbed + 1 })) ∧
    (∀ v, let t := c.tg.withCtrl v
      (c.run = none → t.last < t.first → Does (.tgCtrlStart ch v) s (fun w => w.mem = s.mem ∧
        (w.chan ch.val).run = none ∧ (w.chan ch.val).tgDone = true ∧ (w.chan ch.val).result = 2)) ∧
      (c.run = none → t.first ≤ t.last → (∀ i, t.first ≤ i → i ≤ t.last → tgFree s ch.val i = true) →
        c.serves = true ∨ c.state = .retired → Does (.tgCtrlStart ch v) s (fun w => w.mem = s.mem ∧
          (w.chan ch.val).run = some t ∧ (w.chan ch.val).mismatch = 0))) ∧
    (c.run = none → exec (.tgCtrlAbort ch) s = .next s) ∧
    (∀ t, c.run = some t →
      Does (.tgCtrlAbort ch) s (fun w => w.mem = s.mem ∧ (w.chan ch.val).run = none ∧ (w.chan ch.val).tgDone = true ∧
        (w.chan ch.val).result = 3) ∧
      (t.mode = 0 → ∀ m sec sym, Does (.tgRunComplete ch m sec sym) s (fun w => w.mem = s.mem ∧ (w.chan ch.val).run = none ∧
        (w.chan ch.val).tgDone = true ∧ (w.chan ch.val).result = 0 ∧
        ∀ i j, i < t.words → j < 8 → look 0 (w.chan ch.val).reserve (t.first * 2048 + 8 * i + j) =
          (leBytes 8 (tgWord t (t.first * 2048 + 8 * i)).toNat).getD j 0)) ∧
      (t.mode = 2 → ∀ m sec sym, m < 2 ^ 32 → Does (.tgRunComplete ch m sec sym) s (fun w => (w.chan ch.val).run = none ∧
        (w.chan ch.val).mismatch = m ∧ (w.chan ch.val).result = (if m = 0 then 0 else 1) ∧
        (c.sbRun = true → m ≠ 0 → (w.chan ch.val).mustRetire = true)))) ∧
    Does (.hbmChErrLogClear ch) s (fun w => w = { s with chans := w.chans } ∧ (∀ j, j ≠ ch.val → w.chan j = s.chan j) ∧
      { w.chan ch.val with log := [] } = { c with log := [] } ∧ ∀ k, look {} (w.chan ch.val).log k =
        { look {} c.log k with valid := false, count := 0 }) ∧
    (∀ (p : Fin 12) temp, let k := s.stack p.val
      let x := min 255 temp
      (k.thermal = 4 → Does (.stackTempRead p temp) s (fun w => w = { s with stks := w.stks } ∧ w.stack p.val = { k with
        temp := x, heat := level k.heat x })) ∧
      (k.thermal ≠ 4 → Does (.stackTempRead p temp) s (fun w => (w.stack p.val).temp = x ∧ (w.stack p.val).thermal = level k.thermal x ∧
        (115 ≤ x → k.thermal ≠ 3 → w.mem = s.mem ∧ ∀ i, i < 32 → (s.chan (32 * p.val + i)).serves = true →
          (w.chan (32 * p.val + i)).state = .selfRefresh) ∧
        (x < 100 → k.thermal = 3 → ∀ i, i < 32 → (s.chan (32 * p.val + i)).state = .selfRefresh →
          (w.chan (32 * p.val + i)).serves = true ∧ (w.chan (32 * p.val + i)).queue = []))))

/-- R303–R309: the Platform caches and disabling a cache: what starts and what waits after a write, that a way change and a
disable drop their lines without changing a byte of memory, and what is counted. -/
def Obligations.PlatformCaches : Prop :=
  ∀ s : State,
    (∀ (cc : Fin 4) (v : Word),
      let c := s.pc cc.val
      let m := (v.extractLsb' 1 15).toNat * 2
      let only (x : PlatCache) (w : State) : Prop := w = { s with pcs := w.pcs } ∧ w.pc cc.val = x ∧ ∀ j, j ≠ cc.val → w.pc j = s.pc j
      (c.cur ≠ none ∨ s.holding = true → Does (.pcWayMaskWrite cc v) s (only { c with
        waiting := c.waiting.filter (fun o => o == PcOp.disable) ++ [PcOp.ways m] })) ∧
      (c.cur = none → s.holding = false → c.waiting = [] → c.disabled = false → m ≠ c.mask →
        Does (.pcWayMaskWrite cc v) s (only { c with mask := m, cur := some (.ways m), cleaned := 0 })) ∧
      (c.disable = true → Does (.pcCtrlDisable cc) s (only c)) ∧
      (c.disable = false → c.disabled = false → c.cur = none → s.holding = false → c.waiting = [] →
        Does (.pcCtrlDisable cc) s (only { c with disable := true, cur := some .disable, cleaned := 0 })) ∧
      (c.disable = false → c.cur ≠ none ∨ s.holding = true → Does (.pcCtrlDisable cc) s
        (only { c with disable := true, waiting := c.waiting ++ [PcOp.disable] })) ∧
      (c.disable = false → Does (.pcCtrlEnable cc) s (only c)) ∧
      (c.disable = true → c.disabled = true → c.cur = none → c.waiting = [] →
        (c.mask ||| c.waysRetired = c.waysOff → Does (.pcCtrlEnable cc) s
          (only { c with disable := false, disabled := false, lines := [] })) ∧
        (c.mask ||| c.waysRetired ≠ c.waysOff → s.holding = false → Does (.pcCtrlEnable cc) s
          (only { c with disable := false, disabled := false, lines := [], cur := some (.ways c.mask), cleaned := 0 }))) ∧
      (∀ n, c.cur = some (.ways n) → c.waiting = [] →
        let off := n ||| c.waysRetired
        Does (.wayChangeComplete cc) s (fun w => w.mem = s.mem ∧ w.poison = s.poison ∧ (w.pc cc.val).cur = none ∧
          (w.pc cc.val).waysOff = off ∧ (w.pc cc.val).mask = c.mask ∧
          (w.pc cc.val).lines = c.lines.filter (fun p => !off.testBit ((p.2 - 1) / 2)) ∧
          (w.pc cc.val).lastClean = min 0xFFFFFFFF (c.cleaned +
            (c.lines.filter (fun p => off.testBit ((p.2 - 1) / 2) && p.2 % 2 == 0)).length))) ∧
      (c.cur = some .disable → c.waiting = [] → Does (.cacheDisableComplete (.platform cc)) s (fun w =>
        w.mem = s.mem ∧ w.poison = s.poison ∧ (w.pc cc.val).disabled = true ∧ (w.pc cc.val).cur = none ∧
        ∀ p ∈ (w.pc cc.val).lines, 16 ≤ (p.2 - 1) / 2))) ∧
    (∀ e : Fin 256,
      ((s.eng e.val).scDisable = true → (s.eng e.val).scDisabled = false → s.holding = false ∨ (s.eng e.val).scClean = true →
        Does (.cacheDisableComplete (.engine e)) s (fun w => (w.eng e.val).scDisabled = true ∧ (w.eng e.val).sc = [] ∧
          (w.eng e.val).scClean = false ∧
          (w.eng e.val).stores = [] ∧ SameMem (drainEngine s e.val) w ∧ ∀ n, (w.eng e.val).sReg n = (s.eng e.val).sReg n)) ∧
      ((s.eng e.val).scDisable = false ∨ (s.eng e.val).scDisabled = true ∨ (s.holding = true ∧ (s.eng e.val).scClean = false) →
        exec (.cacheDisableComplete (.engine e)) s = .next s))

/-- R313, R314, R317, R319, R320–R324, R377, R378: resets and failure of a Campanile die, and the states of a host link. -/
def Obligations.HostsAndLinks : Prop :=
  ∀ s : State,
    (∀ d : Fin 2,
      let c := s.host d.val
      let mine (h : Nat) : Prop := 64 * d.val ≤ h ∧ h < 64 * d.val + 64
      let swept (w : State) : Prop :=
        w.host d.val = { c with running := false, relief := none, aplic := [], resetting := true, resetHeld := false } ∧
        (∀ j, j ≠ d.val → w.host j = s.host j) ∧
        (∀ h, mine h → let g := s.hart h
          w.hart h = { ({} : Hart) with
            txData := g.txData, txSeq := g.txSeq, txState := g.txState, overrun := g.overrun
            nack := g.nack, sendAsn := g.sendAsn, acceptAsn := g.acceptAsn }) ∧
        ((∀ h, mine h → (s.hart h).stores = []) → SameMem s w)
      let may := c.failed = false ∧ c.resetting = false ∧ inService s = true
      (¬ may → exec (.cpResetN d) s = .next s) ∧
      (may → s.holding = true → Does (.cpResetN d) s (fun w => w = { s with hosts := w.hosts } ∧
        w.host d.val = { c with resetHeld := true } ∧ ∀ j, j ≠ d.val → w.host j = s.host j)) ∧
      (may → s.holding = false → s.sig.reliefHart = none → Does (.cpResetN d) s swept) ∧
      (∀ x, may → s.holding = false → s.stopping = false → s.sig.reliefHart = none → s.sig.cmds = [x] → x.op = 2 →
        x.arg = d.val → x.byTicket = false →
        Does .hostReset s (fun w => swept w ∧ w.sig.cmds = [] ∧ w.sig.cmdResult = 0)) ∧
      (∀ bootOk cores,
        (c.resetting = false ∨ s.holding = true → exec (.hostResetComplete d bootOk cores) s = .next s) ∧
        (c.resetting = true → s.holding = false → Does (.hostResetComplete d bootOk cores) s (fun w =>
          w = { s with hosts := w.hosts, hlinks := w.hlinks } ∧
          w.host d.val = { c with resetting := false, running := bootOk, coreMap := if bootOk then mapCores c cores else c.coreMap } ∧
          (∀ j, j ≠ d.val → w.host j = s.host j) ∧
          ∀ k, w.hlink k = if k / 2 = d.val ∧ (s.hlink k).state = 5 then { s.hlink k with state := 1 } else s.hlink k))) ∧
      (s.holding = true ∨ c.failed = true → exec (.campanileDieFailed d) s = .next s) ∧
      (s.holding = false → c.failed = false → Does (.campanileDieFailed d) s (fun (w : State) =>
        (w.host d.val).failed = true ∧ (w.host d.val).running = false ∧ (w.ident (0x20 + d.val)).state = 3 ∧ w.mem = s.mem ∧
        w.sig.failedDies = s.sig.failedDies ||| 2 ^ (0x20 + d.val) ∧ w.sig.serviceDies = s.sig.serviceDies ||| 2 ^ (0x20 + d.val) ∧
        (∀ h, mine h → (w.hart h).cache = [] ∧ (w.hart h).l1d = [] ∧ (w.hart h).icache = [] ∧ (w.hart h).stores = [] ∧
          (w.hart h).lr = none) ∧
        (∀ l, nHas l w.poison = true ↔ nHas l s.poison = true ∨ ∃ h, mine h ∧
          ((l, 2) ∈ (s.hart h).cache ∨ ∃ st ∈ (s.hart h).stores, l ∈ linesOf st.pa st.bytes.length)) ∧
        ∀ j : Nat, w.pkg.slowDevs[j]? = (s.pkg.slowDevs[j]?).map (fun (x : Nat × Nat × Nat × Nat) =>
          if x.1 = d.val then (x.1, x.2.1, x.2.2.1, 2) else x)))) ∧
    (∀ cc : Fin 4,
      let l := s.hlink cc.val
      let only (x : HostLink) (w : State) : Prop := w = { s with hlinks := w.hlinks } ∧ w.hlink cc.val = x ∧
        ∀ j, j ≠ cc.val → w.hlink j = s.hlink j
      Does (.hostLinkDown cc) s (only (if l.state = 2 ∨ l.state = 4 then { l with state := 3, trainFails := 0, sbHeld := false } else l)) ∧
      Does (.hostLinkLost cc) s (only (if l.state = 3 then { l with
        state := 5, lost := min 0xF (l.lost + 1), trainFails := 0, sbHeld := false } else l)) ∧
      (∀ n, l.state = 2 ∨ l.state = 4 → Does (.ucieRetry cc n) s (only { l with retries := min 0xFFFF (l.retries + n) })) ∧
      (∀ n, l.state ≠ 2 → l.state ≠ 4 → exec (.ucieRetry cc n) s = .next s) ∧
      (∀ (m h : BitVec 8),
        let held := l.sbHeld = true ∧ s.holding = true
        let record := m.toNat + 256 * (h &&& m).toNat
        (∀ ok, held → exec (.hostLinkRetrainComplete cc ok m h) s = .next s) ∧
        (l.state = 1 ∨ l.state = 3 → ¬ held → Does (.hostLinkRetrainComplete cc true m h) s (only { l with
          state := 2, modules := m.toNat, half := (h &&& m).toNat, trainFails := 0, planPending := false, xchgFails := 0
          record := record, far := record, disagree := false, sbHeld := false })) ∧
        (l.state = 1 → ¬ held → Does (.hostLinkRetrainComplete cc false m h) s (only { l with state := 5 })) ∧
        (l.state = 3 → ¬ held → 2 ≤ l.trainFails → Does (.hostLinkRetrainComplete cc false m h) s (only { l with
          state := 5, lost := min 0xF (l.lost + 1), trainFails := 0, sbHeld := false })) ∧
        (l.state = 3 → ¬ held → l.trainFails < 2 → Does (.hostLinkRetrainComplete cc false m h) s
          (only { l with trainFails := l.trainFails + 1 })) ∧
        (∀ ok, l.state ≠ 1 → l.state ≠ 3 → exec (.hostLinkRetrainComplete cc ok m h) s = .next s)))

/-- R327–R332, R378: Tickets of harts: the transmit registers, when a Ticket leaves, that it is placed with the next number
of its pair and its MSI sent, that a pop frees the oldest slot, and the command that a Ticket brings to the Signal Box. -/
def Obligations.Tickets : Prop :=
  ∀ s : State,
    (∀ h : Fin 128,
      let g := s.hart h.val
      let me := 0x20000000 + h.val
      let only (x : Hart) (w : State) : Prop := w = { s with harts := w.harts } ∧ w.hart h.val = x ∧
        ∀ j, j ≠ h.val → w.hart j = s.hart j
      (∀ (i : Fin 8) v,
        (g.txState = 1 → Does (.tkTxDataWrite h i v) s (only { g with overrun := true })) ∧
        (g.txState ≠ 1 → Does (.tkTxDataWrite h i v) s (only { g with txData := put 0 g.txData i.val v }))) ∧
      (∀ dest : BitVec 32,
        let p := s.ep dest.toNat
        let payload := (List.range 8).flatMap (fun i => leBytes 8 (look 0 g.txData i).toNat)
        let free := decide (p.slots.length + p.inflight.length < 8)
        (g.txState = 1 → Does (.tkTxSend h dest) s (only { g with overrun := true })) ∧
        (g.txState ≠ 1 → epAccepts s dest.toNat g.sendAsn payload = false →
          Does (.tkTxSend h dest) s (only { g with txState := 4 })) ∧
        (g.txState ≠ 1 → epAccepts s dest.toNat g.sendAsn payload = true → g.nack = true → free = false ∨ p.waiting ≠ [] →
          Does (.tkTxSend h dest) s (only { g with txState := 3 })) ∧
        (g.txState ≠ 1 → epAccepts s dest.toNat g.sendAsn payload = true → p.waiting = [] →
          (free = true → (∀ t ∈ p.inflight, t.sender ≠ me) → Does (.tkTxSend h dest) s (fun w =>
            w = { s with harts := w.harts, eps := w.eps } ∧ w.hart h.val = { g with txState := 1 } ∧
            w.ep dest.toNat = { p with inflight := p.inflight ++ [{ sender := me, asn := g.sendAsn, payload := payload }] } ∧
            ∀ j, j ≠ dest.toNat → w.ep j = s.ep j)) ∧
          (free = false → g.nack = false → Does (.tkTxSend h dest) s (fun w =>
            w = { s with harts := w.harts, eps := w.eps } ∧ w.hart h.val = { g with txState := 1 } ∧
            w.ep dest.toNat = { p with waiting := [{ sender := me, asn := g.sendAsn, payload := payload }] } ∧
            ∀ j, j ≠ dest.toNat → w.ep j = s.ep j)))) ∧
      ((s.ep me).slots = [] → exec (.tkRxPop h) s = .next s) ∧
      (∀ t ts, (s.ep me).slots = t :: ts → (s.ep me).waiting = [] → Does (.tkRxPop h) s (fun w =>
        w = { s with eps := w.eps } ∧ w.ep me = { s.ep me with slots := ts } ∧ ∀ j, j ≠ me → w.ep j = s.ep j)) ∧
      (∀ v : Word,
        let file := if (v.extractLsb' 8 4).toNat ≤ 8 then (v.extractLsb' 8 4).toNat else g.msiFile
        let ident := (v.extractLsb' 0 8).toNat
        Does (.tkMsiWrite h v) s (only { g with
          msiEn := v.getLsbD 12, msiFile := file, msiId := ident
          eip := if v.getLsbD 12 = true ∧ g.msiEn = false ∧ (s.ep me).slots ≠ [] ∧ ident ≠ 0 then nIns (file * 256 + ident) g.eip
            else g.eip }))) ∧
    (∀ ep : BitVec 32,
      let p := s.ep ep.toNat
      (p.inflight = [] → exec (.ticketPlace ep) s = .next s) ∧
      (∀ t rest, p.inflight = t :: rest → p.waiting = [] → ticketHeld s ep.toNat = false → epKind t.sender = 2 →
        let key := t.sender * 2 ^ 32 + ep.toNat
        let n := (look 0 s.pairs key + 1) % 2 ^ 32
        let tk : Ticket := { sender := t.sender, seq := n, payload := t.payload }
        (epKind ep.toNat = 1 ∨ epKind ep.toNat = 2 → Does (.ticketPlace ep) s (fun w =>
          w = { s with harts := w.harts, eps := w.eps, pairs := w.pairs } ∧
          w.ep ep.toNat = { p with inflight := rest, slots := p.slots ++ [tk] } ∧
          (∀ j, j ≠ ep.toNat → w.ep j = s.ep j) ∧ (∀ k, look 0 w.pairs k = if k = key then n else look 0 s.pairs k) ∧
          ((s.hart (epIdx t.sender)).txState = 1 →
            (w.hart (epIdx t.sender)).txState = 2 ∧ (w.hart (epIdx t.sender)).txSeq = n) ∧
          (let g := s.hart (epIdx ep.toNat)
           epKind ep.toNat = 2 → g.msiEn = true → g.msiId ≠ 0 →
            nHas (g.msiFile * 256 + g.msiId) (w.hart (epIdx ep.toNat)).eip = true))) ∧
        (ep = 0x40000000 → s.sig.cmds = [] → (sbParse tk).bad = false → Does (.ticketPlace ep) s (fun w =>
          w.sig.cmds = [sbParse tk] ∧ w.ep ep.toNat = { p with inflight := rest, slots := p.slots ++ [tk] } ∧ w.mem = s.mem))))

/-- R204, R224, R336–R346, R349, R359: frames of Mainline: one with a bad FCS or a bad CRC is counted and dropped, one for
another package is dropped, one received before is only acknowledged, and a new one takes effect once and is acknowledged. How a request
presents its length and operands is the model's convention (log entry 75). -/
def Obligations.MainlineFrames : Prop :=
  ∀ (s : State) (p : Fin 8) (f : Frame337) (chk : FrameCheck),
    let rows : List (Nat × (Fin 8 → Frame337 → FrameCheck → Instr)) := [(0x01, .mlWrite), (0x02, .mlGuardWrite),
      (0x03, .mlReadRequest), (0x04, .mlReadResponse), (0x05, .mlAtomicRequest), (0x06, .mlAtomicResponse), (0x08, .mlRefusal),
      (0x10, .mlCollective), (0x22, .mlClaim), (0x23, .mlClaimResponse), (0x24, .mlRelease)]
    let plain : List (Nat × (Fin 8 → Frame337 → FrameCheck → Instr)) := [(0x07, .mlAcknowledgement), (0x20, .mlProbe),
      (0x21, .mlProbeResponse)]
    let sound (n : Nat) : Prop := chk.fcsOk = true ∧ chk.crc = crc32c (frameBytes { f with type := n })
    let q := s.path f.src
    let isAck (x : WireFrame) : Prop := x.frame.type = 7 ∧ x.frame.src = s.pkgId ∧ x.frame.dst = f.src ∧
      x.frame.opTag = f.opTag ∧ x.crc = crc32c (frameBytes x.frame)
    let received (w : State) : Prop := (w.path f.src).rxAck = (q.receive f.psn).rxAck ∧
      (w.path f.src).rxSeen = (q.receive f.psn).rxSeen ∧ ∃ a rest, w.sent = a :: rest ∧ isAck a
    let answered (w : State) (type : Nat) (payload : List Byte) : Prop := ∃ u ∈ (w.path f.src).unacked,
      u.frame.type = type ∧ u.frame.dst = f.src ∧ u.frame.opTag = f.opTag ∧ u.frame.payload = payload
    let new := frameForUs s p.val f = true ∧ q.isNew f.psn = true
    let x? := findRop s f.opTag
    let pair := min f.src (u16At f.payload 0) * 65536 + max f.src (u16At f.payload 0)
    (∀ row ∈ rows ++ plain,
      (s.portUp p.val = true → ¬ sound row.1 → Does (row.2 p f chk) s (fun w => w = { s with ports := w.ports } ∧
        w.port p.val = { s.port p.val with fcsErr := min 0xFFFF ((s.port p.val).fcsErr + 1) } ∧
        ∀ j, j ≠ p.val → w.port j = s.port j)) ∧
      (s.portUp p.val = false → exec (row.2 p f chk) s = .next s) ∧
      (sound row.1 → frameForUs s p.val f = false → exec (row.2 p f chk) s = .next s)) ∧
    (∀ row ∈ rows, sound row.1 → frameForUs s p.val f = true →
      (nHas (f.psn % 2 ^ 32) q.rxSeen = true ∨ 2 ^ 31 ≤ q.ahead f.psn → Does (row.2 p f chk) s (fun w =>
        w = { s with nonce := w.nonce, sent := w.sent } ∧ ∃ a, isAck a ∧ w.sent = a :: s.sent)) ∧
      (nHas (f.psn % 2 ^ 32) q.rxSeen = false → 4096 ≤ q.ahead f.psn → q.ahead f.psn < 2 ^ 31 →
        exec (row.2 p f chk) s = .next s)) ∧
    -- a write lands at its address, or is refused
    (∀ row ∈ ([(0x01, .mlWrite), (0x02, .mlGuardWrite)] : List (Nat × (Fin 8 → Frame337 → FrameCheck → Instr))), sound row.1 → new →
      (∀ t pa, windowCheck s (p.val / 4) f 0 f.payload.length .w = (t, .ok [(pa, f.payload.length)]) →
        memWaits t pa f.payload.length = false → pa + f.payload.length ≤ t.uBytes →
        (∀ a, pa ≤ a → a < pa + f.payload.length → inMirror t a = false) →
        Does (row.2 p f chk) s (fun w => received w ∧ memRead w pa f.payload.length = f.payload ∧
          ∀ a, (a < pa ∨ pa + f.payload.length ≤ a) → memByte w a = memByte t a)) ∧
      (∀ t, windowCheck s (p.val / 4) f 0 f.payload.length .w = (t, .refused) →
        Does (row.2 p f chk) s (fun w => received w ∧ answered w 8 [] ∧ w.mem = t.mem)) ∧
      (∀ t, windowCheck s (p.val / 4) f 0 f.payload.length .w = (t, .wait) → exec (row.2 p f chk) s = .next s) ∧
      (∀ t l, windowCheck s (p.val / 4) f 0 f.payload.length .w = (t, .ok l) → piecesWait t l = true →
        exec (row.2 p f chk) s = .next s)) ∧
    (sound 0x03 → new → (u32At f.payload 0 = 0 ∨ 2 ^ 20 < u32At f.payload 0) →
      Does (.mlReadRequest p f chk) s (fun w => received w ∧ answered w 8 [] ∧ w.mem = s.mem)) ∧
    (∀ t, sound 0x03 → new → 0 < u32At f.payload 0 → u32At f.payload 0 ≤ 2 ^ 20 →
      windowCheck s (p.val / 4) f 1 (u32At f.payload 0) .r = (t, .refused) →
      Does (.mlReadRequest p f chk) s (fun w => received w ∧ answered w 8 [] ∧ w.mem = t.mem)) ∧
    (∀ t l, sound 0x03 → new → 0 < u32At f.payload 0 → u32At f.payload 0 ≤ 2 ^ 20 →
      windowCheck s (p.val / 4) f 1 (u32At f.payload 0) .r = (t, .ok l) → piecesWait t l = false →
      Does (.mlReadRequest p f chk) s (fun w => received w ∧ w.mem = t.mem ∧
        ∃ us : List Unacked, (w.path f.src).unacked = q.unacked ++ us ∧
          (∀ u ∈ us, u.frame.type = 4 ∧ u.frame.dst = f.src ∧ u.frame.opTag = f.opTag) ∧
          us.map (fun u => u.frame.payload) = (respRuns f.addr (memPB t l)).map (fun r => r.2.map Prod.fst))) ∧
    (let aop := u16At f.payload 0 % 16
     let size := u16At f.payload 0 / 16 % 4
     sound 0x05 → new →
      (aopOk aop size = false ∨ f.addr % atomicBytes size ≠ 0 →
        Does (.mlAtomicRequest p f chk) s (fun w => received w ∧ answered w 8 [] ∧ w.mem = s.mem)) ∧
      (∀ t pa n l, aopOk aop size = true → f.addr % atomicBytes size = 0 →
        windowCheck s (p.val / 4) f 2 (atomicBytes size) .a = (t, .ok ((pa, n) :: l)) →
        Does (.mlAtomicRequest p f chk) s (fun w => received w ∧ w.mem = t.mem ∧ ∃ x : Atomic,
          w.atomics = t.atomics ++ [(t.nextKey, x)] ∧ x.src = 1 ∧ x.va = pa ∧ x.aop = aop ∧ x.size = atomicBytes size ∧
          x.op = w64At f.payload 8 ∧ x.cmp = w64At f.payload 16))) ∧
    -- responses and refusals of this package's own operations
    (∀ x, new → x? = some x → (ropF x.entry).dst = f.src → x.final = none → (s.roRing (8 * x.tm + x.ring)).resetting = false →
      let e := ropF x.entry
      let ends (w : State) : Prop := findRop w f.opTag = none ∧ (w.roRing (8 * x.tm + x.ring)).seqEnded = x.seq
      (∀ t, e.opc = 1 → x.fetched = [] → x.fault = none → f.payload ≠ [] →
        let off := (f.addr + 2 ^ 64 - e.remote) % 2 ^ 64
        let piece := (off, (if f.flags.testBit 2 then 1 else 0) :: f.payload)
        off + f.payload.length ≤ e.len →
        ropLand (modRop s f.opTag (fun y => { y with fetched := y.fetched ++ [piece] })) { x with fetched := [piece] } off
          f.payload (f.flags.testBit 2) = (t, true) →
        (x.landed + f.payload.length < e.len → sound 0x04 → Does (.mlReadResponse p f chk) s (fun w => received w ∧ w.mem = t.mem ∧
          findRop w f.opTag = some { x with
            landed := x.landed + f.payload.length, poison := x.poison || f.flags.testBit 2 })) ∧
        (e.len ≤ x.landed + f.payload.length → e.record = 0 → e.ctEn = false →
          sound 0x04 → Does (.mlReadResponse p f chk) s (fun w => received w ∧ w.mem = t.mem ∧ ends w))) ∧
      (e.opc = 2 → e.local_ = 0 → e.record = 0 → e.ctEn = false →
        sound 0x06 → Does (.mlAtomicResponse p f chk) s (fun w => received w ∧ w.mem = s.mem ∧ ends w)) ∧
      ((∀ u ∈ q.unacked ++ q.guarded, u.frame.opTag ≠ f.opTag) → q.guarded = [] → e.record = 0 → e.ctEn = false →
        sound 0x08 → Does (.mlRefusal p f chk) s (fun w => received w ∧ w.mem = s.mem ∧ ends w ∧ (w.path f.src).unacked = q.unacked))) ∧
    -- collectives: a frame is kept for a member's own descriptor that is still to come, or joins its contributions
    (let g := f.addr / 2 ^ 56 % 256
     let tag := f.addr / 2 ^ 24 % 2 ^ 32
     new →
      (s.colls = [] → s.early = [] → sound 0x10 → Does (.mlCollective p f chk) s (fun w => received w ∧ w.colls = [] ∧
        w.early = [{ group := g, tag := tag, frames := [f] }] ∧ w.mem = s.mem)) ∧
      (∀ c rank, s.colls = [c] → collMatches c f = true → c.members.idxOf? f.src = some rank → c.final = none →
        f.flags.testBit 0 = false → f.flags.testBit 1 = false → f.payload.take 16 = collParams (collF c.words) →
        let c' : Coll := { c with contribs := c.contribs ++
          [{ rank := rank, off := f.addr % 2 ^ 24 * 64, data := f.payload.drop 16, poison := f.flags.testBit 2 }] }
        collReady c' = false →
        sound 0x10 → Does (.mlCollective p f chk) s (fun w => received w ∧ w.colls = [c'] ∧ w.mem = s.mem))) ∧
    -- claims: the first is granted, any other refused; an answer other than a grant isolates; a release frees the grant
    (new →
      let won := look 0 s.td.granted pair
      (won = 0 ∨ won = f.src + 1 → sound 0x22 → Does (.mlClaim p f chk) s (fun w => received w ∧ answered w 0x23 [1] ∧
        ∀ k, look 0 w.td.granted k = if k = pair then f.src + 1 else look 0 s.td.granted k)) ∧
      (won ≠ 0 → won ≠ f.src + 1 → sound 0x22 → Does (.mlClaim p f chk) s (fun w => received w ∧ answered w 0x23 [0] ∧ w.td = s.td)) ∧
      (sound 0x24 → Does (.mlRelease p f chk) s (fun w => received w ∧
        ∀ k, look 0 w.td.granted k = if k = pair ∧ won = f.src + 1 then 0 else look 0 s.td.granted k)) ∧
      (s.td.state = 9 → s.td.restoring = none → f.src ∈ witnesses s →
        (f.payload.getD 0 0 ≠ 1 → sound 0x23 → Does (.mlClaimResponse p f chk) s (fun w => w.td.state = 0x0A ∧ w.td.keyed = false ∧
          ∀ e, e < 256 → tdPart s e = true → (w.eng e).state ≠ .running)) ∧
        (f.payload.getD 0 0 = 1 → (nIns f.src s.td.grants).length < (witnesses s).length / 2 + 1 →
          sound 0x23 → Does (.mlClaimResponse p f chk) s (fun w => received w ∧ w.td = { s.td with grants := nIns f.src s.td.grants })) ∧
        (f.payload.getD 0 0 = 1 → (witnesses s).length / 2 + 1 ≤ (nIns f.src s.td.grants).length →
          (∀ i, i < 256 → region s (s.td.takeover / 4096 * 4096 + 16 * i) ≠ .unified) →
          sound 0x23 → Does (.mlClaimResponse p f chk) s (fun w => received w ∧ w.td.state = 0x0B ∧ w.td.mirrorIsMemory = true ∧
            w.td.discarded = min 0xFFFFFFFF s.td.rx.length ∧ w.td.restored = [] ∧ w.mem = s.mem)))) ∧
    -- frames without a number
    (frameForUs s p.val f = true →
      (q.guarded = [] → (∀ u ∈ q.unacked, ackCovers f u.frame.psn = true → isWrite u.frame = false) →
        sound 0x07 → Does (.mlAcknowledgement p f chk) s (fun w => w = { s with paths := w.paths } ∧
          w.path f.src = { q with unacked := q.unacked.filter (fun u => !ackCovers f u.frame.psn) } ∧
          ∀ j, j ≠ f.src → w.path j = s.path j)) ∧
      (f.payload.getD 0 0 ≠ 1 → sound 0x20 → Does (.mlProbe p f chk) s (fun w =>
        w = { s with nonce := w.nonce, sent := w.sent } ∧ ∃ a, w.sent = a :: s.sent ∧ a.frame.type = 0x21 ∧ a.frame.dst = f.src ∧
          a.frame.payload = leBytes 1 (upMask s))) ∧
      (f.payload.getD 0 0 = 1 → sound 0x20 → Does (.mlProbe p f chk) s (fun w => (w.path f.src).rxAck = 0 ∧ (w.path f.src).rxSeen = [] ∧
        (∀ j, j ≠ f.src → w.path j = s.path j) ∧ ∃ a, w.sent = a :: s.sent ∧ a.frame.type = 0x21 ∧ a.frame.dst = f.src)) ∧
      (sound 0x21 → Does (.mlProbeResponse p f chk) s (fun w => w = { s with paths := w.paths, td := w.td } ∧
        (w.path f.src).peerPorts = (f.payload.getD 0 0).toNat ∧ (w.path f.src).unreachable = false ∧
        (q.unreachable = false → w.path f.src = { q with peerPorts := (f.payload.getD 0 0).toNat }) ∧
        (q.unreachable = true → (w.path f.src).txPsn = 0 ∧ (w.path f.src).rxAck = 0 ∧ (w.path f.src).rxSeen = []) ∧
        w.td = if s.td.state = 4 ∧ s.td.probes ≠ 0 ∧ f.src = s.td.partner then { s.td with viaMl := true, probes := 0 } else s.td)))

/-- R334, R336, R338, R340, R341: Mainline ports, retransmission, a destination that becomes unreachable and is probed, and
the invalidation of cached window entries. -/
def Obligations.MainlinePaths : Prop :=
  ∀ s : State,
    (∀ p : Fin 8,
      let x := s.port p.val
      let only (y : MlPort) (w : State) : Prop := w = { s with ports := w.ports } ∧ w.port p.val = y ∧
        ∀ j, j ≠ p.val → w.port j = s.port j
      (∀ n : BitVec 4, (n = 1 ∨ n = 2 → Does (.mlLinkUp p n) s
          (only (if x.disable then x else { x with state := 2, speed := n.toNat }))) ∧
        (n ≠ 1 → n ≠ 2 → exec (.mlLinkUp p n) s = .next s)) ∧
      Does (.mlLinkDown p) s (only (if x.disable then x else { x with state := 0, speed := 0 })) ∧
      Does (.mlPortDisable p true) s (only { x with disable := true, state := 3, speed := 0 }) ∧
      Does (.mlPortDisable p false) s (only (if x.disable then { x with disable := false, state := 1 } else x))) ∧
    (∀ pkg psn,
      let q := s.path pkg
      ((∀ u ∈ q.unacked, u.frame.psn = psn → 12 ≤ u.tries) → exec (.mlRetransmitTimeout pkg psn) s = .next s) ∧
      (∀ u, q.unacked = [u] → u.frame.psn = psn → u.tries < 12 → Does (.mlRetransmitTimeout pkg psn) s (fun w =>
        (∃ k, (w.path pkg).unacked = [{ u with tries := u.tries + 1, timeout := min 2000 (2 * u.timeout), port := k }]) ∧
        (upPorts s (pathTm s pkg) = [] → w.sent = s.sent) ∧
        (upPorts s (pathTm s pkg) ≠ [] → ∃ a, w.sent = a :: s.sent ∧ a.frame = u.frame ∧ a.port ∈ upPorts s (pathTm s pkg) ∧
          a.crc = crc32c (frameBytes u.frame) ∧ ((∃ k ∈ upPorts s (pathTm s pkg), k ≠ u.port) → a.port ≠ u.port)) ∧ w.mem = s.mem ∧
        ∀ j, j ≠ pkg → w.path j = s.path j))) ∧
    (∀ pkg,
      let q := s.path pkg
      (q.unreachable = true ∨ (∀ u ∈ q.unacked, u.tries < 12) → exec (.destinationUnreachable pkg) s = .next s) ∧
      (q.unreachable = false → (∃ u ∈ q.unacked, 12 ≤ u.tries) → s.streams = [] → s.colls = [] →
        (s.remOps = [] → Does (.destinationUnreachable pkg) s (fun w =>
          w = { s with
            paths := w.paths
            sig := { s.sig with unreachLast := pkg, unreachCount := min 0xFFFFFFFF (s.sig.unreachCount + 1) } } ∧
          w.path pkg = { q with unreachable := true, unacked := [], guarded := [] } ∧ ∀ j, j ≠ pkg → w.path j = s.path j)) ∧
        (∀ x, s.remOps = [x] → (ropF x.entry).dst = pkg → x.final = none → (ropF x.entry).record = 0 → (ropF x.entry).ctEn = false →
          (s.roRing (8 * x.tm + x.ring)).resetting = false →
          Does (.destinationUnreachable pkg) s (fun w => w.remOps = [] ∧ (w.path pkg).unreachable = true ∧
            (w.roRing (8 * x.tm + x.ring)).seqEnded = x.seq ∧ w.mem = s.mem))) ∧
      (q.unreachable = false → exec (.unreachableProbeTimer pkg) s = .next s) ∧
      (q.unreachable = true → pkgIdOk s.pkgId = true → Does (.unreachableProbeTimer pkg) s (fun w =>
        w = { s with nonce := w.nonce, sent := w.sent } ∧ (upPorts s (pathTm s pkg) = [] → w.sent = s.sent) ∧
        (upPorts s (pathTm s pkg) ≠ [] → ∃ a, w.sent = a :: s.sent ∧ a.frame.type = 0x20 ∧ a.frame.dst = pkg ∧
          a.frame.src = s.pkgId)))) ∧
    (∀ tm : Fin 2, exec (.mlWinInv tm) s = .next { s with winCache := [], winInv := true })

/-- R352–R360, R415, R416: the tandem pair: pairing, authentication, the copy, logged writes and checkpoints, the closing of
an epoch, leaving, the loss of contact, claims, RESUME and the lanes. What a frame of the port carries is the model's
convention (log entries 78 and 79). -/
def Obligations.TandemPair : Prop :=
  ∀ s : State,
    let t := s.td
    let idle := t.state = 0 ∨ t.state = 5 ∨ t.state = 6 ∨ t.state = 7 ∨ t.state = 8 ∨ t.state = 0xC
    let td (x : Tandem) (w : State) : Prop := w = { s with td := x }
    let live := t.keyed = true ∧ (t.lanesUp ≠ 0 ∨ t.viaMl = true) ∧ (t.state = 3 ∨ t.state = 4)
    let asked (w : State) (type pkg : Nat) : Prop := ∃ u ∈ (w.path pkg).unacked, u.frame.type = type ∧ u.frame.dst = pkg
    let probed (w : State) : Prop := (upPorts s (pathTm s t.partner) = [] → w.sent = s.sent) ∧
      (upPorts s (pathTm s t.partner) ≠ [] → ∃ a, w.sent = a :: s.sent ∧ a.frame.type = 0x20 ∧ a.frame.dst = t.partner)
    let image := (t.mirror.extractLsb' 28 36).toNat * 65536
    -- TD_CTRL
    (∀ v : Word, idle → Does (.tdCtrlEnable v) s (fun w => w = { s with td := w.td } ∧ w.td.enable = true ∧
      w.td.partner = (v.extractLsb' 48 16).toNat ∧ w.td.dead = (v.extractLsb' 40 8).toNat ∧ w.td.hostPart = v.getLsbD 36 ∧
      w.td.notifyEn = v.getLsbD 35 ∧ w.td.endpoint = (v.extractLsb' 0 32).toNat ∧
      w.td.state = if s.feat 6 = true then (if t.lanesUp = 0 then 1 else 2) else t.state)) ∧
    (t.state = 4 → t.enable = true → s.holding = false → Does .tdCtrlDisable s (fun w => w.td.enable = false ∧ w.td.state = 0 ∧
      w.td.closed = t.opened ∧ w.td.log = [] ∧ w.td.rx = [] ∧ w.td.keyed = false ∧ w.td.leaveSent = true ∧ w.mem = s.mem)) ∧
    (t.state = 4 → t.enable = true → s.holding = true → Does .tdCtrlDisable s (fun w => w.td.enable = false ∧ w.td.state = 4 ∧
      w.td.log = t.log ∧ w.td.opened = t.opened)) ∧
    (t.state ≠ 4 → t.state ≠ 0 → Does .tdCtrlDisable s (fun w => w.td.enable = false ∧ w.td.state = 0 ∧ w.td.log = [] ∧
      w.td.keyed = false ∧ w.td.grants = [] ∧ w.mem = s.mem)) ∧
    (t.enable = true → ¬ idle → Does .tdCtrlHostStation s (fun w => w = { s with td := w.td } ∧ w.td.hostStation = true ∧
      w.td.state = t.state ∧ w.td.opened = t.opened ∧ w.td.log = t.log)) ∧
    (t.enable = true → t.state = 0xD → Does .tdCtrlForce s (fun w => w.td.state = 9 ∧ w.td.grants = [] ∧ w.mem = s.mem ∧
      (pkgIdOk s.pkgId = true → ∀ x ∈ witnesses s, asked w 0x22 x))) ∧
    (t.enable = true → t.state = 0xB → t.deadAfterGrant = false → Does .tdCtrlResume s (fun w => w = { s with td := w.td } ∧
      w.td.resume = true ∧ w.td.state = 0xB ∧ w.td.restored = t.restored)) ∧
    (∀ e, t.enable = true → t.state = 0xB → t.deadAfterGrant = true → t.restored = [e] → t.stationCtr = [] →
      (s.eng e).state = .parked → (s.eng e).unplaced = false → (s.eng e).excs = [] → (∀ q, (s.eng e).queue q = []) →
      Does .tdCtrlResume s (fun w => w.td.state = 0xC ∧ w.td.resume = false ∧ (w.eng e).state = .running ∧ w.mem = s.mem)) ∧
    -- pairing
    (∀ a : TdAuth,
      (t.state ≠ 2 → exec (.tandemAuthenticate a) s = .next s) ∧
      (t.state = 2 →
        (a.ok = false → Does (.tandemAuthenticate a) s (td { t with state := 5 })) ∧
        (a.ok = true → Does (.tandemAuthenticate a) s (fun w => w = { s with td := w.td } ∧ w.td.pFeature = a.feature ∧
          (a.partner ≠ t.partner → w.td.state = 7 ∧ w.td.keyed = false) ∧
          (a.partner = t.partner → a.feature ≠ s.pkg.feature → w.td.state = 6 ∧ w.td.keyed = false) ∧
          (a.partner = t.partner → a.feature = s.pkg.feature → a.space = false → w.td.state = 8 ∧ w.td.keyed = false) ∧
          (a.partner = t.partner → a.feature = s.pkg.feature → a.space = true → w.td.state = 3 ∧ w.td.keyed = true ∧
            w.td.log = [] ∧ w.td.rx = [] ∧ w.td.ckpts = [])))) ∧
      (t.rekey = false → exec (.tandemRekey a) s = .next s) ∧
      (t.rekey = true → t.state = 3 ∨ t.state = 4 →
        (a.ok = true → Does (.tandemRekey a) s (td { t with rekey := false, tagFails := 0, txFrames := 0, rxFrames := 0 })) ∧
        (a.ok = false → Does (.tandemRekey a) s (td { t with rekey := false, state := 5, keyed := false })))) ∧
    (t.state ≠ 3 → exec .mirrorCopyComplete s = .next s) ∧
    (t.state = 3 → t.grants = [] → Does .mirrorCopyComplete s (td { t with state := 4, grants := [] })) ∧
    (t.state = 3 → t.grants ≠ [] → pkgIdOk s.pkgId = true → Does .mirrorCopyComplete s (fun w => w.td.state = 4 ∧
      w.td.grants = [] ∧ ∀ x ∈ witnesses s, asked w 0x24 x)) ∧
    -- frames of the partner
    (∀ f ok, t.keyed = false ∨ (t.lanesUp = 0 ∧ t.viaMl = false) ∨ (t.state ≠ 3 ∧ t.state ≠ 4) →
      exec (.tandemFrame f ok) s = .next s) ∧
    (live →
      (∀ f, Does (.tandemFrame f false) s (td { t with
        tagFails := t.tagFails + 1, rekey := t.rekey || decide (16 ≤ t.tagFails + 1) })) ∧
      Does (.tandemFrame .alive true) s (td { t with
        tagFails := 0, probes := 0, rxFrames := t.rxFrames + 1, rekey := t.rekey || decide (2 ^ 32 ≤ t.rxFrames + 1) }) ∧
      (∀ n off bs pz, n < 2 ^ 32 → t.unclosed n = true → Does (.tandemFrame (.write n off bs pz) true) s (fun w => w.mem = s.mem ∧
        w.td.rx = t.rx ++ [{ tag := n, addr := off, bytes := bs, poison := pz, seq := t.rxWrites + 1 }] ∧ w.td.state = t.state)) ∧
      (∀ n off bs pz, n < 2 ^ 32 → t.unclosed n = false → off + bs.length ≤ (t.mirror.extractLsb' 0 28).toNat * 65536 →
        Does (.tandemFrame (.write n off bs pz) true) s (fun w => w.td.rx = t.rx ∧
          (∀ i b, bs[i]? = some b → look 0 w.mem (image + off + i) = b) ∧
          ∀ a, (a < image + off ∨ image + off + bs.length ≤ a) → look 0 w.mem a = look 0 s.mem a)) ∧
      (∀ e n ws, e < 256 → n < 2 ^ 32 → t.rxCkpts = [] → Does (.tandemFrame (.checkpoint e n ws) true) s (fun w =>
        w.td.rxCkpts = [ckptOfWords e n ws] ∧ w.td.ckpts = t.ckpts ∧ w.mem = s.mem)) ∧
      (∀ n, Does (.tandemFrame (.ackWrites n) true) s (fun w => w = { s with td := w.td } ∧
        w.td.log = t.log.filter (fun x => decide (n ≤ x.seq)))) ∧
      (∀ e, Does (.tandemFrame (.ackCheckpoint e) true) s (fun w => w = { s with td := w.td } ∧
        w.td.ckptAcked = nIns e t.ckptAcked)) ∧
      (∀ n, t.unclosed (n % 2 ^ 32) = false → Does (.tandemFrame (.closed n) true) s (fun w => w.mem = s.mem ∧
        w.td.pEpoch = t.pEpoch ∧ w.td.rx = t.rx ∧ w.td.ckpts = t.ckpts)) ∧
      (∀ n x, n < 2 ^ 32 → t.unclosed n = true → t.rx = [x] → x.tag = n → t.rxBad = [] →
        x.addr + x.bytes.length ≤ (t.mirror.extractLsb' 0 28).toNat * 65536 →
        Does (.tandemFrame (.closed n) true) s (fun w => w.td.pEpoch = n ∧ w.td.rx = [] ∧
          (∀ i b, x.bytes[i]? = some b → look 0 w.mem (image + x.addr + i) = b) ∧
          ∀ a, (a < image + x.addr ∨ image + x.addr + x.bytes.length ≤ a) → look 0 w.mem a = look 0 s.mem a)) ∧
      (∀ bs, t.notifyEn = false → Does (.tandemFrame (.hold bs) true) s (td { t with
        tagFails := 0, probes := 0, rxFrames := t.rxFrames + 1, rekey := t.rekey || decide (2 ^ 32 ≤ t.rxFrames + 1) }))) ∧
    -- epochs and leaving
    (epochMayClose s = false → exec .epochClose s = .next s) ∧
    (epochMayClose s = true → Does .epochClose s (fun w => w.td.closed = t.opened ∧ w.td.opened = (t.opened + 1) % 2 ^ 32 ∧
      w.td.state = t.state ∧ w.td.hostStation = false ∧ w.td.epochAhead = [] ∧ w.td.ckptsOut = [] ∧ w.td.stationCtr = [] ∧
      w.td.log = t.log.filter (fun x => x.tag != t.opened) ∧ w.mem = s.mem)) ∧
    (t.state = 3 ∨ t.state = 4 → Does .tandemLeaveNotice s (fun w => w.td.state = 0xC ∧ w.td.log = [] ∧ w.td.keyed = false ∧
      w.td.stationCtr = [] ∧ w.mem = s.mem)) ∧
    (t.state ≠ 3 → t.state ≠ 4 → exec .tandemLeaveNotice s = .next s) ∧
    -- the loss of contact
    (t.state = 4 → t.probes = 0 → pkgIdOk s.pkgId = true → Does .tandemDeadTimeout s (fun w =>
      w = { s with td := { t with probes := 1 }, nonce := w.nonce, sent := w.sent } ∧ probed w)) ∧
    (t.state = 4 → t.probes ≠ 0 → exec .tandemDeadTimeout s = .next s) ∧
    (t.state = 0xB → t.resume = false → Does .tandemDeadTimeout s (td { t with deadAfterGrant := true })) ∧
    (t.state ≠ 4 → t.state ≠ 0xB → exec .tandemDeadTimeout s = .next s) ∧
    (t.state ≠ 4 ∨ t.probes = 0 → exec .tandemProbeTimer s = .next s) ∧
    (t.state = 4 → 0 < t.probes → t.probes < 3 → pkgIdOk s.pkgId = true → Does .tandemProbeTimer s (fun w =>
      w = { s with td := { t with probes := t.probes + 1 }, nonce := w.nonce, sent := w.sent } ∧ probed w)) ∧
    (t.state = 4 → 3 ≤ t.probes → witnesses s = [] → Does .tandemProbeTimer s (td { t with state := 0xD, probes := 0, log := [] })) ∧
    (t.state = 4 → 3 ≤ t.probes → witnesses s ≠ [] → pkgIdOk s.pkgId = true → Does .tandemProbeTimer s (fun w =>
      w.td.state = 9 ∧ w.td.grants = [] ∧ ∀ x ∈ witnesses s, asked w 0x22 x)) ∧
    (t.state ≠ 9 ∨ t.restoring ≠ none → exec .tandemClaimTimeout s = .next s) ∧
    (t.state = 9 → t.restoring = none → Does .tandemClaimTimeout s (fun w => w.td.state = 0xA ∧ w.td.keyed = false ∧
      w.td.log = [] ∧ ∀ e, e < 256 → tdPart s e = true → (w.eng e).state ≠ .running)) ∧
    -- the lanes
    (∀ half : Fin 2,
      Does (.tandemLanesDown half) s (td { t with lanesUp := t.lanesUp &&& (3 - 2 ^ half.val) }) ∧
      (termFailed s half.val = true → exec (.tandemLanesUp half) s = .next s) ∧
      (termFailed s half.val = false → Does (.tandemLanesUp half) s (td { t with
        lanesUp := t.lanesUp ||| 2 ^ half.val, state := if t.state = 1 then 2 else t.state })))

/-- R62, R65, R305, R313, R324, R362–R368, R394: Inspection, the quarantine of a Spire, unplaced engines, and the electrical
failure of a Spire or a Terminus. -/
def Obligations.InspectionAndLosses : Prop :=
  ∀ s : State,
    let awake := ∀ sp, (s.spire sp).drowse = false
    let still (e : Nat) : Prop := (s.stream (2 * e)).slots = [] ∧ (s.stream (2 * e + 1)).slots = [] ∧ s.launches = [] ∧
      (s.eng e).heldTc = [] ∧ (s.eng e).heldCtrl = [] ∧ (s.eng e).migrating = none ∧ (s.eng e).unplaced = false
    let marked (w : State) (site st : Nat) : Prop := (w.ident site).state = st ∧
      w.sig.failedDies = s.sig.failedDies ||| 2 ^ site ∧ w.sig.serviceDies = s.sig.serviceDies ||| 2 ^ site
    -- tests
    (∀ u pass, inspects s = false → exec (.inspectionTest u pass) s = .next s) ∧
    (∀ u, inspects s = true → awake → (∀ ch slot pattern seed, u ≠ .reserve ch slot pattern seed) →
      exec (.inspectionTest u true) s = .next s) ∧
    (∀ (ch : Fin 384) slot pattern seed pass, inspects s = true → slot < 2 ^ 21 → (s.chan ch.val).run = none →
      (tgFree s ch.val slot = true → (s.chan ch.val).serves = true ∨ (s.chan ch.val).state = .retired →
        Does (.inspectionTest (.reserve ch slot pattern seed) pass) s (fun w => w = { s with chans := w.chans } ∧
          (w.chan ch.val).run = some { pattern := pattern % 4, seed := seed, first := slot, last := slot } ∧
          (w.chan ch.val).sbRun = true)) ∧
      (tgFree s ch.val slot = false → Does (.inspectionTest (.reserve ch slot pattern seed) pass) s (fun w =>
        w = { s with chans := w.chans } ∧ (w.chan ch.val).run = none ∧ (w.chan ch.val).result = 2))) ∧
    (inspects s = true → awake →
      (∀ n : Fin 288, slotFree s n.val = true → (∀ e, e < 256 → (s.eng e).unplaced = true ∨ physSlot s e ≠ n.val) →
        Does (.inspectionTest (.slot n) false) s (fun w => w = { s with sig := w.sig, idents := w.idents } ∧ w.sig.logHead = s.sig.logHead + 1 ∧
          ∀ k, look 0 w.sig.slots k = if k = n.val then 4 else look 0 s.sig.slots k)) ∧
      (∀ tm : Fin 2, Does (.inspectionTest (.junction tm) false) s (fun w => w = { s with
        idents := w.idents
        sig := { s.sig with logHead := s.sig.logHead + 1, serviceDies := s.sig.serviceDies ||| 2 ^ (0x28 + tm.val) } })) ∧
      (∀ cc : Fin 4, (s.hlink cc.val).state = 2 ∨ (s.hlink cc.val).state = 4 →
        Does (.inspectionTest (.hostLink cc) false) s (fun w => (w.hlink cc.val).state = 3 ∧ w.mem = s.mem)) ∧
      (∀ ch : Fin 384, (s.chan ch.val).serves = true → (s.stack (ch.val / 32)).temp < 105 →
        (∀ i, i < 32 → (s.chan (32 * (ch.val / 32) + i)).state ≠ .retraining) →
        Does (.inspectionTest (.channel ch) false) s (fun w => (w.chan ch.val).state = .retraining ∧ w.mem = s.mem)) ∧
      (∀ (cc : Fin 4) (b : Fin 46), (s.link (bundleKey cc.val b.val)).state = .active →
        (s.link (bundleKey cc.val b.val)).retraining = false →
        (∀ i ∈ edgeBundles b.val, (s.link (bundleKey cc.val i)).planned = false) →
        Does (.inspectionTest (.bundle cc b) false) s (fun w => (w.link (bundleKey cc.val b.val)).state = .held ∧
          (w.link (bundleKey cc.val b.val)).retraining = true)) ∧
      (∀ (cc : Fin 4) (way : Fin 16), Does (.inspectionTest (.way cc way) false) s (fun w => w.mem = s.mem ∧
        (w.pc cc.val).waysRetired = (s.pc cc.val).waysRetired ||| 2 ^ way.val ∧
        (w.pc cc.val).waysOff = (s.pc cc.val).waysOff ||| 2 ^ way.val ∧
        (w.pc cc.val).lines = (s.pc cc.val).lines.filter (fun p => (p.2 - 1) / 2 != way.val))) ∧
      (∀ u : Fin 384, look 0 s.sig.cupSpare (u.val / 32) = 0 → s.sig.moving = none → (s.unit u.val).inv = none →
        Does (.inspectionTest (.cupola u) false) s (fun w => w = { s with sig := w.sig, idents := w.idents } ∧
          ∀ k, look 0 w.sig.cupSpare k = if k = u.val / 32 then u.val + 1 else look 0 s.sig.cupSpare k)) ∧
      (∀ (d : Fin 2) (c : Fin 72), Does (.inspectionTest (.core d c) false) s (fun w =>
        nHas c.val (w.host d.val).badCores = true ∧ (w.host d.val).coreMap = (s.host d.val).coreMap ∧ w.mem = s.mem)) ∧
      (∀ sp : Fin 8, (∀ e, e < 256 → liesOn s sp.val e = false) → Does (.inspectionTest (.stair sp) false) s (fun w =>
        w.sig.quarantined.testBit (8 + sp.val) = true ∧ w.mem = s.mem))) ∧
    -- a swap whose slot fails: the engine stays where it went, and the slot that it left is retired
    (∀ (e : Fin 256) (spare : Fin 288) pass, inspects s = false → exec (.inspectionSwap e spare pass) s = .next s) ∧
    (∀ (e : Fin 256) (spare : Fin 288), inspects s = true → awake → still e.val → look 0 s.sig.swapped e.val = 0 →
      s.feat 10 = true → (s.eng e.val).state = .running → mayMigrate s e.val spare.val = true →
      Does (.inspectionSwap e spare false) s (fun w => physSlot w e.val = spare.val ∧ look 0 w.sig.swapped e.val = 0 ∧
        look 0 w.sig.slots (physSlot s e.val) = 4 ∧ (w.eng e.val).state = .running ∧
        ∀ n, (w.eng e.val).sReg n = (s.eng e.val).sReg n)) ∧
    -- quarantine
    (∀ sp : Fin 8,
      (s.holding = true → exec (.spireQuarantine sp) s = .next s) ∧
      (s.holding = false → s.sig.quarantined.testBit (8 + sp.val) = false →
        ((∀ e, e < 256 → liesOn s sp.val e = false) → Does (.spireQuarantine sp) s (fun w =>
          w = { s with idents := w.idents, sig := w.sig } ∧ marked w (8 + sp.val) 2 ∧
          w.sig.quarantined = s.sig.quarantined ||| 2 ^ (8 + sp.val))) ∧
        (∀ e : Fin 256, awake → still e.val → s.stopping = false → (s.eng e.val).state = .idle →
          (∀ d, d < 256 → (liesOn s sp.val d = true ↔ d = e.val)) →
          ((∃ n, n < 288 ∧ n / 36 ≠ sp.val ∧ slotFree s n = true) → Does (.spireQuarantine sp) s (fun w =>
            marked w (8 + sp.val) 2 ∧ (w.eng e.val).unplaced = false ∧ physSlot w e.val / 36 ≠ sp.val ∧
            (w.eng e.val).state = .idle)) ∧
          ((∀ n, n < 288 → n / 36 ≠ sp.val → slotFree s n = false) → Does (.spireQuarantine sp) s (fun w =>
            marked w (8 + sp.val) 2 ∧ (w.eng e.val).unplaced = true ∧ (w.eng e.val).state = .parked ∧
            (w.eng e.val).cause = .software ∧ w.sig.unplaced = s.sig.unplaced ++ [e.val] ∧
            ∀ n, (w.eng e.val).sReg n = (s.eng e.val).sReg n))))) ∧
    (∀ slot : Fin 288,
      (s.sig.unplaced = [] ∨ s.holding = true ∨ slotFree s slot.val = false → exec (.unplacedEnginePlace slot) s = .next s) ∧
      (∀ e rest, s.sig.unplaced = e :: rest → e < 256 → s.holding = false → slotFree s slot.val = true → awake →
        (s.stream (2 * e)).slots = [] → (s.stream (2 * e + 1)).slots = [] → (s.eng e).heldTc = [] → (s.eng e).heldCtrl = [] →
        Does (.unplacedEnginePlace slot) s (fun w => w.sig.unplaced = rest ∧ (w.eng e).unplaced = false ∧
          physSlot w e = slot.val ∧ (w.eng e).state = (s.eng e).state ∧ ∀ n, (w.eng e).sReg n = (s.eng e).sReg n))) ∧
    -- failures
    (∀ sp : Fin 8, (∀ e, e < 256 → (s.eng e).migrating = none) → s.sig.ctxStore ≠ some 13 →
      ((∀ e, e < 256 → liesOn s sp.val e = false) → Does (.spireFailure sp) s (fun w => marked w (8 + sp.val) 3 ∧ w.mem = s.mem ∧
        ∀ i, i < 36 → look 0 w.sig.slots (36 * sp.val + i) = 6)) ∧
      (∀ e : Fin 256, (∀ d, d < 256 → (liesOn s sp.val d = true ↔ d = e.val)) → s.streams = [] → s.launches = [] →
        (s.eng e.val).heldTc = [] → (s.eng e.val).heldCtrl = [] → Does (.spireFailure sp) s (fun w => marked w (8 + sp.val) 3 ∧
          (w.eng e.val).state = .parked ∧ (w.eng e.val).cause = .fault ∧ (w.eng e.val).exc.map Exc.code = some 0x20 ∧
          (∀ n, (w.eng e.val).sReg n = 0) ∧ nHas e.val w.sig.lost = true ∧ w.mem = s.mem ∧
          ∀ l, nHas l w.poison = true ↔ nHas l s.poison = true ∨ (l, 2) ∈ (s.eng e.val).sc ∨
            ∃ st ∈ (s.eng e.val).own, l ∈ linesOf st.pa st.bytes.length))) ∧
    (∀ tm : Fin 2,
      (termFailed s tm.val = true → exec (.terminusFailure tm) s = .next s) ∧
      (termFailed s tm.val = false → s.remOps = [] → s.colls = [] → (sbOf s tm.val).role = .active →
        (sbOf s (1 - tm.val)).role = .standby → Does (.terminusFailure tm) s (fun w => w.mem = s.mem ∧
          (w.ident (0x28 + tm.val)).state = 3 ∧ w.sig.failedDies = s.sig.failedDies ||| 2 ^ (0x28 + tm.val) ∧
          (∀ i, i < 4 → (w.port (4 * tm.val + i)).state = 0) ∧ w.td.lanesUp = s.td.lanesUp &&& (3 - 2 ^ tm.val) ∧
          (sbOf w tm.val).role = .failed ∧ (sbOf w (1 - tm.val)).role = .active ∧
          w.sig.takeovers = min 0xFFFF (s.sig.takeovers + 1) ∧ w.sig.keeper = s.sig.keeper)))

/-- R369–R384: the Signal Boxes and the keepers: mismatches, progress, takeover, safe-hold and its release, the relief
controller, the consist record, and the commands WARM_RESET and SWITCH. -/
def Obligations.SignalBoxes : Prop :=
  ∀ s : State,
    let quiet := s.sig.keeper = .watching
    let held (w : State) : Prop := w.sig.keeper = .hold ∧ w.pkg.pwrgd = false ∧ w.sig.holds = s.sig.holds + 1 ∧
      ∀ e, (w.eng e).state ≠ .running
    let past (w : State) (t : Nat) : Prop := (sbOf w t).role = .active ∧ w.sig.takeovers = min 0xFFFF (s.sig.takeovers + 1) ∧
      w.mem = s.mem
    (∀ sb : Fin 2,
      let b := sbOf s sb.val
      let o := sbOf s (1 - sb.val)
      (b.role = .failed → exec (.sbProgressTick sb) s = .next s) ∧
      (b.role ≠ .failed → Does (.sbProgressTick sb) s (fun w => w = modSb s sb.val (fun _ => { b with progress := b.progress + 1 }))) ∧
      (∀ pair : Fin 4,
        let last := look 0 b.recentAt pair.val
        (b.role = .failed → exec (.sbPairMismatch sb pair) s = .next s) ∧
        (b.role ≠ .failed → last = 0 ∨ last + 999 ≤ b.progress → Does (.sbPairMismatch sb pair) s (fun w =>
          w = modSb s sb.val (fun _ => { b with
            restarts := min 0xFFFF (b.restarts + 1), recentAt := put 0 b.recentAt pair.val (b.progress + 1) }))) ∧
        (b.role = .active → last ≠ 0 → b.progress < last + 999 → o.role = .standby → Does (.sbPairMismatch sb pair) s (fun w =>
          (sbOf w sb.val).role = .failed ∧ (sbOf w sb.val).pairsOk = b.pairsOk &&& (15 - 2 ^ pair.val) ∧ past w (1 - sb.val) ∧
          w.sig.keeper = s.sig.keeper))) ∧
      -- a box that has made no progress
      (quiet → b.role = .failed → exec (.sbWatchTimeout sb) s = .next s) ∧
      (quiet → b.role = .active → o.role = .standby → Does (.sbWatchTimeout sb) s (fun w => (sbOf w sb.val).role = .failed ∧
        past w (1 - sb.val) ∧ w.sig.keeper = .watching)) ∧
      (quiet → b.role = .standby → o.role = .active → Does (.sbWatchTimeout sb) s (fun w => (sbOf w sb.val).role = .failed ∧
        (sbOf w (1 - sb.val)).role = .active ∧ w.sig.takeovers = s.sig.takeovers ∧ w.mem = s.mem)) ∧
      (quiet → b.role ≠ .failed → o.role = .failed → Does (.sbWatchTimeout sb) s (fun w => (sbOf w sb.val).role = .failed ∧ held w)) ∧
      (s.sig.keeper = .relief → b.role = .failed → Does (.sbWatchTimeout sb) s (fun w => held w ∧ w.sig.reliefHart = none)) ∧
      -- the release of a hold
      (∀ clean, s.sig.keeper ≠ .hold ∨ s.sig.restarted.testBit sb.val = true ∨ termFailed s sb.val = true ∨
        s.pkg.clocks.testBit 0 = false → exec (.holdRelease sb clean) s = .next s) ∧
      (s.sig.keeper = .hold → s.sig.restarted.testBit sb.val = false → termFailed s sb.val = false → s.pkg.clocks.testBit 0 = true →
        Does (.holdRelease sb false) s (fun w => w = { s with sig := w.sig } ∧ w.sig.keeper = .hold ∧
          (sbOf w sb.val).role = .failed ∧ w.sig.restarted.testBit sb.val = true) ∧
        ((s.fwOf sb.val).failed.testBit 0 = false → s.sig.reliefHart = none → Does (.holdRelease sb true) s (fun w =>
          w.sig.keeper = .watching ∧ (sbOf w sb.val).role = .active ∧ w.sig.takeovers = min 0xFFFF (s.sig.takeovers + 1))))) ∧
    -- the relief controller
    (∀ (cc : Fin 4) (hart : Fin 128) image,
      let refuses (r : Nat) : Prop := Does (.kpRelief cc hart image) s (fun w => w = { s with sig := { s.sig with reliefResult := r } })
      (s.sig.reliefAsk ≠ none ∨ s.sig.keeper = .relief → refuses 6) ∧
      (s.sig.reliefAsk = none →
        (s.sig.keeper = .watching ∨ s.sig.keeper = .holdRefused → refuses 4) ∧
        (s.sig.keeper = .hold →
          (s.feat 11 = false → refuses 5) ∧
          (s.feat 11 = true → termFailed s 0 = true → termFailed s 1 = true → refuses 3) ∧
          (s.feat 11 = true → termFailed s 0 = false ∨ termFailed s 1 = false → Does (.kpRelief cc hart image) s (fun w =>
            w = { s with sig := { s.sig with reliefAsk := some (cc.val, hart.val, image) } }))))) ∧
    (∀ c, s.sig.reliefAsk = none → exec (.reliefCoreStart c) s = .next s) ∧
    (∀ cc h image c, s.sig.reliefAsk = some (cc, h, image) →
      let found := reliefFound s (if termFailed s 0 then 1 else 0) image c
      (c.keyOk = false ∨ c.sigOk = false → found = none) ∧
      (found = none → Does (.reliefCoreStart c) s (fun w => w.sig = { s.sig with reliefAsk := none, reliefResult := 2 } ∧
        w.mem = s.mem ∧ w.sec = s.sec ∧ ∀ j, w.hart j = s.hart j)) ∧
      (∀ x, found = some x → (s.host 0).resetHeld = false → (s.host 1).resetHeld = false → Does (.reliefCoreStart c) s (fun w =>
        w.sig.keeper = .relief ∧ w.sig.reliefHart = some h ∧ w.sig.reliefResult = 1 ∧ w.sig.reliefs = s.sig.reliefs + 1 ∧
        w.sig.reliefAsk = none ∧ (w.host (h / 64)).relief = some h ∧ look 0 w.sec.meas 6 = x + 1))) ∧
    -- commands
    (s.sig.cmds = [] → exec .consist s = .next s ∧ exec .warmReset s = .next s ∧ exec .switch s = .next s ∧
      exec .hostReset s = .next s) ∧
    (∀ c, s.sig.cmds = [c] → s.holding = false → c.byTicket = false → c.keeper = none →
      let t := { s with sig := { s.sig with cmds := [] } }
      (c.op = 1 → bufferOk s c.addr = true → memWaits s c.addr 16384 = false →
        (∀ a, c.addr ≤ a → a < c.addr + 16384 → inMirror s a = false) → Does .consist s (fun w =>
          memRead w c.addr 16384 = consistRecord t 0 ∧ (∀ a, (a < c.addr ∨ c.addr + 16384 ≤ a) → memByte w a = memByte s a) ∧
          w.sig.cmds = [] ∧ w.sig.cmdResult = 0)) ∧
      (c.op = 1 → bufferOk s c.addr = false → Does .consist s (fun w => w.mem = s.mem ∧ w.sig.cmds = [] ∧ w.sig.cmdResult = 2)) ∧
      (c.op = 4 → s.stopping = false →
        (s.sig.sb0.role = .active → s.sig.sb1.role = .standby → Does .switch s (fun w => w.sig.sb0.role = .standby ∧
          past w 1 ∧ w.sig.cmds = [] ∧ w.sig.cmdResult = 0)) ∧
        (s.sig.sb1.role = .active → s.sig.sb0.role = .standby → Does .switch s (fun w => w.sig.sb1.role = .standby ∧
          past w 0 ∧ w.sig.cmds = [] ∧ w.sig.cmdResult = 0)) ∧
        (s.sig.sb0.role = .failed ∨ s.sig.sb1.role = .failed → Does .switch s (fun w => w.sig.sb0 = s.sig.sb0 ∧
          w.sig.sb1 = s.sig.sb1 ∧ w.sig.takeovers = s.sig.takeovers ∧ w.sig.cmds = [] ∧ w.sig.cmdResult = 1))) ∧
      (c.op = 3 → s.pkg.pwr = .running → s.pkg.resetPending = none → Does .warmReset s (fun w => w.pkg.pwr = .warmReset ∧
        w.pkg.resetPending = some 4 ∧ w.pkg.pwrgd = false ∧ w.sig.cmds = [] ∧ w.sig.cmdResult = 0))) ∧
    (∀ (cc : Fin 4) (v : Word),
      let addr := (v.extractLsb' 14 38).toNat * 16384
      ((v.extractLsb' 0 8).toNat ≠ 1 → exec (.kpCmdConsist cc v) s = .next s) ∧
      ((v.extractLsb' 0 8).toNat = 1 → s.holding = false → s.sig.cmds = [] → Does (.kpCmdConsist cc v) s (fun w =>
        w = { s with sig := { s.sig with cmds := [{ op := 1, arg := 0, addr := addr, reply := 0, keeper := some cc.val }] } })) ∧
      ((v.extractLsb' 0 8).toNat = 1 → s.holding = true →
        s.sig.keeperConsist ≠ [] ∨ (bufferOk s addr = true ∧ memWaits s addr 16384 = true) →
        Does (.kpCmdConsist cc v) s (fun w =>
          w = { s with sig := { s.sig with keeperConsist := s.sig.keeperConsist ++ [(cc.val, addr)] } })) ∧
      ((v.extractLsb' 0 8).toNat = 1 → s.holding = true → s.sig.keeperConsist = [] → bufferOk s addr = true →
        memWaits s addr 16384 = false →
        (∀ a, addr ≤ a → a < addr + 16384 → inMirror s a = false) → Does (.kpCmdConsist cc v) s (fun w =>
          memRead w addr 16384 = consistRecord s cc.val ∧ look 0 w.sig.consistResult cc.val = 0 ∧ w.sig.cmds = s.sig.cmds)) ∧
      ((v.extractLsb' 0 8).toNat = 1 → s.holding = true → s.sig.keeperConsist = [] → bufferOk s addr = false → Does (.kpCmdConsist cc v) s (fun w =>
        w.mem = s.mem ∧ look 0 w.sig.consistResult cc.val = 1)))

/-- R408–R418, R436: firmware update, SPDM requests, the debug lock and JTAG. -/
def Obligations.TrustAndDebug : Prop :=
  ∀ s : State,
    let sec (x : Security) (w : State) : Prop := w = { s with sec := x }
    (∀ tm : Fin 2,
      let f := s.fwOf tm.val
      let only (x : Firmware) (w : State) : Prop := w = { s with fw := w.fw } ∧ w.fwOf tm.val = x ∧ ∀ j, j ≠ tm.val → w.fwOf j = s.fwOf j
      (∀ (asn : Asn) (c : SigCheck),
        let chk := imageFound s f.addr c
        let code := if asn ≠ 0 then 6 else if f.busy then 5 else if chk.readable = false ∨ chk.manifestOk = false then 1
          else if chk.svn < f.svnFused then 3 else if chk.badComps ≠ 0 then 2 else 0
        let t := if asn = 0 ∧ f.busy = false then imageTouch s f.addr else s
        let leaves (x : Firmware) (w : State) : Prop := w = { t with fw := w.fw } ∧ w.mem = s.mem ∧ w.fwOf tm.val = x ∧
          ∀ j, j ≠ tm.val → w.fwOf j = s.fwOf j
        (c.keyOk = false ∨ c.sigOk = false → chk.readable = false ∨ chk.manifestOk = false) ∧
        (code ≠ 0 → Does (.fwCtrlProgram tm asn c) s (leaves { f with result := code })) ∧
        (code = 0 → Does (.fwCtrlProgram tm asn c) s (leaves { f with
          slotA := if f.slot = 1 then f.slotA else { known := true }
          slotB := if f.slot = 1 then { known := true } else f.slotB
          busy := true
          pending := some { accepted := true, known := true, svn := chk.svn, digest := chk.digest } }))) ∧
      (f.busy = false → ∀ ok, exec (.fwProgramComplete tm ok) s = .next s) ∧
      (∀ x, f.busy = true → f.pending = some x →
        Does (.fwProgramComplete tm true) s (only { f with
          slotA := if f.slot = 1 then f.slotA else x
          slotB := if f.slot = 1 then x else f.slotB
          busy := false, pending := none, result := 0 }) ∧
        Does (.fwProgramComplete tm false) s (only { f with busy := false, pending := none, result := 4 })) ∧
      (∀ asn : Asn,
        (asn ≠ 0 → Does (.fwCtrlCommitSvn tm asn) s (only { f with result := 6 })) ∧
        (asn = 0 → f.busy = true → Does (.fwCtrlCommitSvn tm asn) s (only { f with result := 5 })) ∧
        (asn = 0 → f.busy = false → Does (.fwCtrlCommitSvn tm asn) s (fun w => w = { s with fw := w.fw, sec := w.sec } ∧
          w.fwOf tm.val = { f with svnFused := max f.svnFused f.svnActive, result := 0 } ∧ ∀ j, j ≠ tm.val → w.fwOf j = s.fwOf j)))) ∧
    -- SPDM
    (s.pkg.pwr = .off → ∀ i ∈ ([.getVersion, .getCapabilities, .negotiateAlgorithms, .getDigests] : List Instr), exec i s = .next s) ∧
    (s.pkg.pwr = .off → ∀ slot x : BitVec 8, exec (.getCertificate slot) s = .next s ∧ exec (.challenge slot) s = .next s ∧
      exec (.getMeasurements slot x) s = .next s) ∧
    (s.pkg.pwr ≠ .off →
      Does .getVersion s (sec { s.sec with reply := .version }) ∧
      Does .getCapabilities s (sec { s.sec with reply := .capabilities }) ∧
      Does .negotiateAlgorithms s (sec { s.sec with reply := .algorithms }) ∧
      Does .getDigests s (sec { s.sec with reply := .digests (!termFailed s 0) (!termFailed s 1) }) ∧
      (∀ slot : BitVec 8,
        let ok := slot.toNat < 2 ∧ termFailed s slot.toNat = false
        let n := slot.toNat
        let there (i : Nat) : Prop := look 0 s.sec.meas i ≠ 0 ∧ (s.pkg.pwr = .standby → i = 1 ∨ i = 2 ∨ i = 7)
        (ok → Does (.getCertificate slot) s (sec { s.sec with reply := .certificate n }) ∧
          Does (.challenge slot) s (sec { s.sec with reply := .challengeAuth n n }) ∧
          Does (.getMeasurements slot 0) s (sec { s.sec with reply := .measurements [] n }) ∧
          Does (.getMeasurements slot 0xFF) s (fun w => ∃ l, sec { s.sec with reply := .measurements l n } w ∧
            (tabWf 0 s.sec.meas = true → ∀ i, i ∈ l ↔ there i)) ∧
          (∀ i : BitVec 8, i ≠ 0 → i ≠ 0xFF → tabWf 0 s.sec.meas = true →
            (there i.toNat → Does (.getMeasurements slot i) s (sec { s.sec with reply := .measurements [i.toNat] n })) ∧
            (¬ there i.toNat → Does (.getMeasurements slot i) s (sec { s.sec with reply := .error })))) ∧
        (¬ ok → Does (.getCertificate slot) s (sec { s.sec with reply := .error }) ∧
          Does (.challenge slot) s (sec { s.sec with reply := .error }) ∧
          ∀ i : BitVec 8, Does (.getMeasurements slot i) s (sec { s.sec with reply := .error })))) ∧
    -- the debug lock
    (∀ sigOk digestOk,
      let a := s.sec.tokenAddr
      let t := memRead s a 2484
      let site := (t.getD 6 0).toNat
      let readable := a + 2484 ≤ s.uBytes ∧ memPoisoned s a 2484 = false
      let mine := sitePopulated site = true ∧ leNat ((t.drop 16).take 3) = (s.ident site).serial % 2 ^ 24
      let fails (r : Nat) : Prop := Does (.dbgCmdSubmit sigOk digestOk) s (fun w =>
        w = { memTouch s a 2484 with sec := { s.sec with result := r } } ∧ w.mem = s.mem)
      (¬ readable → Does (.dbgCmdSubmit sigOk digestOk) s (sec { s.sec with result := 4 })) ∧
      (readable →
        ((w64At t 8).toNat ≠ s.sec.nonce → fails 3) ∧
        ((w64At t 8).toNat = s.sec.nonce →
          (¬ mine ∨ digestOk = false → fails 2) ∧
          (mine → digestOk = true → sigOk = false ∨ tokenForm t = false → fails 1) ∧
          (mine → digestOk = true → sigOk = true → tokenForm t = true → Does (.dbgCmdSubmit sigOk digestOk) s (fun w =>
            w.sec.result = 0 ∧ w.sec.unlocked = s.sec.unlocked ||| 2 ^ site ∧
            look 0 w.sec.scopes site = look 0 s.sec.scopes site ||| (t.getD 7 0).toNat ∧ (s.td.state = 4 → w.td.state = 0) ∧
            w.mem = s.mem))))) ∧
    (Does .dbgCmdRelock s (sec { s.sec with unlocked := 0, scopes := [] })) ∧
    -- JTAG
    (Does .bypass s (sec { s.sec with ir := .bypass, dr := 0, pinsDriven := 0 })) ∧
    (Does .idcode s (sec { s.sec with
      ir := .idcode, dr := (s.ident 0x28).stepping / 256 % 16 * 2 ^ 28 + 0x4A71, pinsDriven := 0 })) ∧
    (Does .samplePreload s (fun w => w = { s with nonce := w.nonce, sec := w.sec } ∧ w.sec.ir = .samplePreload ∧ w.sec.pinsDriven = 0)) ∧
    (∀ x ∈ ([(.extest, .extest, 1), (.clamp, .clamp, 2), (.highz, .highz, 3)] : List (Instr × JtagIr × Nat)),
      (s.pkg.pwrgd = false → Does x.1 s (sec { s.sec with ir := x.2.1, dr := 0, pinsDriven := x.2.2 })) ∧
      (s.pkg.pwrgd = true → Does x.1 s (sec { s.sec with ir := .bypass, dr := 0, pinsDriven := 0 })))

/-- R31–R36, R237, R281, R283, R362, R386–R392, R398, R408–R412, R434, R435: starts and resets: a start selects firmware,
checks the identities and either comes up, waits for a reference, is refused, or is held; a warm reset keeps memory and a
cold start clears it. -/
def Obligations.StartsAndResets : Prop :=
  ∀ s : State,
    -- a start from `u` with `cause`, at the report `r`
    let starts (i : Instr) (u : State) (cause : Nat) (r : StartReport) : Prop :=
      let u1 := startFirmware { u with
        pkg := { u.pkg with cause := cause, pwrgd := false }, sec := { u.sec with nonce := r.nonce.toNat } } r
      let u2 := quarantineSilent u1 r
      let dead := u1.sig.sb0.role = .failed ∧ u1.sig.sb1.role = .failed
      (dead → Does i s (fun w => w.sig.keeper = .hold ∧ w.pkg.cause = cause ∧ w.pkg.pwrgd = false)) ∧
      (¬ dead → ∀ code dies, identityCheck u2 r = some (code, dies) → Does i s (fun w => w.sig.keeper = .holdRefused ∧
        w.sig.refusal = code ∧ w.sig.refusalDies = dies ∧ w.pkg.cause = cause ∧ w.pkg.pwrgd = false)) ∧
      (¬ dead → identityCheck u2 r = none → r.clocks = 0xF → r.hostClock = true → Does i s (fun w => w.pkg.pwr = .running ∧
        w.sig.keeper = .watching ∧ w.pkg.cause = cause ∧ w.pkg.feature = featureLevel u2 ∧ w.sig.wa = (steppingTable u2).2 ∧
        w.pkg.pwrgd = !(u2.fwOf (activeSb u2)).failed.testBit 4 ∧ w.pkg.startWait = none)) ∧
      (¬ dead → identityCheck u2 r = none → ¬ (r.clocks = 0xF ∧ r.hostClock = true) → Does i s (fun w =>
        w.pkg.startWait = some cause ∧ w.pkg.pwr = u.pkg.pwr ∧ w.pkg.pwrgd = false ∧ w.mem = u.mem))
    (∀ r,
      (s.pkg.pwr ≠ .off → s.pkg.pwr ≠ .cold → exec (.coldPowerOn r) s = .next s) ∧
      (s.pkg.pwr = .off ∨ s.pkg.pwr = .cold → starts (.coldPowerOn r) (coldState s) 1 r) ∧
      (s.pkg.pwr ≠ .standby → exec (.standbyExit r) s = .next s) ∧
      (s.pkg.pwr = .standby → starts (.standbyExit r) (coldState s) (if s.pkg.lossStandby then 1 else 2) r) ∧
      (s.pkg.resetPending = none ∨ s.pkg.resetHeld = true ∨ drained s = false ∨ (∃ p ∈ s.stks, p.2.thermal = 3) →
        exec (.warmResetRestart r) s = .next s) ∧
      (∀ cause, s.pkg.resetPending = some cause → s.pkg.resetHeld = false → drained s = true → (∀ p ∈ s.stks, p.2.thermal ≠ 3) →
        starts (.warmResetRestart r) (renumber (warmState (drainAll s))) cause r) ∧
      (s.pkg.startWait = none ∨ s.holding = true → exec (.refclkRetry r) s = .next s) ∧
      (∀ cause, s.pkg.startWait = some cause → s.holding = false →
        (r.clocks = 0xF → r.hostClock = true → Does (.refclkRetry r) s (fun w => w.pkg.pwr = .running ∧ w.pkg.startWait = none)) ∧
        (¬ (r.clocks = 0xF ∧ r.hostClock = true) → Does (.refclkRetry r) s (fun w => w = { s with pkg := { s.pkg with
          clocks := r.clocks.toNat + 16 * b2n r.hostClock, startWait := some cause } })))) ∧
    -- what the states of a start hold
    ((coldState s).mem = [] ∧ (coldState s).engines = [] ∧ (coldState s).launches = [] ∧ (coldState s).pkg.slowReady = false ∧
      (∀ i, dieFeature (coldState s) i = dieFeature s i ∧ ((coldState s).ident i).serial = (s.ident i).serial) ∧
      ∀ t, ((coldState s).fwOf t).slotA = (s.fwOf t).slotA ∧ ((coldState s).fwOf t).svnFused = (s.fwOf t).svnFused) ∧
    ((warmState s).mem = s.mem ∧ (warmState s).poison = s.poison ∧ (warmState s).tiles = s.tiles ∧
      (warmState s).pkg.warmCount = min 0xFFFF (s.pkg.warmCount + 1) ∧ (warmState s).mlId = s.mlId ∧
      (∀ e, ((warmState s).eng e).state = .idle ∧ ((warmState s).eng e).ts = (s.eng e).ts ∧ ((warmState s).eng e).a = (s.eng e).a) ∧
      (∀ k, ((warmState s).stream k).slots = [] ∧ ((warmState s).stream k).lastSeq = (s.stream k).lastSeq) ∧
      (∀ c, ((warmState s).chan c).ce = (s.chan c).ce ∧ ((warmState s).chan c).log = (s.chan c).log)) ∧
    -- supplies
    (exec (.supplyLoss true true true) s = .next s) ∧
    (∀ vin vaux vio, vaux = false ∨ vio = false → Does (.supplyLoss vin vaux vio) s (fun w => w.pkg.pwr = .off ∧ w.mem = [] ∧
      w.engines = [] ∧ w.launches = [])) ∧
    (s.pkg.pwr ≠ .standby → s.pkg.pwr ≠ .off → Does (.supplyLoss false true true) s (fun w => w.pkg.pwr = .standby ∧ w.mem = [] ∧
      w.pkg.lossStandby = s.pkg.stbyN ∧ w.fw = s.fw)) ∧
    (∀ devs, s.pkg.slowDone = true ∨ inService s = false → exec (.slowDone devs) s = .next s) ∧
    (∀ devs : List SlowDev, s.pkg.slowDone = false → inService s = true → (∀ d, (s.host d).failed = false) →
      let bytes := min (2 ^ 44) (devs.foldl (fun n d => n + d.bytes / 65536 * 65536) 0)
      Does (.slowDone devs) s (fun w => w = { s with pkg := { s.pkg with
        slowDone := true, slowReady := true, slowBytes := bytes
        dupPool := min (s.pkg.dupPoolGib * 2 ^ 30) (bytes - 4 * 2 ^ 30)
        slowDevs := devs.map (fun d => (d.die.val, d.port.val, d.bytes / 65536 * 65536, 0)) } })) ∧
    -- the pin RESET_N
    (Does (.resetN false) s (fun w => w = { s with pkg := { s.pkg with resetHeld := false } })) ∧
    (s.pkg.pwr = .running → s.pkg.resetPending = none → s.sig.keeper ≠ .holdRefused → Does (.resetN true) s (fun w =>
      w.pkg.pwr = .warmReset ∧ w.pkg.resetPending = some (if s.holding then 5 else 3) ∧ w.pkg.resetHeld = true ∧
      w.pkg.pwrgd = false)) ∧
    (s.pkg.resetPending ≠ none → s.pkg.pwr ≠ .standby → s.pkg.pwr ≠ .off → Does (.resetN true) s (fun w =>
      w = { s with pkg := { s.pkg with resetHeld := true } }))

/-- R288, R315, R388, R393–R397, R401–R404, R434, R437: standby, package idle, drowse, the voltage responses, a thermal trip,
and the reference clocks. -/
def Obligations.PowerEvents : Prop :=
  ∀ s : State,
    let only (k : Nat) (x : SpirePwr) (w : State) : Prop := w = { s with spires := w.spires } ∧ w.spire k = x ∧
      ∀ j, j ≠ k → w.spire j = s.spire j
    -- standby and idle
    (inService s = false ∨ s.holding = true → exec .standbyRequest s = .next s) ∧
    (inService s = true → s.holding = false → Does .standbyRequest s (fun w => w.pkg.pwr = .enteringStandby ∧ w.pkg.pwrgd = false)) ∧
    (s.pkg.pwr ≠ .running → s.pkg.pwr ≠ .idle → exec .packageIdleRequest s = .next s) ∧
    (s.pkg.pwr = .running → s.holding = true ∨ nothingPending s = false → Does .packageIdleRequest s (fun w =>
      w = { s with pkg := { s.pkg with idleRefused := true } })) ∧
    (s.pkg.pwr = .running → s.holding = false → nothingPending s = true → Does .packageIdleRequest s (fun w => w.pkg.pwr = .idle ∧
      w.pkg.idleRefused = false ∧ (∀ e, (w.eng e).own = []) ∧
      ((∀ e, (s.eng e).own = []) → w.mem = s.mem ∧ ∀ e, w.eng e = s.eng e) ∧ (∀ k, k < 12 → (w.stack k).thermal = 4) ∧
      ∀ c, c < 384 → (s.chan c).serves = true → (w.chan c).state = .selfRefresh)) ∧
    (s.pkg.pwr ≠ .idle → exec .packageIdleExit s = .next s) ∧
    (∀ i ∈ ([.packageIdleExit, .packageIdleRequest] : List Instr), s.pkg.pwr = .idle → Does i s (fun w => w.pkg.pwr = .running ∧
      ((∀ c, (s.chan c).queue = [] ∧ (s.chan c).waiting = []) → w.mem = s.mem) ∧
      ∀ k, k < 12 → (s.stack k).thermal = 4 → (w.stack k).thermal = thermalLevel (s.stack k).heat (s.stack k).temp)) ∧
    -- drowse
    (∀ sp : Fin 8,
      let p := s.spire sp.val
      let wakes (w : State) : Prop := (w.spire sp.val).drowse = false ∧
        (w.spire sp.val).mv = max 550 (750 - p.powerCut - p.dieCut - p.stackCut) ∧ (∀ j, j ≠ sp.val → w.spire j = s.spire j)
      let plain := ∀ e, (s.eng e).heldCtrl = []
      Does (.drowse sp true) s (only sp.val { p with permit := true }) ∧
      (p.drowse = false → Does (.drowse sp false) s (only sp.val { p with permit := false })) ∧
      (p.drowse = true → plain → Does (.drowse sp false) s (fun w => wakes w ∧ (w.spire sp.val).permit = false ∧ w.mem = s.mem)) ∧
      (p.drowse = false → exec (.spireDrowseExit sp) s = .next s) ∧
      (p.drowse = true → plain → Does (.spireDrowseExit sp) s (fun w => wakes w ∧ (w.spire sp.val).permit = p.permit ∧ w.mem = s.mem)) ∧
      (s.holding = true ∨ s.stopping = true ∨ p.permit = false ∨ p.drowse = true →
        exec (.spireDrowseEntry sp) s = .next s) ∧
      (∀ e, e < 256 → liesOn s sp.val e = true → (s.eng e).state = .running → exec (.spireDrowseEntry sp) s = .next s) ∧
      (∀ x ∈ s.sig.swapped, (x.2 - 1) / 36 = sp.val → exec (.spireDrowseEntry sp) s = .next s) ∧
      (s.holding = false → s.stopping = false → p.permit = true → p.drowse = false → (∀ x ∈ s.engines, x.2.migrating = none) →
        (∀ x ∈ s.sig.swapped, (x.2 - 1) / 36 ≠ sp.val) → (∀ e, e < 256 → liesOn s sp.val e = true → ((s.eng e).state = .idle ∨ (s.eng e).state = .parked) ∧ (s.eng e).own = [] ∧
          (s.stream (2 * e)).slots = [] ∧ (s.stream (2 * e + 1)).slots = []) →
        Does (.spireDrowseEntry sp) s (only sp.val { p with drowse := true, mv := 450 })) ∧
      -- temperatures and power
      (∀ temp watts,
        let cut := if 120 ≤ temp then 200 else if 105 ≤ temp ∨ (p.dieCut ≠ 0 ∧ 100 ≤ temp) then min 200 (p.dieCut + 25) else 0
        let past := decide (min 4400 (max 1500 s.pkg.limitW) < watts)
        (s.holding = false → suppliesHeld s = true → temp < 120 → Does (.voltageResponse [(8 + sp.val, temp)] watts) s (fun w =>
          (w.spire sp.val).dieCut = p.dieCut ∧ (∀ j : Fin 8, (w.spire j.val).powerCut = 0) ∧ w.pkg.limited = false ∧
          w.pkg.powerW = min 0xFFFF watts ∧ w.mem = s.mem)) ∧
        (s.holding = false → suppliesHeld s = false → Does (.voltageResponse [(8 + sp.val, temp)] watts) s (fun w =>
          (w.spire sp.val).dieCut = cut ∧
          (∀ j : Fin 8, (w.spire j.val).powerCut = if past then min 200 ((s.spire j.val).powerCut + 10) else 0) ∧
          (p.drowse = false → (w.spire sp.val).mv =
            max 550 (750 - (w.spire sp.val).powerCut - cut - (w.spire sp.val).stackCut)) ∧
          w.pkg.limited = past ∧ w.pkg.powerW = min 0xFFFF watts ∧ w.mem = s.mem)) ∧
        (s.holding = true → temp < 120 → Does (.voltageResponse [(8 + sp.val, temp)] watts) s (fun w => w.spires = s.spires)) ∧
        (s.holding = true → 120 ≤ temp → Does (.voltageResponse [(8 + sp.val, temp)] watts) s (fun w =>
          (w.spire sp.val).dieCut = 200 ∧ ∀ j, j ≠ sp.val → w.spire j = s.spire j)))) ∧
    (∀ site : Fin 64,
      (sitePopulated site.val = false → exec (.thermalTrip site) s = .next s) ∧
      (sitePopulated site.val = true → Does (.thermalTrip site) s (fun w => w.pkg.thermtripN = false ∧ w.holding = true ∧
        (s.holding = false → w.sig.keeper = .hold ∧ w.pkg.pwrgd = false)))) ∧
    -- reference clocks
    (∀ c : RefClk,
      (s.pkg.clocks.testBit (clockBit c) = false → exec (.refclkLoss c) s = .next s) ∧
      (s.pkg.clocks.testBit (clockBit c) = true → Does (.refclkLoss c) s (fun w => w.pkg.clocks = s.pkg.clocks - 2 ^ clockBit c ∧
        (c = .mem → w.holding = true ∧ w.pkg.pwrgd = false ∧ ∀ k, k < 12 → (w.stack k).thermal = 4) ∧
        (c = .eth → w.td.lanesUp &&& 3 = 0 ∧ w.mem = s.mem ∧
          ∀ p : Fin 8, (s.port p.val).disable = false → (w.port p.val).state = 0) ∧
        (c = .pcie0 ∨ c = .pcie1 → w = { s with pkg := w.pkg } ∧ ∀ j : Nat, w.pkg.slowDevs[j]? =
          (s.pkg.slowDevs[j]?).map (fun (x : Nat × Nat × Nat × Nat) =>
            if x.1 = (if c = .pcie0 then 0 else 1) then (x.1, x.2.1, x.2.2.1, 2) else x)) ∧
        (c = .timeref → w = { s with pkg := { s.pkg with clocks := s.pkg.clocks - 16 } }))) ∧
      Does (.refclkReturn c) s (fun w => w = { s with pkg := { s.pkg with clocks := s.pkg.clocks ||| 2 ^ clockBit c }, ports := w.ports } ∧
        (c ≠ .eth → w.ports = s.ports) ∧
        (c = .eth → ∀ p : Fin 8, w.port p.val = if (s.port p.val).state = 0 ∧ termFailed s (p.val / 4) = false
          then { s.port p.val with state := 1 } else s.port p.val))) ∧
    (s.pkg.clocks.testBit 4 = false ∨ inService s = false → exec .timerefEdge s = .next s) ∧
    (s.pkg.clocks.testBit 4 = true → inService s = true → Does .timerefEdge s (fun w => w = { s with hosts := w.hosts } ∧
      ∀ d : Fin 2, w.host d.val = if (s.host d.val).failed then s.host d.val
        else { s.host d.val with time := ((s.host d.val).time + 1) % 2 ^ 64 }))

/-- R19–R29, R324: bundles and the retraining of links: flits and their replay, a bundle held, planned and full retrains, what
a retrain leaves at both ends, the parameter exchange, and safe mode. A flit is one of the sending end's sequence, with the
bits that it sends or with some of them inverted on the way. -/
def Obligations.LinkEvents : Prop :=
  ∀ s : State,
    -- a flit or a replay request at an end
    (∀ (l : FlitEnd) seq,
      (endKeys l = none → (∀ f, exec (.flitReceive l seq f) s = .next s) ∧ exec (.replayRequest l seq) s = .next s) ∧
      (∀ k peer, endKeys l = some (k, peer) →
        let x := s.link k
        let y := s.link peer
        (x.carries = false → (∀ f, exec (.flitReceive l seq f) s = .next s) ∧ exec (.replayRequest l seq) s = .next s) ∧
        (x.carries = true → ∀ f : Flit,
          (flitSent s peer (edgeOf (peer % 64)) seq f = none → exec (.flitReceive l seq f) s = .next s) ∧
          (∀ key bits t, flitSent s peer (edgeOf (peer % 64)) seq f = some (key, bits, t) →
            Does (.flitReceive l seq f) s (fun w => w.mem = s.mem ∧
              w.link k = (if flitOk (bits ^^^ f.err) = false then
                  { x with crcErrs := min 0xFFFF (x.crcErrs + 1), discarding := true,
                           replayReq := if seq = x.rxNext then some seq else x.replayReq }
                else if seq = x.rxNext then { x with rxNext := seq + 1, discarding := false, replayReq := none } else x) ∧
              w.link peer = t.link peer ∧ (∀ j, j ≠ k → j ≠ peer → w.link j = s.link j) ∧
              (flitOk (bits ^^^ f.err) = false → w.flits = t.flits)) ∧
            (seq ≠ y.txSeq → t = s) ∧
            (seq = y.txSeq → (t.link peer).txSeq = seq + 1 ∧ (t.link peer).replay.length ≤ 96))) ∧
        (x.carries = true → y.replayReq ≠ some seq → exec (.replayRequest l seq) s = .next s) ∧
        (x.carries = true → y.replayReq = some seq → (∃ f ∈ x.replay, f.seq = seq) →
          Does (.replayRequest l seq) s (fun w => w = { s with links := w.links } ∧
            w.link peer = { y with replayReq := none } ∧
            w.link k = { x with
              replays := min 0xFFFF (x.replays + (x.txSeq - seq)), failSeq := seq
              fails := if x.failSeq = seq then x.fails + 1 else 1 } ∧
            ∀ j, j ≠ k → j ≠ peer → w.link j = s.link j)))) ∧
    -- the direction to the opposite Concourse (R19, R20)
    (∀ (cc : Fin 4) id, (∀ t ∈ s.flits, t.src ≠ cc.val) →
      let d := ringDirection s cc.val ((cc.val + 2) % 4) id
      (∀ e, e = 0 ∨ e = 1 → edgeOut s cc.val e = true → edgeOut s cc.val (1 - e) = false → d = 1 - e) ∧
      (edgeOut s cc.val 0 = false → edgeOut s cc.val 1 = false →
        (look 0 s.pkg.ringPref cc.val = 1 → d = 0) ∧ (look 0 s.pkg.ringPref cc.val = 2 → d = 1) ∧
        (look 0 s.pkg.ringPref cc.val = 0 → d = if creditsUsed s cc.val 0 ≤ creditsUsed s cc.val 1 then 0 else 1))) ∧
    -- bundles
    (∀ (cc : Fin 4) (b : Fin 46),
      let k := bundleKey cc.val b.val
      let p := peerKey cc.val b.val
      let x := s.link k
      let y := s.link p
      let ends (x' y' : LinkEnd) (w : State) : Prop := w = { s with links := w.links } ∧ w.link k = x' ∧ w.link p = y' ∧
        ∀ j, j ≠ k → j ≠ p → w.link j = s.link j
      let emptied (z o : LinkEnd) : LinkEnd :=
        { z with rxNext := max z.rxNext o.txSeq, replay := [], replayReq := none, discarding := false, fails := 0 }
      -- both ends as given, and every flit that the other end had not accepted waits to be sent again
      let moved (x' y' : LinkEnd) (w : State) : Prop :=
        w = { s with links := w.links, flits := w.flits } ∧ w.link k = x' ∧ w.link p = y' ∧
        (∀ j, j ≠ k → j ≠ p → w.link j = s.link j) ∧ w.flits.map FlitTxn.key = s.flits.map FlitTxn.key ∧
        (∀ f ∈ x.replay, y.rxNext ≤ f.seq → ∀ t ∈ w.flits, t.key = f.key → t.sent = false) ∧
        (∀ f ∈ y.replay, x.rxNext ≤ f.seq → ∀ t ∈ w.flits, t.key = f.key → t.sent = false)
      let free := ∀ i ∈ edgeBundles b.val, (s.link (bundleKey cc.val i)).planned = false
      let goes := s.holding = false ∧ s.stopping = false
      (x.carries = false ∨ (x.fails < 9 ∧ y.fails < 9) → exec (.bundleHeld cc b) s = .next s) ∧
      (x.carries = true → 9 ≤ x.fails ∨ 9 ≤ y.fails → Does (.bundleHeld cc b) s (moved
        { emptied x y with state := .held, planPending := true } { emptied y x with state := .held, planPending := true })) ∧
      (¬ goes ∨ x.retraining = true ∨ (x.carries = false ∧ x.state ≠ .held) ∨ ¬ free →
        exec (.plannedRetrain (.bundle cc b)) s = .next s) ∧
      (goes → free → x.retraining = false → x.carries = true ∨ x.state = .held → Does (.plannedRetrain (.bundle cc b)) s (moved
        { emptied x y with state := .held, retraining := true, planned := true, planPending := false }
        { emptied y x with state := .held, retraining := true, planned := true, planPending := false })) ∧
      (¬ goes ∨ x.state ≠ .safeMode → exec (.fullRetrain (.bundle cc b)) s = .next s) ∧
      (goes → x.state = .safeMode → Does (.fullRetrain (.bundle cc b)) s (moved
        { emptied x y with state := .held, retraining := true, planned := false, planPending := false }
        { emptied y x with state := .held, retraining := true, planned := false, planPending := false })) ∧
      (x.xchgFails < 3 ∨ x.state = .safeMode → exec (.linkSafeMode (.bundle cc b)) s = .next s) ∧
      (3 ≤ x.xchgFails → x.state ≠ .safeMode →
        let m := lowestLanes 4 (if ownsBundle cc.val b.val = true then x.record else y.record)
        Does (.linkSafeMode (.bundle cc b)) s (ends
          { x with state := .safeMode, width := 3, halfRate := true, lanes := m }
          { y with state := .safeMode, width := 3, halfRate := true, lanes := m })) ∧
      (∀ chk,
        let t := chooseSpares (s.feat 13) x.fusedTx (chk.tx.map Fin.val).eraseDups
        let r := chooseSpares (s.feat 13) x.fusedRx (chk.rx.map Fin.val).eraseDups
        let qs := goodQuads (t.2 ++ r.2)
        let trained (z : LinkEnd) (tx rx : Spares) : LinkEnd := { z with
          state := if qs = [] then .retired else .active, width := if qs = [] then z.width else 4 - qs.length
          halfRate := false, lanes := quadLanes qs, disagree := false, xchgFails := 0, tx := tx, rx := rx, record := quadLanes qs
          planPending := false, retraining := false, planned := false }
        (x.retraining = false ∨ s.holding = true → exec (.retrainComplete (.bundle cc b) chk) s = .next s) ∧
        (x.retraining = true → s.holding = false →
          (chk.both = true → Does (.retrainComplete (.bundle cc b) chk) s (fun w => w.mem = s.mem ∧
            w.link k = trained x t.1 r.1 ∧ w.link p = trained y r.1 t.1 ∧ (∀ j, j ≠ k → j ≠ p → w.link j = s.link j) ∧
            (b.val < 40 → look 0 w.pkg.ringPref cc.val = 0 ∧ look 0 w.pkg.ringPref (p / 64) = 0))) ∧
          (chk.both = false → Does (.retrainComplete (.bundle cc b) chk) s (ends
            { x with tx := t.1, rx := r.1, record := quadLanes qs, retraining := false, planned := false, disagree := true }
            { y with retraining := false, planned := false, disagree := true })))) ∧
      (let qs := commonQuads x.record y.record
        let on := (x.state = .active ∨ (x.state = .held ∧ x.disagree = true ∧ s.holding = false)) ∧ x.retraining = false
        let code := some (4 - qs.length)
        (∀ m n ended, ¬ on ∨ ended = false → exec (.parameterExchange (.bundle cc b) m n ended) s = .next s) ∧
        (on → qs ≠ [] → Does (.parameterExchange (.bundle cc b) code code true) s (ends
          { x with state := .active, width := 4 - qs.length, lanes := quadLanes qs, xchgFails := 0, disagree := false }
          { y with state := .active, width := 4 - qs.length, lanes := quadLanes qs, xchgFails := 0, disagree := false })) ∧
        (∀ m n, on → m ≠ code ∨ n ≠ code ∨ qs = [] → Does (.parameterExchange (.bundle cc b) m n true) s (ends
          { x with xchgFails := min 3 (x.xchgFails + 1) } { y with xchgFails := min 3 (y.xchgFails + 1) })))) ∧
    -- host links
    (∀ cc : Fin 4,
      let x := s.hlink cc.val
      let only (x' : HostLink) (w : State) : Prop := w = { s with hlinks := w.hlinks } ∧ w.hlink cc.val = x' ∧
        ∀ j, j ≠ cc.val → w.hlink j = s.hlink j
      let goes := s.holding = false ∧ s.stopping = false
      (goes → x.state = 2 ∨ x.state = 4 → Does (.plannedRetrain (.host cc)) s
        (only { x with state := 3, trainFails := 0, planPending := false, sbHeld := true })) ∧
      (¬ goes ∨ (x.state ≠ 2 ∧ x.state ≠ 4) → exec (.plannedRetrain (.host cc)) s = .next s) ∧
      (goes → x.state = 4 → Does (.fullRetrain (.host cc)) s (only { x with
        state := 3, trainFails := 0, planPending := false, sbHeld := true })) ∧
      (¬ goes ∨ x.state ≠ 4 → exec (.fullRetrain (.host cc)) s = .next s) ∧
      (x.xchgFails < 3 ∨ x.state = 4 → exec (.linkSafeMode (.host cc)) s = .next s) ∧
      (3 ≤ x.xchgFails → x.state ≠ 4 → Does (.linkSafeMode (.host cc)) s (only { x with state := 4, modules := 1, half := 0 })) ∧
      (∀ chk,
        let m := chk.modules.toNat + 256 * (chk.half &&& chk.modules).toNat
        (x.state = 3 → s.holding = false →
          (chk.both = true → Does (.retrainComplete (.host cc) chk) s (only { x with
            state := 2, modules := chk.modules.toNat, half := (chk.half &&& chk.modules).toNat, xchgFails := 0, trainFails := 0
            record := m, far := m, disagree := false, sbHeld := false })) ∧
          (chk.both = false → Does (.retrainComplete (.host cc) chk) s (only { x with record := m, disagree := true }))) ∧
        (x.state ≠ 3 ∨ s.holding = true → exec (.retrainComplete (.host cc) chk) s = .next s)) ∧
      (let common := (x.record &&& x.far) % 256
        let on := x.state = 2 ∨ (x.state = 3 ∧ x.disagree = true ∧ s.holding = false)
        (∀ m n ended, ¬ on ∨ ended = false → exec (.parameterExchange (.host cc) m n ended) s = .next s) ∧
        (on → common ≠ 0 → Does (.parameterExchange (.host cc) (some common) (some common) true) s (only { x with
          state := 2, modules := common, half := (x.record / 256 ||| x.far / 256) &&& common, xchgFails := 0, disagree := false
          sbHeld := false })) ∧
        (∀ m n, on → m ≠ some common ∨ n ≠ some common ∨ common = 0 → Does (.parameterExchange (.host cc) m n true) s
          (only { x with xchgFails := min 3 (x.xchgFails + 1) }))))

/-- R3, R7–R10, R21, R31, R66, R173, R237, R265, R268, R285–R290, R309, R330–R332, R336, R341, R347, R354–R359, R378, R384,
R393, R404, R411, R418, R425, R426: a write to a register: where nothing lies nothing happens, a register that holds a value
takes the bits that it has, and a register that commands acts as its command. -/
def Obligations.RegisterWrites : Prop :=
  ∀ (s : State) (asn : Asn) (v : Word), s.uBytes ≤ 0xF_0000_0000_0000 →
    let wr (addr : Nat) : Instr := .registerWrite asn addr v
    let reg (site off : Nat) : Nat := 0xF_0000_0000_0000 + site * 2 ^ 32 + off
    let gets (addr : Nat) (t : State) : Prop := Does (wr addr) s (fun w => w = t)
    let as (addr : Nat) (i : Instr) : Prop := exec (wr addr) s = exec i s
    let page := v.toNat / 4096 * 4096
    let f (hi lo : Nat) : Nat := (v.toNat / 2 ^ lo) % 2 ^ (hi + 1 - lo)
    -- nothing there
    (∀ addr, addr % 8 ≠ 0 ∨ (region s addr ≠ .mmio ∧ region s addr ≠ .ticket) → exec (wr addr) s = .next s) ∧
    (∀ site off, off < 2 ^ 32 → site < 0x8000 → sitePopulated site = false ∨ off < 0x1000 → exec (wr (reg site off)) s = .next s) ∧
    -- registers of a Concourse
    (∀ cc : Fin 4,
      gets (reg cc 0x1800) (if f 1 0 = 3 then s else { s with pkg := { s.pkg with ringPref := put 0 s.pkg.ringPref cc.val (f 1 0) } }) ∧
      gets (reg cc 0x13000) { s with astBase := page } ∧
      gets (reg cc 0x13008) (s.modBook cc.val (fun b => { b with invVa := page })) ∧
      gets (reg cc 0x15000) { s with pkg := { s.pkg with dupPoolGib := f 47 32, pinLimit := f 15 8, promote := f 7 0 } } ∧
      gets (reg cc 0x16020) { s with pkg := { s.pkg with ueRetire := f 15 8, scrubHours := f 7 0 } } ∧
      gets (reg cc 0x19010) { s with sig := { s.sig with notifyEn := v.getLsbD 32, notifyEp := f 31 0 } } ∧
      gets (reg cc 0x12000) (if asn = 0 then { s with kAddr := put 0 s.kAddr cc.val (v.toNat / 64 * 64) }
        else { s with kResult := put 0 s.kResult cc.val 9 }) ∧
      as (reg cc 0x17008) (.pcWayMaskWrite cc v) ∧
      as (reg cc 0x17000) (if v.getLsbD 0 then .pcCtrlDisable cc else .pcCtrlEnable cc) ∧
      as (reg cc 0x19000) (.kpCmdConsist cc v) ∧
      (f 37 36 = 1 → as (reg cc 0x13010) (.bkInvOneAsn cc (v.extractLsb' 0 20))) ∧
      (f 37 36 = 2 → as (reg cc 0x13010) (.bkInvOnePage cc (v.extractLsb' 0 20)))) ∧
    (∀ (cc : Fin 4) (i : Fin 16),
      let k := 512 + 16 * cc.val + i.val
      gets (reg cc (0x10000 + 0x40 * i)) (modRing s k (fun r =>
        if r.enable then r else { r with base := page, log2n := if 4 ≤ f 3 0 then f 3 0 else r.log2n })) ∧
      as (reg cc (0x10008 + 0x40 * i)) (.bsCtrlEnable cc i v) ∧
      as (reg cc (0x10010 + 0x40 * i)) (.bsDoorbell cc i (v.extractLsb' 0 32)) ∧
      gets (reg cc (0x10018 + 0x40 * i)) (if v.getLsbD 7 then modRing s k (fun r => { r with dbErr := false }) else s)) ∧
    (∀ cc r : Fin 4,
      as (reg cc (0x11008 + 0x40 * r)) (.clCtrlEnable cc r v) ∧ as (reg cc (0x11010 + 0x40 * r)) (.clDoorbell cc r (v.extractLsb' 0 32)) ∧
      as (reg cc (0x11028 + 0x40 * r)) (.clCancel cc r v) ∧
      gets (reg cc (0x14000 + 0x40 * r)) (s.modSiding (4 * cc.val + r.val) (fun d =>
        { d with base := if d.enable then d.base else page, log2n := if 7 ≤ f 3 0 then f 3 0 else d.log2n })) ∧
      as (reg cc (0x14008 + 0x40 * r)) (.sdCtrlEnable cc r v) ∧ as (reg cc (0x14010 + 0x40 * r)) (.sdConsWrite cc r (v.extractLsb' 0 32)) ∧
      (f 33 32 = 1 → as (reg cc (0x14020 + 0x40 * r)) (.sdAnswerRetry cc r (v.extractLsb' 0 32))) ∧
      (f 33 32 = 2 → as (reg cc (0x14020 + 0x40 * r)) (.sdAnswerError cc r (v.extractLsb' 0 32))) ∧
      (f 33 32 = 0 ∨ f 33 32 = 3 → exec (wr (reg cc (0x14020 + 0x40 * r))) s = .next s)) ∧
    (∀ ch : Fin 384,
      let at_ (off : Nat) : Nat := reg (ch / 96) (0x20000 + 0x400 * (ch % 96) + off)
      gets (at_ 0x108) (s.modChan ch.val (fun c => { c with tg := { c.tg with first := f 52 32, last := f 20 0 } })) ∧
      gets (at_ 0x110) (s.modChan ch.val (fun c => { c with tg := { c.tg with seed := v } })) ∧
      gets (at_ 0x118) (if v.getLsbD 1 then s.modChan ch.val (fun c => { c with tgDone := false }) else s) ∧
      (v.getLsbD 0 = true → as (at_ 0x008) (.hbmChErrLogClear ch))) ∧
    -- registers of a Spire: the supply and the engine windows
    (∀ sp : Fin 8, as (reg (8 + sp) 0x1000) (.drowse sp (v.getLsbD 0))) ∧
    (∀ e : Fin 256,
      let at_ (off : Nat) : Nat := reg (8 + e / 32) (0x0100_0000 + 0x10000 * (e % 32) + off)
      let g := s.eng e.val
      let away := g.migrating ≠ none ∨ asleep s e.val = true
      let rests := g.state = .idle ∨ g.state = .parked
      (∀ off, off < 0x10000 → off % 8 = 0 → away → gets (at_ off) (s.setEng e.val { g with heldCtrl := g.heldCtrl ++ [{ off := off, value := v }] })) ∧
      (¬ away →
        gets (at_ 0x0010) (if rests then s.setEng e.val { g with entry := v.toNat / 8 * 8 } else s) ∧
        gets (at_ 0x0020) (if rests then s.setEng e.val { g with asn := f 19 0 } else s) ∧
        gets (at_ 0x0028) (if rests then s.setEng e.val { g with notifyEn := v.getLsbD 32, ownerEp := f 31 0 } else s) ∧
        gets (at_ 0x0048) (s.setEng e.val { g with fp := g.fp &&& ~~~(v.setWidth 5) }) ∧
        gets (at_ 0x04C8) (s.setEng e.val { g with pmOvf := g.pmOvf &&& ~~~(v &&& 0x1FFF) }) ∧
        gets (at_ 0x04D0) (s.setEng e.val { g with pmNotify := v &&& 0x1_FFFF_FFFF }) ∧
        (∀ k : Fin 8, gets (at_ (0x0440 + 8 * k)) (s.setEng e.val { g with pmc := put 0 g.pmc k.val (v &&& 0xFFFF_FFFF_FFFF) }) ∧
          gets (at_ (0x0480 + 8 * k)) (s.setEng e.val { g with pmSel := put 0 g.pmSel k.val (v &&& 0x3_80FF_00FF) })) ∧
        (∀ k : Fin 64, as (at_ (0x0800 + 8 * k)) (.engTcWrite e k (v.extractLsb' 0 32))) ∧
        as (at_ 0x0078) (if v.getLsbD 0 then .engScCtrlDisable e else .engScCtrlEnable e) ∧ as (at_ 0x0070) (.engCupCancel e v))) ∧
    -- registers of a Terminus
    (∀ tm : Fin 2,
      gets (reg (0x28 + tm) 0x3000) { s with mlId := v &&& 0xFFFF_FFFF_F800_FFFF } ∧
      gets (reg (0x28 + tm) 0x3008) (if v.getLsbD 0 then { s with winBase := page, winCache := [], winInv := true }
        else { s with winBase := page }) ∧
      gets (reg (0x28 + tm) 0x3010) { s with grpBase := page } ∧
      gets (reg (0x28 + tm) 0x6018) { s with td := { s.td with mirror := v } } ∧
      gets (reg (0x28 + tm) 0x6020) { s with td := { s.td with takeover := page } } ∧
      gets (reg (0x28 + tm) 0x6028) { s with td := { s.td with witness := v &&& 0x3_FFFF_FFFF_FFFF } } ∧
      (∀ i : Fin 4, gets (reg (0x28 + tm) (0x6080 + 8 * i)) { s with td := { s.td with parts := put 0 s.td.parts i.val v } }) ∧
      (∀ i : Fin 16, gets (reg (0x28 + tm) (0x6100 + 8 * i)) { s with td := { s.td with regions := put 0 s.td.regions i.val v } }) ∧
      gets (reg (0x28 + tm) 0x7000) { s with sig := { s.sig with cmdLo := v &&& 0xFFFF_FFFF_0000_FFFF } } ∧
      gets (reg (0x28 + tm) 0x7018) { s with sig := { s.sig with inspHours := f 23 16, watchMs := f 15 8, inspEn := v.getLsbD 0 } } ∧
      gets (reg (0x28 + tm) 0x8010) { s with pkg := { s.pkg with limitW := f 15 0 } } ∧
      gets (reg (0x28 + tm) 0x9108) { s with sec := { s.sec with tokenAddr := v.toNat / 64 * 64 } } ∧
      (v.getLsbD 32 = true → as (reg (0x28 + tm) 0x6000) (.tdCtrlEnable v)) ∧
      (v.getLsbD 0 = false → v.getLsbD 1 = true → as (reg (0x28 + tm) 0x9110) .dbgCmdRelock) ∧
      (v.getLsbD 1 = true → inService s = true → s.pkg.slowDone = false → Does (wr (reg (0x28 + tm) 0x8000)) s (fun w =>
        w.pkg.slowDone = true ∧ w.pkg.slowReady = true ∧ w.mem = s.mem)) ∧
      (v.getLsbD 1 = false → gets (reg (0x28 + tm) 0x8000) s) ∧
      (asn ≠ 0 → gets (reg (0x28 + tm) 0x9008) (s.modFwOf tm.val (fun x => { x with result := 6 }))) ∧
      (asn = 0 → (s.fwOf tm.val).busy = false → gets (reg (0x28 + tm) 0x9010) (s.modFwOf tm.val (fun x => { x with addr := page }))) ∧
      (v.getLsbD 0 = false → v.getLsbD 1 = true → as (reg (0x28 + tm) 0x9008) (.fwCtrlCommitSvn tm asn)) ∧
      (∀ r : Fin 8, as (reg (0x28 + tm) (0x4008 + 0x40 * r)) (.roCtrlEnable tm r v) ∧
        as (reg (0x28 + tm) (0x4010 + 0x40 * r)) (.roDoorbell tm r (v.extractLsb' 0 32))) ∧
      (∀ r : Fin 4, as (reg (0x28 + tm) (0x5008 + 0x40 * r)) (.crCtrlEnable tm r v) ∧
        as (reg (0x28 + tm) (0x5010 + 0x40 * r)) (.crDoorbell tm r (v.extractLsb' 0 32)) ∧
        as (reg (0x28 + tm) (0x5028 + 0x40 * r)) (.jnCancel tm r v))) ∧
    -- unit counters
    (∀ (cc : Fin 4) (k : Fin 8), gets (reg cc (0x1A000 + 8 * k)) (s.modUc cc.val (fun u =>
      { u with cnt := put 0 u.cnt k.val (v &&& 0xFFFF_FFFF_FFFF) }))) ∧
    (∀ (m : Fin 12) (k : Fin 8), gets (reg (0x10 + m) (0x5040 + 8 * k)) (s.modUc (4 + m) (fun u =>
      { u with sel := put 0 u.sel k.val (v &&& 0x1_80FF_00FF) }))) ∧
    (∀ tm : Fin 2, gets (reg (0x28 + tm) 0xA080) (s.modUc (16 + tm) (fun u => { u with ovf := u.ovf &&& ~~~(v &&& 0xFF) })) ∧
      gets (reg (0x28 + tm) 0xA088) (s.modUc (16 + tm) (fun u => { u with notify := v &&& 0x1_FFFF_FFFF }))) ∧
    -- the Ticket window
    (∀ h : Fin 128,
      let at_ (off : Nat) : Nat := 0xF_8000_0000_0000 + 0x1000 * h + off
      (∀ i : Fin 8, as (at_ (8 * i)) (.tkTxDataWrite h i v)) ∧ as (at_ 0x40) (.tkTxSend h (v.extractLsb' 0 32)) ∧
      (v.getLsbD 0 = true → as (at_ 0x250) (.tkRxPop h)) ∧ as (at_ 0x408) (.tkMsiWrite h v) ∧
      gets (at_ 0x400) (s.modHart h.val (fun g => { g with nack := v.getLsbD 52, sendAsn := f 51 32, acceptAsn := f 19 0 })))

/-- A step takes the command at the front of the queue and is what that command does with the queue's rest; with nothing
waiting the step is the tick, and goes on. Every command answers a next state in every state: none stops the block. -/
def Obligations.StepTakesTheFrontCommand : Prop :=
  (∀ (c : Instr) (s : State) rest, step { s with pending := c :: rest } = exec c { s with pending := rest }) ∧
  (∀ s : State, s.pending = [] → step s = .next (tick s)) ∧
  (∀ (i : Instr) (s : State), ∃ t, exec i s = .next t)

/-- Every step keeps memory and its poison marks in canonical form. -/
def Obligations.EveryStepKeepsMemoryForm : Prop := ∀ s t : State, s.MemOk → step s = .next t → t.MemOk

/-- R283, R398: memory as reset leaves it is in canonical form and lists nothing, no line is poisoned, and no command waits. -/
def Obligations.ResetMemory : Prop :=
  State.reset.MemOk ∧ State.reset.mem = [] ∧ State.reset.poison = [] ∧ State.reset.pending = [] ∧
    (∀ a, memByte State.reset a = 0) ∧ ∀ e, (State.reset.eng e).state = .idle
end

