-- ==== Sys2Proof/Laws/Access.lean ====
section
/-! SUPPORT. What the operations that carry an access from its sender can do: a hart's translation and protection, a
device's way through the IOMMU, and the arrival of a numbered Mainline frame. -/

namespace Sys2Proof.Machine

/-! ### Harts (R311, R312) -/

/-- In M-mode a hart's access is not translated: protection alone decides it, and nothing in the state changes. -/
theorem hartReach_machine {s : State} {h va n : Nat} {acc : Acc} (hp : ((s.hart h).effective acc).1 = 3) :
    hartReach s h va n acc = (s,
      if (s.hart h).pmpOk 3 va n acc then .ok [(va, n)] false else .fault (PageFault.access.cause acc) va) := by
  simp only [hartReach, hp, if_true, List.foldl, hartXlat]
  split <;> rfl

/-- Without a protection entry in use, M-mode reaches every address. -/
theorem pmpOk_open {g : Hart} {a n : Nat} {acc : Acc} (h : ∀ i < 16, g.pmpCfg i = 0) : g.pmpOk 3 a n acc = true := by
  have hr (i : Nat) (hi : i < 16) : g.pmpRange i = none := by simp [Hart.pmpRange, h i hi]
  unfold Hart.pmpOk
  split
  · rfl
  · rename_i heq
    obtain ⟨i, hi, he⟩ := List.exists_of_findSome?_eq_some heq
    simp [hr i (by simpa using hi)] at he

/-- The effective mode is the hart's own, but for loads and stores under MPRV in M-mode. -/
theorem effective_own {g : Hart} {acc : Acc} (h : ¬(g.priv = 3 ∧ acc ≠ .x ∧ bit (g.get 0x300) 17)) :
    g.effective acc = (g.priv, g.virt) := by
  simp only [Hart.effective, if_neg h]

/-- In M-mode every CSR that exists is reached under its own number, but for a write of a read-only one. -/
theorem csrReach_machine {g : Hart} {n : Nat} {write : Bool} (hp : g.priv = 3) :
    g.csrReach n write =
      if csrRanges.any (fun r => decide (r.1 ≤ n) && decide (n ≤ r.2)) = true ∧ (write && n / 1024 == 3) = false then .at n
      else .stop 2 := by
  cases h1 : csrRanges.any (fun r => decide (r.1 ≤ n) && decide (n ≤ r.2)) <;>
    cases h2 : (write && n / 1024 == 3) <;> simp [Hart.csrReach, h1, h2, hp]

/-- With nothing done since the last access the state is as it was. -/
@[simp] theorem hartSteps_nil (s : State) (h : Nat) : hartSteps s h [] = (s, true) := rfl

/-- Once a step has raised an exception, those after it are not done. -/
theorem hartSteps_stop {s : State} {h c : Nat} {x : HartStep} {l : List HartStep} (hc : (s.hart h).stepStop x = some c) :
    hartSteps s h (x :: l) = (s.modHart h (fun g => { g with exc := c, excVal := 0 }), false) := by
  simp only [hartSteps, List.foldl, hc]
  generalize s.modHart h (fun g => { g with exc := c, excVal := 0 }) = t
  induction l with
  | nil => rfl
  | cons y l ih => simpa using ih

/-- A hart of a die that is held in reset accesses nothing. -/
theorem hartAccess_held {s : State} {h : Nat} {a : HartAcc} (hr : (s.host (h / 64)).running = false) :
    hartAccess s h a = s := by
  simp [hartAccess, hr]

/-! ### Devices (R326) -/

/-- With DDTP off the IOMMU refuses every request. -/
theorem ioReach_off {s : State} {d dev va : Nat} {write : Bool} (h : fld ((s.host d).io 16) 3 0 = 0) :
    ioReach s d dev va write = (s, .fault 256) := by
  simp [ioReach, h]

/-- With DDTP bare a request's address is physical. -/
theorem ioReach_bare {s : State} {d dev va : Nat} {write : Bool} (h : fld ((s.host d).io 16) 3 0 = 1) :
    ioReach s d dev va write = (s, .mem va) := by
  simp [ioReach, h]

/-! ### Mainline frames (R335, R338, R339) -/

/-- A frame that fails its check only counts at its port. -/
theorem numbered_unsound {s : State} {p : Nat} {f : Frame337} {chk : FrameCheck} {act : State → Option State}
    (h : frameSound f chk = false) : numbered s p f chk act = badFrame s p := by
  simp [numbered, h]

/-- A frame for another package changes nothing. -/
theorem numbered_foreign {s : State} {p : Nat} {f : Frame337} {chk : FrameCheck} {act : State → Option State}
    (h : frameSound f chk = true) (hf : frameForUs s p f = false) : numbered s p f chk act = s := by
  simp [numbered, h, hf]

/-- A repeated frame is acknowledged again and not performed again. -/
theorem numbered_repeat {s : State} {p : Nat} {f : Frame337} {chk : FrameCheck} {act : State → Option State}
    (h : frameSound f chk = true) (hf : frameForUs s p f = true) (hn : (s.path f.src).isNew f.psn = false) :
    numbered s p f chk act = s ∨ numbered s p f chk act = sendAck s f.src f.opTag := by
  simp only [numbered, h, hf, hn, Bool.not_true, Bool.not_false, Bool.false_eq_true, if_false, if_true]
  split
  · exact .inr rfl
  · exact .inl rfl

/-- A frame that must wait is neither performed nor acknowledged. -/
theorem numbered_waits {s : State} {p : Nat} {f : Frame337} {chk : FrameCheck} {act : State → Option State}
    (h : frameSound f chk = true) (hf : frameForUs s p f = true) (hn : (s.path f.src).isNew f.psn = true)
    (ha : act s = none) : numbered s p f chk act = s := by
  simp [numbered, h, hf, hn, ha]

/-- A new frame is performed once, recorded as received, and acknowledged. -/
theorem numbered_performed {s t : State} {p : Nat} {f : Frame337} {chk : FrameCheck} {act : State → Option State}
    (h : frameSound f chk = true) (hf : frameForUs s p f = true) (hn : (s.path f.src).isNew f.psn = true)
    (ha : act s = some t) :
    numbered s p f chk act = sendAck (t.modPath f.src (fun q => q.receive f.psn)) f.src f.opTag := by
  simp [numbered, h, hf, hn, ha]

end Sys2Proof.Machine
end

