-- ==== Sys2Proof/Laws/Tab.lean ====
section
/-! SUPPORT. What the operations of sparse tables and sets do, and that they keep the canonical form. -/

namespace Sys2Proof.Machine

/-! ### Reading after writing -/

theorem look_tabIns (d : α) (t : Tab α) (k j : Nat) (v : α) :
    look d (tabIns k v t) j = if j = k then v else look d t j := by
  induction t with
  | nil => by_cases h : j = k <;> simp [tabIns, look, h]
  | cons p t ih =>
    obtain ⟨a, w⟩ := p
    unfold tabIns
    split
    · by_cases h : j = k <;> simp [look, h]
    · split
      · rename_i h1 h2; subst h2; by_cases h : j = k <;> simp [look, h]
      · rename_i h1 h2
        by_cases h : j = a
        · subst h; simp [look]; intro h3; exact absurd h3.symm h2
        · simp [look, h, ih]

theorem look_tabDel (d : α) (t : Tab α) (k j : Nat) :
    look d (tabDel k t) j = if j = k then d else look d t j := by
  induction t with
  | nil => simp [tabDel, look]
  | cons p t ih =>
    obtain ⟨a, w⟩ := p
    simp only [tabDel] at ih ⊢
    by_cases ha : a = k
    · subst ha
      rw [List.filter_cons_of_neg (by simp), ih]
      by_cases h : j = a <;> simp [look, h]
    · rw [List.filter_cons_of_pos (by simpa using ha)]
      by_cases h : j = a
      · subst h; simp [look, ha]
      · simp [look, h, ih]

/-- A table reads as written at the key, and as before at every other key. -/
theorem look_put [DecidableEq α] (d : α) (t : Tab α) (k j : Nat) (v : α) :
    look d (put d t k v) j = if j = k then v else look d t j := by
  unfold put
  split
  · rename_i h; rw [look_tabDel, h]
  · exact look_tabIns d t k j v

@[simp] theorem look_put_self [DecidableEq α] (d : α) (t : Tab α) (k : Nat) (v : α) :
    look d (put d t k v) k = v := by simp [look_put]

theorem look_put_ne [DecidableEq α] (d : α) (t : Tab α) {k j : Nat} (v : α) (h : j ≠ k) :
    look d (put d t k v) j = look d t j := by simp [look_put, h]

@[simp] theorem look_nil (d : α) (k : Nat) : look d ([] : Tab α) k = d := rfl

theorem nHas_nIns (t : NSet) (k j : Nat) : nHas j (nIns k t) = (decide (j = k) || nHas j t) := by
  induction t with
  | nil => simp [nIns, nHas, eq_comm]
  | cons a t ih =>
    simp only [nHas] at ih
    unfold nIns
    split
    · simp [nHas, eq_comm]
    · split
      · rename_i h; subst h; by_cases h : j = k <;> simp [nHas, h, eq_comm]
      · simp [nHas, ih]
        by_cases h : j = k <;> by_cases h2 : a = j <;> simp [h, h2]

theorem nHas_nDel (t : NSet) (k j : Nat) : nHas j (nDel k t) = (!decide (j = k) && nHas j t) := by
  simp only [nHas, nDel, List.any_filter]
  by_cases h : j = k
  · subst h; simp
  · simp only [h, decide_false, Bool.not_false, Bool.true_and]
    congr 1; funext a
    by_cases h2 : a = j
    · subst h2; simp [h]
    · simp [h2]

/-! ### The canonical form -/

theorem tabWfFrom_mono [DecidableEq α] {d : α} {t : Tab α} {lo hi : Nat} (h : tabWfFrom d hi t = true) (hl : lo ≤ hi) :
    tabWfFrom d lo t = true := by
  cases t with
  | nil => rfl
  | cons p t =>
    obtain ⟨a, v⟩ := p
    simp only [tabWfFrom, Bool.and_eq_true, decide_eq_true_eq] at h ⊢
    exact ⟨⟨by omega, h.1.2⟩, h.2⟩

theorem tabWfFrom_tabIns [DecidableEq α] {d v : α} {t : Tab α} {lo k : Nat} (h : tabWfFrom d lo t = true) (hk : lo ≤ k)
    (hv : v ≠ d) : tabWfFrom d lo (tabIns k v t) = true := by
  induction t generalizing lo with
  | nil => simp [tabIns, tabWfFrom, hk, hv]
  | cons p t ih =>
    obtain ⟨a, w⟩ := p
    simp only [tabWfFrom, Bool.and_eq_true, decide_eq_true_eq] at h
    unfold tabIns
    split
    · simp only [tabWfFrom, Bool.and_eq_true, decide_eq_true_eq]
      exact ⟨⟨hk, by simp [hv]⟩, ⟨by omega, h.1.2⟩, h.2⟩
    · split
      · rename_i h1 h2; subst h2
        simp only [tabWfFrom, Bool.and_eq_true, decide_eq_true_eq]
        exact ⟨⟨hk, by simp [hv]⟩, h.2⟩
      · simp only [tabWfFrom, Bool.and_eq_true, decide_eq_true_eq]
        exact ⟨h.1, ih h.2 (by omega)⟩

theorem tabWfFrom_filter [DecidableEq α] {d : α} (q : Nat × α → Bool) {t : Tab α} {lo : Nat} (h : tabWfFrom d lo t = true) :
    tabWfFrom d lo (t.filter q) = true := by
  induction t generalizing lo with
  | nil => simpa using h
  | cons p t ih =>
    obtain ⟨a, w⟩ := p
    simp only [tabWfFrom, Bool.and_eq_true, decide_eq_true_eq] at h
    by_cases hq : q (a, w) = true
    · rw [List.filter_cons_of_pos hq]
      simp only [tabWfFrom, Bool.and_eq_true, decide_eq_true_eq]
      exact ⟨h.1, ih h.2⟩
    · rw [List.filter_cons_of_neg hq]
      exact ih (tabWfFrom_mono h.2 (by omega))

/-- Writing one key keeps a table canonical. -/
theorem tabWf_put [DecidableEq α] {d : α} {t : Tab α} (h : tabWf d t = true) (k : Nat) (v : α) :
    tabWf d (put d t k v) = true := by
  unfold put
  split
  · exact tabWfFrom_filter _ h
  · rename_i hv; exact tabWfFrom_tabIns h (Nat.zero_le k) hv

theorem nWfFrom_mono {t : NSet} {lo hi : Nat} (h : nWfFrom hi t = true) (hl : lo ≤ hi) : nWfFrom lo t = true := by
  cases t with
  | nil => rfl
  | cons a t =>
    simp only [nWfFrom, Bool.and_eq_true, decide_eq_true_eq] at h ⊢
    exact ⟨by omega, h.2⟩

theorem nWfFrom_nIns {t : NSet} {lo k : Nat} (h : nWfFrom lo t = true) (hk : lo ≤ k) : nWfFrom lo (nIns k t) = true := by
  induction t generalizing lo with
  | nil => simp [nIns, nWfFrom, hk]
  | cons a t ih =>
    simp only [nWfFrom, Bool.and_eq_true, decide_eq_true_eq] at h
    unfold nIns
    split
    · simp only [nWfFrom, Bool.and_eq_true, decide_eq_true_eq]; exact ⟨hk, by omega, h.2⟩
    · split
      · simp only [nWfFrom, Bool.and_eq_true, decide_eq_true_eq]; exact h
      · simp only [nWfFrom, Bool.and_eq_true, decide_eq_true_eq]; exact ⟨h.1, ih h.2 (by omega)⟩

theorem nWfFrom_filter (q : Nat → Bool) {t : NSet} {lo : Nat} (h : nWfFrom lo t = true) :
    nWfFrom lo (t.filter q) = true := by
  induction t generalizing lo with
  | nil => simpa using h
  | cons a t ih =>
    simp only [nWfFrom, Bool.and_eq_true, decide_eq_true_eq] at h
    by_cases hq : q a = true
    · rw [List.filter_cons_of_pos hq]
      simp only [nWfFrom, Bool.and_eq_true, decide_eq_true_eq]
      exact ⟨h.1, ih h.2⟩
    · rw [List.filter_cons_of_neg hq]
      exact ih (nWfFrom_mono h.2 (by omega))

/-- Putting a number into a set keeps it canonical. -/
theorem nWf_nIns {t : NSet} (h : nWf t = true) (k : Nat) : nWf (nIns k t) = true := nWfFrom_nIns h (Nat.zero_le k)

/-- Taking a number out of a set keeps it canonical. -/
theorem nWf_nDel {t : NSet} (h : nWf t = true) (k : Nat) : nWf (nDel k t) = true := nWfFrom_filter _ h

end Sys2Proof.Machine
end

