-- ==== Sys2Proof/Laws/State.lean ====
section
/-! SUPPORT. What each unit's update does to every part of the state: it is read back where it was put, and nothing
else changes. -/

namespace Sys2Proof.Machine

variable (s : State) (k j : Nat)

/-! ### engines -/

@[simp] theorem modEng_eq (f : Engine → Engine) : s.modEng k f = s.setEng k (f (s.eng k)) := rfl
@[simp] theorem setEng_eng (v : Engine) : (s.setEng k v).eng k = v := by simp [State.setEng, State.eng]
theorem setEng_eng_ne (v : Engine) (h : j ≠ k) : (s.setEng k v).eng j = s.eng j := by
  simp [State.setEng, State.eng, look_put_ne, h]
@[simp] theorem setEng_stream (v : Engine) : (s.setEng k v).stream j = s.stream j := rfl
@[simp] theorem setEng_unit (v : Engine) : (s.setEng k v).unit j = s.unit j := rfl
@[simp] theorem setEng_chan (v : Engine) : (s.setEng k v).chan j = s.chan j := rfl
@[simp] theorem setEng_stack (v : Engine) : (s.setEng k v).stack j = s.stack j := rfl
@[simp] theorem setEng_hart (v : Engine) : (s.setEng k v).hart j = s.hart j := rfl
@[simp] theorem setEng_host (v : Engine) : (s.setEng k v).host j = s.host j := rfl
@[simp] theorem setEng_ep (v : Engine) : (s.setEng k v).ep j = s.ep j := rfl
@[simp] theorem setEng_pc (v : Engine) : (s.setEng k v).pc j = s.pc j := rfl
@[simp] theorem setEng_port (v : Engine) : (s.setEng k v).port j = s.port j := rfl
@[simp] theorem setEng_path (v : Engine) : (s.setEng k v).path j = s.path j := rfl
@[simp] theorem setEng_link (v : Engine) : (s.setEng k v).link j = s.link j := rfl
@[simp] theorem setEng_hlink (v : Engine) : (s.setEng k v).hlink j = s.hlink j := rfl
@[simp] theorem setEng_spire (v : Engine) : (s.setEng k v).spire j = s.spire j := rfl
@[simp] theorem setEng_ident (v : Engine) : (s.setEng k v).ident j = s.ident j := rfl
@[simp] theorem setEng_fwOf (v : Engine) : (s.setEng k v).fwOf j = s.fwOf j := rfl
@[simp] theorem setEng_uc (v : Engine) : (s.setEng k v).uc j = s.uc j := rfl
@[simp] theorem setEng_clRing (v : Engine) : (s.setEng k v).clRing j = s.clRing j := rfl
@[simp] theorem setEng_roRing (v : Engine) : (s.setEng k v).roRing j = s.roRing j := rfl
@[simp] theorem setEng_crRing (v : Engine) : (s.setEng k v).crRing j = s.crRing j := rfl
@[simp] theorem setEng_kernel (v : Engine) : (s.setEng k v).kernel j = s.kernel j := rfl
@[simp] theorem setEng_tt (v : Engine) : (s.setEng k v).tt j = s.tt j := rfl
@[simp] theorem setEng_book (v : Engine) : (s.setEng k v).book j = s.book j := rfl
@[simp] theorem setEng_siding (v : Engine) : (s.setEng k v).siding j = s.siding j := rfl
@[simp] theorem setEng_tile (v : Engine) : (s.setEng k v).tile j = s.tile j := rfl
@[simp] theorem setEng_pending (v : Engine) : (s.setEng k v).pending = s.pending := rfl
@[simp] theorem setEng_nonce (v : Engine) : (s.setEng k v).nonce = s.nonce := rfl
@[simp] theorem setEng_pkg (v : Engine) : (s.setEng k v).pkg = s.pkg := rfl
@[simp] theorem setEng_flits (v : Engine) : (s.setEng k v).flits = s.flits := rfl
@[simp] theorem setEng_flitKey (v : Engine) : (s.setEng k v).flitKey = s.flitKey := rfl
@[simp] theorem setEng_outer (v : Engine) : (s.setEng k v).outer = s.outer := rfl
@[simp] theorem setEng_kAddr (v : Engine) : (s.setEng k v).kAddr = s.kAddr := rfl
@[simp] theorem setEng_kResult (v : Engine) : (s.setEng k v).kResult = s.kResult := rfl
@[simp] theorem setEng_kBad (v : Engine) : (s.setEng k v).kBad = s.kBad := rfl
@[simp] theorem setEng_kCmds (v : Engine) : (s.setEng k v).kCmds = s.kCmds := rfl
@[simp] theorem setEng_launches (v : Engine) : (s.setEng k v).launches = s.launches := rfl
@[simp] theorem setEng_nextKey (v : Engine) : (s.setEng k v).nextKey = s.nextKey := rfl
@[simp] theorem setEng_faultNo (v : Engine) : (s.setEng k v).faultNo = s.faultNo := rfl
@[simp] theorem setEng_atomics (v : Engine) : (s.setEng k v).atomics = s.atomics := rfl
@[simp] theorem setEng_expects (v : Engine) : (s.setEng k v).expects = s.expects := rfl
@[simp] theorem setEng_mem (v : Engine) : (s.setEng k v).mem = s.mem := rfl
@[simp] theorem setEng_poison (v : Engine) : (s.setEng k v).poison = s.poison := rfl
@[simp] theorem setEng_stale (v : Engine) : (s.setEng k v).stale = s.stale := rfl
@[simp] theorem setEng_useClock (v : Engine) : (s.setEng k v).useClock = s.useClock := rfl
@[simp] theorem setEng_migs (v : Engine) : (s.setEng k v).migs = s.migs := rfl
@[simp] theorem setEng_recovering (v : Engine) : (s.setEng k v).recovering = s.recovering := rfl
@[simp] theorem setEng_astBase (v : Engine) : (s.setEng k v).astBase = s.astBase := rfl
@[simp] theorem setEng_astCache (v : Engine) : (s.setEng k v).astCache = s.astCache := rfl
@[simp] theorem setEng_tlb (v : Engine) : (s.setEng k v).tlb = s.tlb := rfl
@[simp] theorem setEng_pairs (v : Engine) : (s.setEng k v).pairs = s.pairs := rfl
@[simp] theorem setEng_mlId (v : Engine) : (s.setEng k v).mlId = s.mlId := rfl
@[simp] theorem setEng_winBase (v : Engine) : (s.setEng k v).winBase = s.winBase := rfl
@[simp] theorem setEng_winCache (v : Engine) : (s.setEng k v).winCache = s.winCache := rfl
@[simp] theorem setEng_winInv (v : Engine) : (s.setEng k v).winInv = s.winInv := rfl
@[simp] theorem setEng_sent (v : Engine) : (s.setEng k v).sent = s.sent := rfl
@[simp] theorem setEng_remOps (v : Engine) : (s.setEng k v).remOps = s.remOps := rfl
@[simp] theorem setEng_grpBase (v : Engine) : (s.setEng k v).grpBase = s.grpBase := rfl
@[simp] theorem setEng_colls (v : Engine) : (s.setEng k v).colls = s.colls := rfl
@[simp] theorem setEng_early (v : Engine) : (s.setEng k v).early = s.early := rfl
@[simp] theorem setEng_opTag (v : Engine) : (s.setEng k v).opTag = s.opTag := rfl
@[simp] theorem setEng_td (v : Engine) : (s.setEng k v).td = s.td := rfl
@[simp] theorem setEng_sig (v : Engine) : (s.setEng k v).sig = s.sig := rfl
@[simp] theorem setEng_sec (v : Engine) : (s.setEng k v).sec = s.sec := rfl

/-! ### streams -/

@[simp] theorem modStream_eq (f : Stream → Stream) : s.modStream k f = s.setStream k (f (s.stream k)) := rfl
@[simp] theorem setStream_stream (v : Stream) : (s.setStream k v).stream k = v := by simp [State.setStream, State.stream]
theorem setStream_stream_ne (v : Stream) (h : j ≠ k) : (s.setStream k v).stream j = s.stream j := by
  simp [State.setStream, State.stream, look_put_ne, h]
@[simp] theorem setStream_eng (v : Stream) : (s.setStream k v).eng j = s.eng j := rfl
@[simp] theorem setStream_unit (v : Stream) : (s.setStream k v).unit j = s.unit j := rfl
@[simp] theorem setStream_chan (v : Stream) : (s.setStream k v).chan j = s.chan j := rfl
@[simp] theorem setStream_stack (v : Stream) : (s.setStream k v).stack j = s.stack j := rfl
@[simp] theorem setStream_hart (v : Stream) : (s.setStream k v).hart j = s.hart j := rfl
@[simp] theorem setStream_host (v : Stream) : (s.setStream k v).host j = s.host j := rfl
@[simp] theorem setStream_ep (v : Stream) : (s.setStream k v).ep j = s.ep j := rfl
@[simp] theorem setStream_pc (v : Stream) : (s.setStream k v).pc j = s.pc j := rfl
@[simp] theorem setStream_port (v : Stream) : (s.setStream k v).port j = s.port j := rfl
@[simp] theorem setStream_path (v : Stream) : (s.setStream k v).path j = s.path j := rfl
@[simp] theorem setStream_link (v : Stream) : (s.setStream k v).link j = s.link j := rfl
@[simp] theorem setStream_hlink (v : Stream) : (s.setStream k v).hlink j = s.hlink j := rfl
@[simp] theorem setStream_spire (v : Stream) : (s.setStream k v).spire j = s.spire j := rfl
@[simp] theorem setStream_ident (v : Stream) : (s.setStream k v).ident j = s.ident j := rfl
@[simp] theorem setStream_fwOf (v : Stream) : (s.setStream k v).fwOf j = s.fwOf j := rfl
@[simp] theorem setStream_uc (v : Stream) : (s.setStream k v).uc j = s.uc j := rfl
@[simp] theorem setStream_clRing (v : Stream) : (s.setStream k v).clRing j = s.clRing j := rfl
@[simp] theorem setStream_roRing (v : Stream) : (s.setStream k v).roRing j = s.roRing j := rfl
@[simp] theorem setStream_crRing (v : Stream) : (s.setStream k v).crRing j = s.crRing j := rfl
@[simp] theorem setStream_kernel (v : Stream) : (s.setStream k v).kernel j = s.kernel j := rfl
@[simp] theorem setStream_tt (v : Stream) : (s.setStream k v).tt j = s.tt j := rfl
@[simp] theorem setStream_book (v : Stream) : (s.setStream k v).book j = s.book j := rfl
@[simp] theorem setStream_siding (v : Stream) : (s.setStream k v).siding j = s.siding j := rfl
@[simp] theorem setStream_tile (v : Stream) : (s.setStream k v).tile j = s.tile j := rfl
@[simp] theorem setStream_pending (v : Stream) : (s.setStream k v).pending = s.pending := rfl
@[simp] theorem setStream_nonce (v : Stream) : (s.setStream k v).nonce = s.nonce := rfl
@[simp] theorem setStream_pkg (v : Stream) : (s.setStream k v).pkg = s.pkg := rfl
@[simp] theorem setStream_flits (v : Stream) : (s.setStream k v).flits = s.flits := rfl
@[simp] theorem setStream_flitKey (v : Stream) : (s.setStream k v).flitKey = s.flitKey := rfl
@[simp] theorem setStream_outer (v : Stream) : (s.setStream k v).outer = s.outer := rfl
@[simp] theorem setStream_kAddr (v : Stream) : (s.setStream k v).kAddr = s.kAddr := rfl
@[simp] theorem setStream_kResult (v : Stream) : (s.setStream k v).kResult = s.kResult := rfl
@[simp] theorem setStream_kBad (v : Stream) : (s.setStream k v).kBad = s.kBad := rfl
@[simp] theorem setStream_kCmds (v : Stream) : (s.setStream k v).kCmds = s.kCmds := rfl
@[simp] theorem setStream_launches (v : Stream) : (s.setStream k v).launches = s.launches := rfl
@[simp] theorem setStream_nextKey (v : Stream) : (s.setStream k v).nextKey = s.nextKey := rfl
@[simp] theorem setStream_faultNo (v : Stream) : (s.setStream k v).faultNo = s.faultNo := rfl
@[simp] theorem setStream_atomics (v : Stream) : (s.setStream k v).atomics = s.atomics := rfl
@[simp] theorem setStream_expects (v : Stream) : (s.setStream k v).expects = s.expects := rfl
@[simp] theorem setStream_mem (v : Stream) : (s.setStream k v).mem = s.mem := rfl
@[simp] theorem setStream_poison (v : Stream) : (s.setStream k v).poison = s.poison := rfl
@[simp] theorem setStream_stale (v : Stream) : (s.setStream k v).stale = s.stale := rfl
@[simp] theorem setStream_useClock (v : Stream) : (s.setStream k v).useClock = s.useClock := rfl
@[simp] theorem setStream_migs (v : Stream) : (s.setStream k v).migs = s.migs := rfl
@[simp] theorem setStream_recovering (v : Stream) : (s.setStream k v).recovering = s.recovering := rfl
@[simp] theorem setStream_astBase (v : Stream) : (s.setStream k v).astBase = s.astBase := rfl
@[simp] theorem setStream_astCache (v : Stream) : (s.setStream k v).astCache = s.astCache := rfl
@[simp] theorem setStream_tlb (v : Stream) : (s.setStream k v).tlb = s.tlb := rfl
@[simp] theorem setStream_pairs (v : Stream) : (s.setStream k v).pairs = s.pairs := rfl
@[simp] theorem setStream_mlId (v : Stream) : (s.setStream k v).mlId = s.mlId := rfl
@[simp] theorem setStream_winBase (v : Stream) : (s.setStream k v).winBase = s.winBase := rfl
@[simp] theorem setStream_winCache (v : Stream) : (s.setStream k v).winCache = s.winCache := rfl
@[simp] theorem setStream_winInv (v : Stream) : (s.setStream k v).winInv = s.winInv := rfl
@[simp] theorem setStream_sent (v : Stream) : (s.setStream k v).sent = s.sent := rfl
@[simp] theorem setStream_remOps (v : Stream) : (s.setStream k v).remOps = s.remOps := rfl
@[simp] theorem setStream_grpBase (v : Stream) : (s.setStream k v).grpBase = s.grpBase := rfl
@[simp] theorem setStream_colls (v : Stream) : (s.setStream k v).colls = s.colls := rfl
@[simp] theorem setStream_early (v : Stream) : (s.setStream k v).early = s.early := rfl
@[simp] theorem setStream_opTag (v : Stream) : (s.setStream k v).opTag = s.opTag := rfl
@[simp] theorem setStream_td (v : Stream) : (s.setStream k v).td = s.td := rfl
@[simp] theorem setStream_sig (v : Stream) : (s.setStream k v).sig = s.sig := rfl
@[simp] theorem setStream_sec (v : Stream) : (s.setStream k v).sec = s.sec := rfl

/-! ### units -/

@[simp] theorem modUnit_eq (f : CupUnit → CupUnit) : s.modUnit k f = s.setUnit k (f (s.unit k)) := rfl
@[simp] theorem setUnit_unit (v : CupUnit) : (s.setUnit k v).unit k = v := by simp [State.setUnit, State.unit]
theorem setUnit_unit_ne (v : CupUnit) (h : j ≠ k) : (s.setUnit k v).unit j = s.unit j := by
  simp [State.setUnit, State.unit, look_put_ne, h]
@[simp] theorem setUnit_eng (v : CupUnit) : (s.setUnit k v).eng j = s.eng j := rfl
@[simp] theorem setUnit_stream (v : CupUnit) : (s.setUnit k v).stream j = s.stream j := rfl
@[simp] theorem setUnit_chan (v : CupUnit) : (s.setUnit k v).chan j = s.chan j := rfl
@[simp] theorem setUnit_stack (v : CupUnit) : (s.setUnit k v).stack j = s.stack j := rfl
@[simp] theorem setUnit_hart (v : CupUnit) : (s.setUnit k v).hart j = s.hart j := rfl
@[simp] theorem setUnit_host (v : CupUnit) : (s.setUnit k v).host j = s.host j := rfl
@[simp] theorem setUnit_ep (v : CupUnit) : (s.setUnit k v).ep j = s.ep j := rfl
@[simp] theorem setUnit_pc (v : CupUnit) : (s.setUnit k v).pc j = s.pc j := rfl
@[simp] theorem setUnit_port (v : CupUnit) : (s.setUnit k v).port j = s.port j := rfl
@[simp] theorem setUnit_path (v : CupUnit) : (s.setUnit k v).path j = s.path j := rfl
@[simp] theorem setUnit_link (v : CupUnit) : (s.setUnit k v).link j = s.link j := rfl
@[simp] theorem setUnit_hlink (v : CupUnit) : (s.setUnit k v).hlink j = s.hlink j := rfl
@[simp] theorem setUnit_spire (v : CupUnit) : (s.setUnit k v).spire j = s.spire j := rfl
@[simp] theorem setUnit_ident (v : CupUnit) : (s.setUnit k v).ident j = s.ident j := rfl
@[simp] theorem setUnit_fwOf (v : CupUnit) : (s.setUnit k v).fwOf j = s.fwOf j := rfl
@[simp] theorem setUnit_uc (v : CupUnit) : (s.setUnit k v).uc j = s.uc j := rfl
@[simp] theorem setUnit_clRing (v : CupUnit) : (s.setUnit k v).clRing j = s.clRing j := rfl
@[simp] theorem setUnit_roRing (v : CupUnit) : (s.setUnit k v).roRing j = s.roRing j := rfl
@[simp] theorem setUnit_crRing (v : CupUnit) : (s.setUnit k v).crRing j = s.crRing j := rfl
@[simp] theorem setUnit_kernel (v : CupUnit) : (s.setUnit k v).kernel j = s.kernel j := rfl
@[simp] theorem setUnit_tt (v : CupUnit) : (s.setUnit k v).tt j = s.tt j := rfl
@[simp] theorem setUnit_book (v : CupUnit) : (s.setUnit k v).book j = s.book j := rfl
@[simp] theorem setUnit_siding (v : CupUnit) : (s.setUnit k v).siding j = s.siding j := rfl
@[simp] theorem setUnit_tile (v : CupUnit) : (s.setUnit k v).tile j = s.tile j := rfl
@[simp] theorem setUnit_pending (v : CupUnit) : (s.setUnit k v).pending = s.pending := rfl
@[simp] theorem setUnit_nonce (v : CupUnit) : (s.setUnit k v).nonce = s.nonce := rfl
@[simp] theorem setUnit_pkg (v : CupUnit) : (s.setUnit k v).pkg = s.pkg := rfl
@[simp] theorem setUnit_flits (v : CupUnit) : (s.setUnit k v).flits = s.flits := rfl
@[simp] theorem setUnit_flitKey (v : CupUnit) : (s.setUnit k v).flitKey = s.flitKey := rfl
@[simp] theorem setUnit_outer (v : CupUnit) : (s.setUnit k v).outer = s.outer := rfl
@[simp] theorem setUnit_kAddr (v : CupUnit) : (s.setUnit k v).kAddr = s.kAddr := rfl
@[simp] theorem setUnit_kResult (v : CupUnit) : (s.setUnit k v).kResult = s.kResult := rfl
@[simp] theorem setUnit_kBad (v : CupUnit) : (s.setUnit k v).kBad = s.kBad := rfl
@[simp] theorem setUnit_kCmds (v : CupUnit) : (s.setUnit k v).kCmds = s.kCmds := rfl
@[simp] theorem setUnit_launches (v : CupUnit) : (s.setUnit k v).launches = s.launches := rfl
@[simp] theorem setUnit_nextKey (v : CupUnit) : (s.setUnit k v).nextKey = s.nextKey := rfl
@[simp] theorem setUnit_faultNo (v : CupUnit) : (s.setUnit k v).faultNo = s.faultNo := rfl
@[simp] theorem setUnit_atomics (v : CupUnit) : (s.setUnit k v).atomics = s.atomics := rfl
@[simp] theorem setUnit_expects (v : CupUnit) : (s.setUnit k v).expects = s.expects := rfl
@[simp] theorem setUnit_mem (v : CupUnit) : (s.setUnit k v).mem = s.mem := rfl
@[simp] theorem setUnit_poison (v : CupUnit) : (s.setUnit k v).poison = s.poison := rfl
@[simp] theorem setUnit_stale (v : CupUnit) : (s.setUnit k v).stale = s.stale := rfl
@[simp] theorem setUnit_useClock (v : CupUnit) : (s.setUnit k v).useClock = s.useClock := rfl
@[simp] theorem setUnit_migs (v : CupUnit) : (s.setUnit k v).migs = s.migs := rfl
@[simp] theorem setUnit_recovering (v : CupUnit) : (s.setUnit k v).recovering = s.recovering := rfl
@[simp] theorem setUnit_astBase (v : CupUnit) : (s.setUnit k v).astBase = s.astBase := rfl
@[simp] theorem setUnit_astCache (v : CupUnit) : (s.setUnit k v).astCache = s.astCache := rfl
@[simp] theorem setUnit_tlb (v : CupUnit) : (s.setUnit k v).tlb = s.tlb := rfl
@[simp] theorem setUnit_pairs (v : CupUnit) : (s.setUnit k v).pairs = s.pairs := rfl
@[simp] theorem setUnit_mlId (v : CupUnit) : (s.setUnit k v).mlId = s.mlId := rfl
@[simp] theorem setUnit_winBase (v : CupUnit) : (s.setUnit k v).winBase = s.winBase := rfl
@[simp] theorem setUnit_winCache (v : CupUnit) : (s.setUnit k v).winCache = s.winCache := rfl
@[simp] theorem setUnit_winInv (v : CupUnit) : (s.setUnit k v).winInv = s.winInv := rfl
@[simp] theorem setUnit_sent (v : CupUnit) : (s.setUnit k v).sent = s.sent := rfl
@[simp] theorem setUnit_remOps (v : CupUnit) : (s.setUnit k v).remOps = s.remOps := rfl
@[simp] theorem setUnit_grpBase (v : CupUnit) : (s.setUnit k v).grpBase = s.grpBase := rfl
@[simp] theorem setUnit_colls (v : CupUnit) : (s.setUnit k v).colls = s.colls := rfl
@[simp] theorem setUnit_early (v : CupUnit) : (s.setUnit k v).early = s.early := rfl
@[simp] theorem setUnit_opTag (v : CupUnit) : (s.setUnit k v).opTag = s.opTag := rfl
@[simp] theorem setUnit_td (v : CupUnit) : (s.setUnit k v).td = s.td := rfl
@[simp] theorem setUnit_sig (v : CupUnit) : (s.setUnit k v).sig = s.sig := rfl
@[simp] theorem setUnit_sec (v : CupUnit) : (s.setUnit k v).sec = s.sec := rfl

/-! ### chans -/

@[simp] theorem modChan_eq (f : Chan → Chan) : s.modChan k f = s.setChan k (f (s.chan k)) := rfl
@[simp] theorem setChan_chan (v : Chan) : (s.setChan k v).chan k = v := by simp [State.setChan, State.chan]
theorem setChan_chan_ne (v : Chan) (h : j ≠ k) : (s.setChan k v).chan j = s.chan j := by
  simp [State.setChan, State.chan, look_put_ne, h]
@[simp] theorem setChan_eng (v : Chan) : (s.setChan k v).eng j = s.eng j := rfl
@[simp] theorem setChan_stream (v : Chan) : (s.setChan k v).stream j = s.stream j := rfl
@[simp] theorem setChan_unit (v : Chan) : (s.setChan k v).unit j = s.unit j := rfl
@[simp] theorem setChan_stack (v : Chan) : (s.setChan k v).stack j = s.stack j := rfl
@[simp] theorem setChan_hart (v : Chan) : (s.setChan k v).hart j = s.hart j := rfl
@[simp] theorem setChan_host (v : Chan) : (s.setChan k v).host j = s.host j := rfl
@[simp] theorem setChan_ep (v : Chan) : (s.setChan k v).ep j = s.ep j := rfl
@[simp] theorem setChan_pc (v : Chan) : (s.setChan k v).pc j = s.pc j := rfl
@[simp] theorem setChan_port (v : Chan) : (s.setChan k v).port j = s.port j := rfl
@[simp] theorem setChan_path (v : Chan) : (s.setChan k v).path j = s.path j := rfl
@[simp] theorem setChan_link (v : Chan) : (s.setChan k v).link j = s.link j := rfl
@[simp] theorem setChan_hlink (v : Chan) : (s.setChan k v).hlink j = s.hlink j := rfl
@[simp] theorem setChan_spire (v : Chan) : (s.setChan k v).spire j = s.spire j := rfl
@[simp] theorem setChan_ident (v : Chan) : (s.setChan k v).ident j = s.ident j := rfl
@[simp] theorem setChan_fwOf (v : Chan) : (s.setChan k v).fwOf j = s.fwOf j := rfl
@[simp] theorem setChan_uc (v : Chan) : (s.setChan k v).uc j = s.uc j := rfl
@[simp] theorem setChan_clRing (v : Chan) : (s.setChan k v).clRing j = s.clRing j := rfl
@[simp] theorem setChan_roRing (v : Chan) : (s.setChan k v).roRing j = s.roRing j := rfl
@[simp] theorem setChan_crRing (v : Chan) : (s.setChan k v).crRing j = s.crRing j := rfl
@[simp] theorem setChan_kernel (v : Chan) : (s.setChan k v).kernel j = s.kernel j := rfl
@[simp] theorem setChan_tt (v : Chan) : (s.setChan k v).tt j = s.tt j := rfl
@[simp] theorem setChan_book (v : Chan) : (s.setChan k v).book j = s.book j := rfl
@[simp] theorem setChan_siding (v : Chan) : (s.setChan k v).siding j = s.siding j := rfl
@[simp] theorem setChan_tile (v : Chan) : (s.setChan k v).tile j = s.tile j := rfl
@[simp] theorem setChan_pending (v : Chan) : (s.setChan k v).pending = s.pending := rfl
@[simp] theorem setChan_nonce (v : Chan) : (s.setChan k v).nonce = s.nonce := rfl
@[simp] theorem setChan_pkg (v : Chan) : (s.setChan k v).pkg = s.pkg := rfl
@[simp] theorem setChan_flits (v : Chan) : (s.setChan k v).flits = s.flits := rfl
@[simp] theorem setChan_flitKey (v : Chan) : (s.setChan k v).flitKey = s.flitKey := rfl
@[simp] theorem setChan_outer (v : Chan) : (s.setChan k v).outer = s.outer := rfl
@[simp] theorem setChan_kAddr (v : Chan) : (s.setChan k v).kAddr = s.kAddr := rfl
@[simp] theorem setChan_kResult (v : Chan) : (s.setChan k v).kResult = s.kResult := rfl
@[simp] theorem setChan_kBad (v : Chan) : (s.setChan k v).kBad = s.kBad := rfl
@[simp] theorem setChan_kCmds (v : Chan) : (s.setChan k v).kCmds = s.kCmds := rfl
@[simp] theorem setChan_launches (v : Chan) : (s.setChan k v).launches = s.launches := rfl
@[simp] theorem setChan_nextKey (v : Chan) : (s.setChan k v).nextKey = s.nextKey := rfl
@[simp] theorem setChan_faultNo (v : Chan) : (s.setChan k v).faultNo = s.faultNo := rfl
@[simp] theorem setChan_atomics (v : Chan) : (s.setChan k v).atomics = s.atomics := rfl
@[simp] theorem setChan_expects (v : Chan) : (s.setChan k v).expects = s.expects := rfl
@[simp] theorem setChan_mem (v : Chan) : (s.setChan k v).mem = s.mem := rfl
@[simp] theorem setChan_poison (v : Chan) : (s.setChan k v).poison = s.poison := rfl
@[simp] theorem setChan_stale (v : Chan) : (s.setChan k v).stale = s.stale := rfl
@[simp] theorem setChan_useClock (v : Chan) : (s.setChan k v).useClock = s.useClock := rfl
@[simp] theorem setChan_migs (v : Chan) : (s.setChan k v).migs = s.migs := rfl
@[simp] theorem setChan_recovering (v : Chan) : (s.setChan k v).recovering = s.recovering := rfl
@[simp] theorem setChan_astBase (v : Chan) : (s.setChan k v).astBase = s.astBase := rfl
@[simp] theorem setChan_astCache (v : Chan) : (s.setChan k v).astCache = s.astCache := rfl
@[simp] theorem setChan_tlb (v : Chan) : (s.setChan k v).tlb = s.tlb := rfl
@[simp] theorem setChan_pairs (v : Chan) : (s.setChan k v).pairs = s.pairs := rfl
@[simp] theorem setChan_mlId (v : Chan) : (s.setChan k v).mlId = s.mlId := rfl
@[simp] theorem setChan_winBase (v : Chan) : (s.setChan k v).winBase = s.winBase := rfl
@[simp] theorem setChan_winCache (v : Chan) : (s.setChan k v).winCache = s.winCache := rfl
@[simp] theorem setChan_winInv (v : Chan) : (s.setChan k v).winInv = s.winInv := rfl
@[simp] theorem setChan_sent (v : Chan) : (s.setChan k v).sent = s.sent := rfl
@[simp] theorem setChan_remOps (v : Chan) : (s.setChan k v).remOps = s.remOps := rfl
@[simp] theorem setChan_grpBase (v : Chan) : (s.setChan k v).grpBase = s.grpBase := rfl
@[simp] theorem setChan_colls (v : Chan) : (s.setChan k v).colls = s.colls := rfl
@[simp] theorem setChan_early (v : Chan) : (s.setChan k v).early = s.early := rfl
@[simp] theorem setChan_opTag (v : Chan) : (s.setChan k v).opTag = s.opTag := rfl
@[simp] theorem setChan_td (v : Chan) : (s.setChan k v).td = s.td := rfl
@[simp] theorem setChan_sig (v : Chan) : (s.setChan k v).sig = s.sig := rfl
@[simp] theorem setChan_sec (v : Chan) : (s.setChan k v).sec = s.sec := rfl

/-! ### stks -/

@[simp] theorem modStack_eq (f : StackSt → StackSt) : s.modStack k f = s.setStack k (f (s.stack k)) := rfl
@[simp] theorem setStack_stack (v : StackSt) : (s.setStack k v).stack k = v := by simp [State.setStack, State.stack]
theorem setStack_stack_ne (v : StackSt) (h : j ≠ k) : (s.setStack k v).stack j = s.stack j := by
  simp [State.setStack, State.stack, look_put_ne, h]
@[simp] theorem setStack_eng (v : StackSt) : (s.setStack k v).eng j = s.eng j := rfl
@[simp] theorem setStack_stream (v : StackSt) : (s.setStack k v).stream j = s.stream j := rfl
@[simp] theorem setStack_unit (v : StackSt) : (s.setStack k v).unit j = s.unit j := rfl
@[simp] theorem setStack_chan (v : StackSt) : (s.setStack k v).chan j = s.chan j := rfl
@[simp] theorem setStack_hart (v : StackSt) : (s.setStack k v).hart j = s.hart j := rfl
@[simp] theorem setStack_host (v : StackSt) : (s.setStack k v).host j = s.host j := rfl
@[simp] theorem setStack_ep (v : StackSt) : (s.setStack k v).ep j = s.ep j := rfl
@[simp] theorem setStack_pc (v : StackSt) : (s.setStack k v).pc j = s.pc j := rfl
@[simp] theorem setStack_port (v : StackSt) : (s.setStack k v).port j = s.port j := rfl
@[simp] theorem setStack_path (v : StackSt) : (s.setStack k v).path j = s.path j := rfl
@[simp] theorem setStack_link (v : StackSt) : (s.setStack k v).link j = s.link j := rfl
@[simp] theorem setStack_hlink (v : StackSt) : (s.setStack k v).hlink j = s.hlink j := rfl
@[simp] theorem setStack_spire (v : StackSt) : (s.setStack k v).spire j = s.spire j := rfl
@[simp] theorem setStack_ident (v : StackSt) : (s.setStack k v).ident j = s.ident j := rfl
@[simp] theorem setStack_fwOf (v : StackSt) : (s.setStack k v).fwOf j = s.fwOf j := rfl
@[simp] theorem setStack_uc (v : StackSt) : (s.setStack k v).uc j = s.uc j := rfl
@[simp] theorem setStack_clRing (v : StackSt) : (s.setStack k v).clRing j = s.clRing j := rfl
@[simp] theorem setStack_roRing (v : StackSt) : (s.setStack k v).roRing j = s.roRing j := rfl
@[simp] theorem setStack_crRing (v : StackSt) : (s.setStack k v).crRing j = s.crRing j := rfl
@[simp] theorem setStack_kernel (v : StackSt) : (s.setStack k v).kernel j = s.kernel j := rfl
@[simp] theorem setStack_tt (v : StackSt) : (s.setStack k v).tt j = s.tt j := rfl
@[simp] theorem setStack_book (v : StackSt) : (s.setStack k v).book j = s.book j := rfl
@[simp] theorem setStack_siding (v : StackSt) : (s.setStack k v).siding j = s.siding j := rfl
@[simp] theorem setStack_tile (v : StackSt) : (s.setStack k v).tile j = s.tile j := rfl
@[simp] theorem setStack_pending (v : StackSt) : (s.setStack k v).pending = s.pending := rfl
@[simp] theorem setStack_nonce (v : StackSt) : (s.setStack k v).nonce = s.nonce := rfl
@[simp] theorem setStack_pkg (v : StackSt) : (s.setStack k v).pkg = s.pkg := rfl
@[simp] theorem setStack_flits (v : StackSt) : (s.setStack k v).flits = s.flits := rfl
@[simp] theorem setStack_flitKey (v : StackSt) : (s.setStack k v).flitKey = s.flitKey := rfl
@[simp] theorem setStack_outer (v : StackSt) : (s.setStack k v).outer = s.outer := rfl
@[simp] theorem setStack_kAddr (v : StackSt) : (s.setStack k v).kAddr = s.kAddr := rfl
@[simp] theorem setStack_kResult (v : StackSt) : (s.setStack k v).kResult = s.kResult := rfl
@[simp] theorem setStack_kBad (v : StackSt) : (s.setStack k v).kBad = s.kBad := rfl
@[simp] theorem setStack_kCmds (v : StackSt) : (s.setStack k v).kCmds = s.kCmds := rfl
@[simp] theorem setStack_launches (v : StackSt) : (s.setStack k v).launches = s.launches := rfl
@[simp] theorem setStack_nextKey (v : StackSt) : (s.setStack k v).nextKey = s.nextKey := rfl
@[simp] theorem setStack_faultNo (v : StackSt) : (s.setStack k v).faultNo = s.faultNo := rfl
@[simp] theorem setStack_atomics (v : StackSt) : (s.setStack k v).atomics = s.atomics := rfl
@[simp] theorem setStack_expects (v : StackSt) : (s.setStack k v).expects = s.expects := rfl
@[simp] theorem setStack_mem (v : StackSt) : (s.setStack k v).mem = s.mem := rfl
@[simp] theorem setStack_poison (v : StackSt) : (s.setStack k v).poison = s.poison := rfl
@[simp] theorem setStack_stale (v : StackSt) : (s.setStack k v).stale = s.stale := rfl
@[simp] theorem setStack_useClock (v : StackSt) : (s.setStack k v).useClock = s.useClock := rfl
@[simp] theorem setStack_migs (v : StackSt) : (s.setStack k v).migs = s.migs := rfl
@[simp] theorem setStack_recovering (v : StackSt) : (s.setStack k v).recovering = s.recovering := rfl
@[simp] theorem setStack_astBase (v : StackSt) : (s.setStack k v).astBase = s.astBase := rfl
@[simp] theorem setStack_astCache (v : StackSt) : (s.setStack k v).astCache = s.astCache := rfl
@[simp] theorem setStack_tlb (v : StackSt) : (s.setStack k v).tlb = s.tlb := rfl
@[simp] theorem setStack_pairs (v : StackSt) : (s.setStack k v).pairs = s.pairs := rfl
@[simp] theorem setStack_mlId (v : StackSt) : (s.setStack k v).mlId = s.mlId := rfl
@[simp] theorem setStack_winBase (v : StackSt) : (s.setStack k v).winBase = s.winBase := rfl
@[simp] theorem setStack_winCache (v : StackSt) : (s.setStack k v).winCache = s.winCache := rfl
@[simp] theorem setStack_winInv (v : StackSt) : (s.setStack k v).winInv = s.winInv := rfl
@[simp] theorem setStack_sent (v : StackSt) : (s.setStack k v).sent = s.sent := rfl
@[simp] theorem setStack_remOps (v : StackSt) : (s.setStack k v).remOps = s.remOps := rfl
@[simp] theorem setStack_grpBase (v : StackSt) : (s.setStack k v).grpBase = s.grpBase := rfl
@[simp] theorem setStack_colls (v : StackSt) : (s.setStack k v).colls = s.colls := rfl
@[simp] theorem setStack_early (v : StackSt) : (s.setStack k v).early = s.early := rfl
@[simp] theorem setStack_opTag (v : StackSt) : (s.setStack k v).opTag = s.opTag := rfl
@[simp] theorem setStack_td (v : StackSt) : (s.setStack k v).td = s.td := rfl
@[simp] theorem setStack_sig (v : StackSt) : (s.setStack k v).sig = s.sig := rfl
@[simp] theorem setStack_sec (v : StackSt) : (s.setStack k v).sec = s.sec := rfl

/-! ### harts -/

@[simp] theorem modHart_eq (f : Hart → Hart) : s.modHart k f = s.setHart k (f (s.hart k)) := rfl
@[simp] theorem setHart_hart (v : Hart) : (s.setHart k v).hart k = v := by simp [State.setHart, State.hart]
theorem setHart_hart_ne (v : Hart) (h : j ≠ k) : (s.setHart k v).hart j = s.hart j := by
  simp [State.setHart, State.hart, look_put_ne, h]
@[simp] theorem setHart_eng (v : Hart) : (s.setHart k v).eng j = s.eng j := rfl
@[simp] theorem setHart_stream (v : Hart) : (s.setHart k v).stream j = s.stream j := rfl
@[simp] theorem setHart_unit (v : Hart) : (s.setHart k v).unit j = s.unit j := rfl
@[simp] theorem setHart_chan (v : Hart) : (s.setHart k v).chan j = s.chan j := rfl
@[simp] theorem setHart_stack (v : Hart) : (s.setHart k v).stack j = s.stack j := rfl
@[simp] theorem setHart_host (v : Hart) : (s.setHart k v).host j = s.host j := rfl
@[simp] theorem setHart_ep (v : Hart) : (s.setHart k v).ep j = s.ep j := rfl
@[simp] theorem setHart_pc (v : Hart) : (s.setHart k v).pc j = s.pc j := rfl
@[simp] theorem setHart_port (v : Hart) : (s.setHart k v).port j = s.port j := rfl
@[simp] theorem setHart_path (v : Hart) : (s.setHart k v).path j = s.path j := rfl
@[simp] theorem setHart_link (v : Hart) : (s.setHart k v).link j = s.link j := rfl
@[simp] theorem setHart_hlink (v : Hart) : (s.setHart k v).hlink j = s.hlink j := rfl
@[simp] theorem setHart_spire (v : Hart) : (s.setHart k v).spire j = s.spire j := rfl
@[simp] theorem setHart_ident (v : Hart) : (s.setHart k v).ident j = s.ident j := rfl
@[simp] theorem setHart_fwOf (v : Hart) : (s.setHart k v).fwOf j = s.fwOf j := rfl
@[simp] theorem setHart_uc (v : Hart) : (s.setHart k v).uc j = s.uc j := rfl
@[simp] theorem setHart_clRing (v : Hart) : (s.setHart k v).clRing j = s.clRing j := rfl
@[simp] theorem setHart_roRing (v : Hart) : (s.setHart k v).roRing j = s.roRing j := rfl
@[simp] theorem setHart_crRing (v : Hart) : (s.setHart k v).crRing j = s.crRing j := rfl
@[simp] theorem setHart_kernel (v : Hart) : (s.setHart k v).kernel j = s.kernel j := rfl
@[simp] theorem setHart_tt (v : Hart) : (s.setHart k v).tt j = s.tt j := rfl
@[simp] theorem setHart_book (v : Hart) : (s.setHart k v).book j = s.book j := rfl
@[simp] theorem setHart_siding (v : Hart) : (s.setHart k v).siding j = s.siding j := rfl
@[simp] theorem setHart_tile (v : Hart) : (s.setHart k v).tile j = s.tile j := rfl
@[simp] theorem setHart_pending (v : Hart) : (s.setHart k v).pending = s.pending := rfl
@[simp] theorem setHart_nonce (v : Hart) : (s.setHart k v).nonce = s.nonce := rfl
@[simp] theorem setHart_pkg (v : Hart) : (s.setHart k v).pkg = s.pkg := rfl
@[simp] theorem setHart_flits (v : Hart) : (s.setHart k v).flits = s.flits := rfl
@[simp] theorem setHart_flitKey (v : Hart) : (s.setHart k v).flitKey = s.flitKey := rfl
@[simp] theorem setHart_outer (v : Hart) : (s.setHart k v).outer = s.outer := rfl
@[simp] theorem setHart_kAddr (v : Hart) : (s.setHart k v).kAddr = s.kAddr := rfl
@[simp] theorem setHart_kResult (v : Hart) : (s.setHart k v).kResult = s.kResult := rfl
@[simp] theorem setHart_kBad (v : Hart) : (s.setHart k v).kBad = s.kBad := rfl
@[simp] theorem setHart_kCmds (v : Hart) : (s.setHart k v).kCmds = s.kCmds := rfl
@[simp] theorem setHart_launches (v : Hart) : (s.setHart k v).launches = s.launches := rfl
@[simp] theorem setHart_nextKey (v : Hart) : (s.setHart k v).nextKey = s.nextKey := rfl
@[simp] theorem setHart_faultNo (v : Hart) : (s.setHart k v).faultNo = s.faultNo := rfl
@[simp] theorem setHart_atomics (v : Hart) : (s.setHart k v).atomics = s.atomics := rfl
@[simp] theorem setHart_expects (v : Hart) : (s.setHart k v).expects = s.expects := rfl
@[simp] theorem setHart_mem (v : Hart) : (s.setHart k v).mem = s.mem := rfl
@[simp] theorem setHart_poison (v : Hart) : (s.setHart k v).poison = s.poison := rfl
@[simp] theorem setHart_stale (v : Hart) : (s.setHart k v).stale = s.stale := rfl
@[simp] theorem setHart_useClock (v : Hart) : (s.setHart k v).useClock = s.useClock := rfl
@[simp] theorem setHart_migs (v : Hart) : (s.setHart k v).migs = s.migs := rfl
@[simp] theorem setHart_recovering (v : Hart) : (s.setHart k v).recovering = s.recovering := rfl
@[simp] theorem setHart_astBase (v : Hart) : (s.setHart k v).astBase = s.astBase := rfl
@[simp] theorem setHart_astCache (v : Hart) : (s.setHart k v).astCache = s.astCache := rfl
@[simp] theorem setHart_tlb (v : Hart) : (s.setHart k v).tlb = s.tlb := rfl
@[simp] theorem setHart_pairs (v : Hart) : (s.setHart k v).pairs = s.pairs := rfl
@[simp] theorem setHart_mlId (v : Hart) : (s.setHart k v).mlId = s.mlId := rfl
@[simp] theorem setHart_winBase (v : Hart) : (s.setHart k v).winBase = s.winBase := rfl
@[simp] theorem setHart_winCache (v : Hart) : (s.setHart k v).winCache = s.winCache := rfl
@[simp] theorem setHart_winInv (v : Hart) : (s.setHart k v).winInv = s.winInv := rfl
@[simp] theorem setHart_sent (v : Hart) : (s.setHart k v).sent = s.sent := rfl
@[simp] theorem setHart_remOps (v : Hart) : (s.setHart k v).remOps = s.remOps := rfl
@[simp] theorem setHart_grpBase (v : Hart) : (s.setHart k v).grpBase = s.grpBase := rfl
@[simp] theorem setHart_colls (v : Hart) : (s.setHart k v).colls = s.colls := rfl
@[simp] theorem setHart_early (v : Hart) : (s.setHart k v).early = s.early := rfl
@[simp] theorem setHart_opTag (v : Hart) : (s.setHart k v).opTag = s.opTag := rfl
@[simp] theorem setHart_td (v : Hart) : (s.setHart k v).td = s.td := rfl
@[simp] theorem setHart_sig (v : Hart) : (s.setHart k v).sig = s.sig := rfl
@[simp] theorem setHart_sec (v : Hart) : (s.setHart k v).sec = s.sec := rfl

/-! ### hosts -/

@[simp] theorem modHost_eq (f : HostDie → HostDie) : s.modHost k f = s.setHost k (f (s.host k)) := rfl
@[simp] theorem setHost_host (v : HostDie) : (s.setHost k v).host k = v := by simp [State.setHost, State.host]
theorem setHost_host_ne (v : HostDie) (h : j ≠ k) : (s.setHost k v).host j = s.host j := by
  simp [State.setHost, State.host, look_put_ne, h]
@[simp] theorem setHost_eng (v : HostDie) : (s.setHost k v).eng j = s.eng j := rfl
@[simp] theorem setHost_stream (v : HostDie) : (s.setHost k v).stream j = s.stream j := rfl
@[simp] theorem setHost_unit (v : HostDie) : (s.setHost k v).unit j = s.unit j := rfl
@[simp] theorem setHost_chan (v : HostDie) : (s.setHost k v).chan j = s.chan j := rfl
@[simp] theorem setHost_stack (v : HostDie) : (s.setHost k v).stack j = s.stack j := rfl
@[simp] theorem setHost_hart (v : HostDie) : (s.setHost k v).hart j = s.hart j := rfl
@[simp] theorem setHost_ep (v : HostDie) : (s.setHost k v).ep j = s.ep j := rfl
@[simp] theorem setHost_pc (v : HostDie) : (s.setHost k v).pc j = s.pc j := rfl
@[simp] theorem setHost_port (v : HostDie) : (s.setHost k v).port j = s.port j := rfl
@[simp] theorem setHost_path (v : HostDie) : (s.setHost k v).path j = s.path j := rfl
@[simp] theorem setHost_link (v : HostDie) : (s.setHost k v).link j = s.link j := rfl
@[simp] theorem setHost_hlink (v : HostDie) : (s.setHost k v).hlink j = s.hlink j := rfl
@[simp] theorem setHost_spire (v : HostDie) : (s.setHost k v).spire j = s.spire j := rfl
@[simp] theorem setHost_ident (v : HostDie) : (s.setHost k v).ident j = s.ident j := rfl
@[simp] theorem setHost_fwOf (v : HostDie) : (s.setHost k v).fwOf j = s.fwOf j := rfl
@[simp] theorem setHost_uc (v : HostDie) : (s.setHost k v).uc j = s.uc j := rfl
@[simp] theorem setHost_clRing (v : HostDie) : (s.setHost k v).clRing j = s.clRing j := rfl
@[simp] theorem setHost_roRing (v : HostDie) : (s.setHost k v).roRing j = s.roRing j := rfl
@[simp] theorem setHost_crRing (v : HostDie) : (s.setHost k v).crRing j = s.crRing j := rfl
@[simp] theorem setHost_kernel (v : HostDie) : (s.setHost k v).kernel j = s.kernel j := rfl
@[simp] theorem setHost_tt (v : HostDie) : (s.setHost k v).tt j = s.tt j := rfl
@[simp] theorem setHost_book (v : HostDie) : (s.setHost k v).book j = s.book j := rfl
@[simp] theorem setHost_siding (v : HostDie) : (s.setHost k v).siding j = s.siding j := rfl
@[simp] theorem setHost_tile (v : HostDie) : (s.setHost k v).tile j = s.tile j := rfl
@[simp] theorem setHost_pending (v : HostDie) : (s.setHost k v).pending = s.pending := rfl
@[simp] theorem setHost_nonce (v : HostDie) : (s.setHost k v).nonce = s.nonce := rfl
@[simp] theorem setHost_pkg (v : HostDie) : (s.setHost k v).pkg = s.pkg := rfl
@[simp] theorem setHost_flits (v : HostDie) : (s.setHost k v).flits = s.flits := rfl
@[simp] theorem setHost_flitKey (v : HostDie) : (s.setHost k v).flitKey = s.flitKey := rfl
@[simp] theorem setHost_outer (v : HostDie) : (s.setHost k v).outer = s.outer := rfl
@[simp] theorem setHost_kAddr (v : HostDie) : (s.setHost k v).kAddr = s.kAddr := rfl
@[simp] theorem setHost_kResult (v : HostDie) : (s.setHost k v).kResult = s.kResult := rfl
@[simp] theorem setHost_kBad (v : HostDie) : (s.setHost k v).kBad = s.kBad := rfl
@[simp] theorem setHost_kCmds (v : HostDie) : (s.setHost k v).kCmds = s.kCmds := rfl
@[simp] theorem setHost_launches (v : HostDie) : (s.setHost k v).launches = s.launches := rfl
@[simp] theorem setHost_nextKey (v : HostDie) : (s.setHost k v).nextKey = s.nextKey := rfl
@[simp] theorem setHost_faultNo (v : HostDie) : (s.setHost k v).faultNo = s.faultNo := rfl
@[simp] theorem setHost_atomics (v : HostDie) : (s.setHost k v).atomics = s.atomics := rfl
@[simp] theorem setHost_expects (v : HostDie) : (s.setHost k v).expects = s.expects := rfl
@[simp] theorem setHost_mem (v : HostDie) : (s.setHost k v).mem = s.mem := rfl
@[simp] theorem setHost_poison (v : HostDie) : (s.setHost k v).poison = s.poison := rfl
@[simp] theorem setHost_stale (v : HostDie) : (s.setHost k v).stale = s.stale := rfl
@[simp] theorem setHost_useClock (v : HostDie) : (s.setHost k v).useClock = s.useClock := rfl
@[simp] theorem setHost_migs (v : HostDie) : (s.setHost k v).migs = s.migs := rfl
@[simp] theorem setHost_recovering (v : HostDie) : (s.setHost k v).recovering = s.recovering := rfl
@[simp] theorem setHost_astBase (v : HostDie) : (s.setHost k v).astBase = s.astBase := rfl
@[simp] theorem setHost_astCache (v : HostDie) : (s.setHost k v).astCache = s.astCache := rfl
@[simp] theorem setHost_tlb (v : HostDie) : (s.setHost k v).tlb = s.tlb := rfl
@[simp] theorem setHost_pairs (v : HostDie) : (s.setHost k v).pairs = s.pairs := rfl
@[simp] theorem setHost_mlId (v : HostDie) : (s.setHost k v).mlId = s.mlId := rfl
@[simp] theorem setHost_winBase (v : HostDie) : (s.setHost k v).winBase = s.winBase := rfl
@[simp] theorem setHost_winCache (v : HostDie) : (s.setHost k v).winCache = s.winCache := rfl
@[simp] theorem setHost_winInv (v : HostDie) : (s.setHost k v).winInv = s.winInv := rfl
@[simp] theorem setHost_sent (v : HostDie) : (s.setHost k v).sent = s.sent := rfl
@[simp] theorem setHost_remOps (v : HostDie) : (s.setHost k v).remOps = s.remOps := rfl
@[simp] theorem setHost_grpBase (v : HostDie) : (s.setHost k v).grpBase = s.grpBase := rfl
@[simp] theorem setHost_colls (v : HostDie) : (s.setHost k v).colls = s.colls := rfl
@[simp] theorem setHost_early (v : HostDie) : (s.setHost k v).early = s.early := rfl
@[simp] theorem setHost_opTag (v : HostDie) : (s.setHost k v).opTag = s.opTag := rfl
@[simp] theorem setHost_td (v : HostDie) : (s.setHost k v).td = s.td := rfl
@[simp] theorem setHost_sig (v : HostDie) : (s.setHost k v).sig = s.sig := rfl
@[simp] theorem setHost_sec (v : HostDie) : (s.setHost k v).sec = s.sec := rfl

/-! ### eps -/

@[simp] theorem modEp_eq (f : Endpoint → Endpoint) : s.modEp k f = s.setEp k (f (s.ep k)) := rfl
@[simp] theorem setEp_ep (v : Endpoint) : (s.setEp k v).ep k = v := by simp [State.setEp, State.ep]
theorem setEp_ep_ne (v : Endpoint) (h : j ≠ k) : (s.setEp k v).ep j = s.ep j := by
  simp [State.setEp, State.ep, look_put_ne, h]
@[simp] theorem setEp_eng (v : Endpoint) : (s.setEp k v).eng j = s.eng j := rfl
@[simp] theorem setEp_stream (v : Endpoint) : (s.setEp k v).stream j = s.stream j := rfl
@[simp] theorem setEp_unit (v : Endpoint) : (s.setEp k v).unit j = s.unit j := rfl
@[simp] theorem setEp_chan (v : Endpoint) : (s.setEp k v).chan j = s.chan j := rfl
@[simp] theorem setEp_stack (v : Endpoint) : (s.setEp k v).stack j = s.stack j := rfl
@[simp] theorem setEp_hart (v : Endpoint) : (s.setEp k v).hart j = s.hart j := rfl
@[simp] theorem setEp_host (v : Endpoint) : (s.setEp k v).host j = s.host j := rfl
@[simp] theorem setEp_pc (v : Endpoint) : (s.setEp k v).pc j = s.pc j := rfl
@[simp] theorem setEp_port (v : Endpoint) : (s.setEp k v).port j = s.port j := rfl
@[simp] theorem setEp_path (v : Endpoint) : (s.setEp k v).path j = s.path j := rfl
@[simp] theorem setEp_link (v : Endpoint) : (s.setEp k v).link j = s.link j := rfl
@[simp] theorem setEp_hlink (v : Endpoint) : (s.setEp k v).hlink j = s.hlink j := rfl
@[simp] theorem setEp_spire (v : Endpoint) : (s.setEp k v).spire j = s.spire j := rfl
@[simp] theorem setEp_ident (v : Endpoint) : (s.setEp k v).ident j = s.ident j := rfl
@[simp] theorem setEp_fwOf (v : Endpoint) : (s.setEp k v).fwOf j = s.fwOf j := rfl
@[simp] theorem setEp_uc (v : Endpoint) : (s.setEp k v).uc j = s.uc j := rfl
@[simp] theorem setEp_clRing (v : Endpoint) : (s.setEp k v).clRing j = s.clRing j := rfl
@[simp] theorem setEp_roRing (v : Endpoint) : (s.setEp k v).roRing j = s.roRing j := rfl
@[simp] theorem setEp_crRing (v : Endpoint) : (s.setEp k v).crRing j = s.crRing j := rfl
@[simp] theorem setEp_kernel (v : Endpoint) : (s.setEp k v).kernel j = s.kernel j := rfl
@[simp] theorem setEp_tt (v : Endpoint) : (s.setEp k v).tt j = s.tt j := rfl
@[simp] theorem setEp_book (v : Endpoint) : (s.setEp k v).book j = s.book j := rfl
@[simp] theorem setEp_siding (v : Endpoint) : (s.setEp k v).siding j = s.siding j := rfl
@[simp] theorem setEp_tile (v : Endpoint) : (s.setEp k v).tile j = s.tile j := rfl
@[simp] theorem setEp_pending (v : Endpoint) : (s.setEp k v).pending = s.pending := rfl
@[simp] theorem setEp_nonce (v : Endpoint) : (s.setEp k v).nonce = s.nonce := rfl
@[simp] theorem setEp_pkg (v : Endpoint) : (s.setEp k v).pkg = s.pkg := rfl
@[simp] theorem setEp_flits (v : Endpoint) : (s.setEp k v).flits = s.flits := rfl
@[simp] theorem setEp_flitKey (v : Endpoint) : (s.setEp k v).flitKey = s.flitKey := rfl
@[simp] theorem setEp_outer (v : Endpoint) : (s.setEp k v).outer = s.outer := rfl
@[simp] theorem setEp_kAddr (v : Endpoint) : (s.setEp k v).kAddr = s.kAddr := rfl
@[simp] theorem setEp_kResult (v : Endpoint) : (s.setEp k v).kResult = s.kResult := rfl
@[simp] theorem setEp_kBad (v : Endpoint) : (s.setEp k v).kBad = s.kBad := rfl
@[simp] theorem setEp_kCmds (v : Endpoint) : (s.setEp k v).kCmds = s.kCmds := rfl
@[simp] theorem setEp_launches (v : Endpoint) : (s.setEp k v).launches = s.launches := rfl
@[simp] theorem setEp_nextKey (v : Endpoint) : (s.setEp k v).nextKey = s.nextKey := rfl
@[simp] theorem setEp_faultNo (v : Endpoint) : (s.setEp k v).faultNo = s.faultNo := rfl
@[simp] theorem setEp_atomics (v : Endpoint) : (s.setEp k v).atomics = s.atomics := rfl
@[simp] theorem setEp_expects (v : Endpoint) : (s.setEp k v).expects = s.expects := rfl
@[simp] theorem setEp_mem (v : Endpoint) : (s.setEp k v).mem = s.mem := rfl
@[simp] theorem setEp_poison (v : Endpoint) : (s.setEp k v).poison = s.poison := rfl
@[simp] theorem setEp_stale (v : Endpoint) : (s.setEp k v).stale = s.stale := rfl
@[simp] theorem setEp_useClock (v : Endpoint) : (s.setEp k v).useClock = s.useClock := rfl
@[simp] theorem setEp_migs (v : Endpoint) : (s.setEp k v).migs = s.migs := rfl
@[simp] theorem setEp_recovering (v : Endpoint) : (s.setEp k v).recovering = s.recovering := rfl
@[simp] theorem setEp_astBase (v : Endpoint) : (s.setEp k v).astBase = s.astBase := rfl
@[simp] theorem setEp_astCache (v : Endpoint) : (s.setEp k v).astCache = s.astCache := rfl
@[simp] theorem setEp_tlb (v : Endpoint) : (s.setEp k v).tlb = s.tlb := rfl
@[simp] theorem setEp_pairs (v : Endpoint) : (s.setEp k v).pairs = s.pairs := rfl
@[simp] theorem setEp_mlId (v : Endpoint) : (s.setEp k v).mlId = s.mlId := rfl
@[simp] theorem setEp_winBase (v : Endpoint) : (s.setEp k v).winBase = s.winBase := rfl
@[simp] theorem setEp_winCache (v : Endpoint) : (s.setEp k v).winCache = s.winCache := rfl
@[simp] theorem setEp_winInv (v : Endpoint) : (s.setEp k v).winInv = s.winInv := rfl
@[simp] theorem setEp_sent (v : Endpoint) : (s.setEp k v).sent = s.sent := rfl
@[simp] theorem setEp_remOps (v : Endpoint) : (s.setEp k v).remOps = s.remOps := rfl
@[simp] theorem setEp_grpBase (v : Endpoint) : (s.setEp k v).grpBase = s.grpBase := rfl
@[simp] theorem setEp_colls (v : Endpoint) : (s.setEp k v).colls = s.colls := rfl
@[simp] theorem setEp_early (v : Endpoint) : (s.setEp k v).early = s.early := rfl
@[simp] theorem setEp_opTag (v : Endpoint) : (s.setEp k v).opTag = s.opTag := rfl
@[simp] theorem setEp_td (v : Endpoint) : (s.setEp k v).td = s.td := rfl
@[simp] theorem setEp_sig (v : Endpoint) : (s.setEp k v).sig = s.sig := rfl
@[simp] theorem setEp_sec (v : Endpoint) : (s.setEp k v).sec = s.sec := rfl

/-! ### pcs -/

@[simp] theorem modPc_eq (f : PlatCache → PlatCache) : s.modPc k f = s.setPc k (f (s.pc k)) := rfl
@[simp] theorem setPc_pc (v : PlatCache) : (s.setPc k v).pc k = v := by simp [State.setPc, State.pc]
theorem setPc_pc_ne (v : PlatCache) (h : j ≠ k) : (s.setPc k v).pc j = s.pc j := by
  simp [State.setPc, State.pc, look_put_ne, h]
@[simp] theorem setPc_eng (v : PlatCache) : (s.setPc k v).eng j = s.eng j := rfl
@[simp] theorem setPc_stream (v : PlatCache) : (s.setPc k v).stream j = s.stream j := rfl
@[simp] theorem setPc_unit (v : PlatCache) : (s.setPc k v).unit j = s.unit j := rfl
@[simp] theorem setPc_chan (v : PlatCache) : (s.setPc k v).chan j = s.chan j := rfl
@[simp] theorem setPc_stack (v : PlatCache) : (s.setPc k v).stack j = s.stack j := rfl
@[simp] theorem setPc_hart (v : PlatCache) : (s.setPc k v).hart j = s.hart j := rfl
@[simp] theorem setPc_host (v : PlatCache) : (s.setPc k v).host j = s.host j := rfl
@[simp] theorem setPc_ep (v : PlatCache) : (s.setPc k v).ep j = s.ep j := rfl
@[simp] theorem setPc_port (v : PlatCache) : (s.setPc k v).port j = s.port j := rfl
@[simp] theorem setPc_path (v : PlatCache) : (s.setPc k v).path j = s.path j := rfl
@[simp] theorem setPc_link (v : PlatCache) : (s.setPc k v).link j = s.link j := rfl
@[simp] theorem setPc_hlink (v : PlatCache) : (s.setPc k v).hlink j = s.hlink j := rfl
@[simp] theorem setPc_spire (v : PlatCache) : (s.setPc k v).spire j = s.spire j := rfl
@[simp] theorem setPc_ident (v : PlatCache) : (s.setPc k v).ident j = s.ident j := rfl
@[simp] theorem setPc_fwOf (v : PlatCache) : (s.setPc k v).fwOf j = s.fwOf j := rfl
@[simp] theorem setPc_uc (v : PlatCache) : (s.setPc k v).uc j = s.uc j := rfl
@[simp] theorem setPc_clRing (v : PlatCache) : (s.setPc k v).clRing j = s.clRing j := rfl
@[simp] theorem setPc_roRing (v : PlatCache) : (s.setPc k v).roRing j = s.roRing j := rfl
@[simp] theorem setPc_crRing (v : PlatCache) : (s.setPc k v).crRing j = s.crRing j := rfl
@[simp] theorem setPc_kernel (v : PlatCache) : (s.setPc k v).kernel j = s.kernel j := rfl
@[simp] theorem setPc_tt (v : PlatCache) : (s.setPc k v).tt j = s.tt j := rfl
@[simp] theorem setPc_book (v : PlatCache) : (s.setPc k v).book j = s.book j := rfl
@[simp] theorem setPc_siding (v : PlatCache) : (s.setPc k v).siding j = s.siding j := rfl
@[simp] theorem setPc_tile (v : PlatCache) : (s.setPc k v).tile j = s.tile j := rfl
@[simp] theorem setPc_pending (v : PlatCache) : (s.setPc k v).pending = s.pending := rfl
@[simp] theorem setPc_nonce (v : PlatCache) : (s.setPc k v).nonce = s.nonce := rfl
@[simp] theorem setPc_pkg (v : PlatCache) : (s.setPc k v).pkg = s.pkg := rfl
@[simp] theorem setPc_flits (v : PlatCache) : (s.setPc k v).flits = s.flits := rfl
@[simp] theorem setPc_flitKey (v : PlatCache) : (s.setPc k v).flitKey = s.flitKey := rfl
@[simp] theorem setPc_outer (v : PlatCache) : (s.setPc k v).outer = s.outer := rfl
@[simp] theorem setPc_kAddr (v : PlatCache) : (s.setPc k v).kAddr = s.kAddr := rfl
@[simp] theorem setPc_kResult (v : PlatCache) : (s.setPc k v).kResult = s.kResult := rfl
@[simp] theorem setPc_kBad (v : PlatCache) : (s.setPc k v).kBad = s.kBad := rfl
@[simp] theorem setPc_kCmds (v : PlatCache) : (s.setPc k v).kCmds = s.kCmds := rfl
@[simp] theorem setPc_launches (v : PlatCache) : (s.setPc k v).launches = s.launches := rfl
@[simp] theorem setPc_nextKey (v : PlatCache) : (s.setPc k v).nextKey = s.nextKey := rfl
@[simp] theorem setPc_faultNo (v : PlatCache) : (s.setPc k v).faultNo = s.faultNo := rfl
@[simp] theorem setPc_atomics (v : PlatCache) : (s.setPc k v).atomics = s.atomics := rfl
@[simp] theorem setPc_expects (v : PlatCache) : (s.setPc k v).expects = s.expects := rfl
@[simp] theorem setPc_mem (v : PlatCache) : (s.setPc k v).mem = s.mem := rfl
@[simp] theorem setPc_poison (v : PlatCache) : (s.setPc k v).poison = s.poison := rfl
@[simp] theorem setPc_stale (v : PlatCache) : (s.setPc k v).stale = s.stale := rfl
@[simp] theorem setPc_useClock (v : PlatCache) : (s.setPc k v).useClock = s.useClock := rfl
@[simp] theorem setPc_migs (v : PlatCache) : (s.setPc k v).migs = s.migs := rfl
@[simp] theorem setPc_recovering (v : PlatCache) : (s.setPc k v).recovering = s.recovering := rfl
@[simp] theorem setPc_astBase (v : PlatCache) : (s.setPc k v).astBase = s.astBase := rfl
@[simp] theorem setPc_astCache (v : PlatCache) : (s.setPc k v).astCache = s.astCache := rfl
@[simp] theorem setPc_tlb (v : PlatCache) : (s.setPc k v).tlb = s.tlb := rfl
@[simp] theorem setPc_pairs (v : PlatCache) : (s.setPc k v).pairs = s.pairs := rfl
@[simp] theorem setPc_mlId (v : PlatCache) : (s.setPc k v).mlId = s.mlId := rfl
@[simp] theorem setPc_winBase (v : PlatCache) : (s.setPc k v).winBase = s.winBase := rfl
@[simp] theorem setPc_winCache (v : PlatCache) : (s.setPc k v).winCache = s.winCache := rfl
@[simp] theorem setPc_winInv (v : PlatCache) : (s.setPc k v).winInv = s.winInv := rfl
@[simp] theorem setPc_sent (v : PlatCache) : (s.setPc k v).sent = s.sent := rfl
@[simp] theorem setPc_remOps (v : PlatCache) : (s.setPc k v).remOps = s.remOps := rfl
@[simp] theorem setPc_grpBase (v : PlatCache) : (s.setPc k v).grpBase = s.grpBase := rfl
@[simp] theorem setPc_colls (v : PlatCache) : (s.setPc k v).colls = s.colls := rfl
@[simp] theorem setPc_early (v : PlatCache) : (s.setPc k v).early = s.early := rfl
@[simp] theorem setPc_opTag (v : PlatCache) : (s.setPc k v).opTag = s.opTag := rfl
@[simp] theorem setPc_td (v : PlatCache) : (s.setPc k v).td = s.td := rfl
@[simp] theorem setPc_sig (v : PlatCache) : (s.setPc k v).sig = s.sig := rfl
@[simp] theorem setPc_sec (v : PlatCache) : (s.setPc k v).sec = s.sec := rfl

/-! ### ports -/

@[simp] theorem modPort_eq (f : MlPort → MlPort) : s.modPort k f = s.setPort k (f (s.port k)) := rfl
@[simp] theorem setPort_port (v : MlPort) : (s.setPort k v).port k = v := by simp [State.setPort, State.port]
theorem setPort_port_ne (v : MlPort) (h : j ≠ k) : (s.setPort k v).port j = s.port j := by
  simp [State.setPort, State.port, look_put_ne, h]
@[simp] theorem setPort_eng (v : MlPort) : (s.setPort k v).eng j = s.eng j := rfl
@[simp] theorem setPort_stream (v : MlPort) : (s.setPort k v).stream j = s.stream j := rfl
@[simp] theorem setPort_unit (v : MlPort) : (s.setPort k v).unit j = s.unit j := rfl
@[simp] theorem setPort_chan (v : MlPort) : (s.setPort k v).chan j = s.chan j := rfl
@[simp] theorem setPort_stack (v : MlPort) : (s.setPort k v).stack j = s.stack j := rfl
@[simp] theorem setPort_hart (v : MlPort) : (s.setPort k v).hart j = s.hart j := rfl
@[simp] theorem setPort_host (v : MlPort) : (s.setPort k v).host j = s.host j := rfl
@[simp] theorem setPort_ep (v : MlPort) : (s.setPort k v).ep j = s.ep j := rfl
@[simp] theorem setPort_pc (v : MlPort) : (s.setPort k v).pc j = s.pc j := rfl
@[simp] theorem setPort_path (v : MlPort) : (s.setPort k v).path j = s.path j := rfl
@[simp] theorem setPort_link (v : MlPort) : (s.setPort k v).link j = s.link j := rfl
@[simp] theorem setPort_hlink (v : MlPort) : (s.setPort k v).hlink j = s.hlink j := rfl
@[simp] theorem setPort_spire (v : MlPort) : (s.setPort k v).spire j = s.spire j := rfl
@[simp] theorem setPort_ident (v : MlPort) : (s.setPort k v).ident j = s.ident j := rfl
@[simp] theorem setPort_fwOf (v : MlPort) : (s.setPort k v).fwOf j = s.fwOf j := rfl
@[simp] theorem setPort_uc (v : MlPort) : (s.setPort k v).uc j = s.uc j := rfl
@[simp] theorem setPort_clRing (v : MlPort) : (s.setPort k v).clRing j = s.clRing j := rfl
@[simp] theorem setPort_roRing (v : MlPort) : (s.setPort k v).roRing j = s.roRing j := rfl
@[simp] theorem setPort_crRing (v : MlPort) : (s.setPort k v).crRing j = s.crRing j := rfl
@[simp] theorem setPort_kernel (v : MlPort) : (s.setPort k v).kernel j = s.kernel j := rfl
@[simp] theorem setPort_tt (v : MlPort) : (s.setPort k v).tt j = s.tt j := rfl
@[simp] theorem setPort_book (v : MlPort) : (s.setPort k v).book j = s.book j := rfl
@[simp] theorem setPort_siding (v : MlPort) : (s.setPort k v).siding j = s.siding j := rfl
@[simp] theorem setPort_tile (v : MlPort) : (s.setPort k v).tile j = s.tile j := rfl
@[simp] theorem setPort_pending (v : MlPort) : (s.setPort k v).pending = s.pending := rfl
@[simp] theorem setPort_nonce (v : MlPort) : (s.setPort k v).nonce = s.nonce := rfl
@[simp] theorem setPort_pkg (v : MlPort) : (s.setPort k v).pkg = s.pkg := rfl
@[simp] theorem setPort_flits (v : MlPort) : (s.setPort k v).flits = s.flits := rfl
@[simp] theorem setPort_flitKey (v : MlPort) : (s.setPort k v).flitKey = s.flitKey := rfl
@[simp] theorem setPort_outer (v : MlPort) : (s.setPort k v).outer = s.outer := rfl
@[simp] theorem setPort_kAddr (v : MlPort) : (s.setPort k v).kAddr = s.kAddr := rfl
@[simp] theorem setPort_kResult (v : MlPort) : (s.setPort k v).kResult = s.kResult := rfl
@[simp] theorem setPort_kBad (v : MlPort) : (s.setPort k v).kBad = s.kBad := rfl
@[simp] theorem setPort_kCmds (v : MlPort) : (s.setPort k v).kCmds = s.kCmds := rfl
@[simp] theorem setPort_launches (v : MlPort) : (s.setPort k v).launches = s.launches := rfl
@[simp] theorem setPort_nextKey (v : MlPort) : (s.setPort k v).nextKey = s.nextKey := rfl
@[simp] theorem setPort_faultNo (v : MlPort) : (s.setPort k v).faultNo = s.faultNo := rfl
@[simp] theorem setPort_atomics (v : MlPort) : (s.setPort k v).atomics = s.atomics := rfl
@[simp] theorem setPort_expects (v : MlPort) : (s.setPort k v).expects = s.expects := rfl
@[simp] theorem setPort_mem (v : MlPort) : (s.setPort k v).mem = s.mem := rfl
@[simp] theorem setPort_poison (v : MlPort) : (s.setPort k v).poison = s.poison := rfl
@[simp] theorem setPort_stale (v : MlPort) : (s.setPort k v).stale = s.stale := rfl
@[simp] theorem setPort_useClock (v : MlPort) : (s.setPort k v).useClock = s.useClock := rfl
@[simp] theorem setPort_migs (v : MlPort) : (s.setPort k v).migs = s.migs := rfl
@[simp] theorem setPort_recovering (v : MlPort) : (s.setPort k v).recovering = s.recovering := rfl
@[simp] theorem setPort_astBase (v : MlPort) : (s.setPort k v).astBase = s.astBase := rfl
@[simp] theorem setPort_astCache (v : MlPort) : (s.setPort k v).astCache = s.astCache := rfl
@[simp] theorem setPort_tlb (v : MlPort) : (s.setPort k v).tlb = s.tlb := rfl
@[simp] theorem setPort_pairs (v : MlPort) : (s.setPort k v).pairs = s.pairs := rfl
@[simp] theorem setPort_mlId (v : MlPort) : (s.setPort k v).mlId = s.mlId := rfl
@[simp] theorem setPort_winBase (v : MlPort) : (s.setPort k v).winBase = s.winBase := rfl
@[simp] theorem setPort_winCache (v : MlPort) : (s.setPort k v).winCache = s.winCache := rfl
@[simp] theorem setPort_winInv (v : MlPort) : (s.setPort k v).winInv = s.winInv := rfl
@[simp] theorem setPort_sent (v : MlPort) : (s.setPort k v).sent = s.sent := rfl
@[simp] theorem setPort_remOps (v : MlPort) : (s.setPort k v).remOps = s.remOps := rfl
@[simp] theorem setPort_grpBase (v : MlPort) : (s.setPort k v).grpBase = s.grpBase := rfl
@[simp] theorem setPort_colls (v : MlPort) : (s.setPort k v).colls = s.colls := rfl
@[simp] theorem setPort_early (v : MlPort) : (s.setPort k v).early = s.early := rfl
@[simp] theorem setPort_opTag (v : MlPort) : (s.setPort k v).opTag = s.opTag := rfl
@[simp] theorem setPort_td (v : MlPort) : (s.setPort k v).td = s.td := rfl
@[simp] theorem setPort_sig (v : MlPort) : (s.setPort k v).sig = s.sig := rfl
@[simp] theorem setPort_sec (v : MlPort) : (s.setPort k v).sec = s.sec := rfl

/-! ### paths -/

@[simp] theorem modPath_eq (f : Path → Path) : s.modPath k f = s.setPath k (f (s.path k)) := rfl
@[simp] theorem setPath_path (v : Path) : (s.setPath k v).path k = v := by simp [State.setPath, State.path]
theorem setPath_path_ne (v : Path) (h : j ≠ k) : (s.setPath k v).path j = s.path j := by
  simp [State.setPath, State.path, look_put_ne, h]
@[simp] theorem setPath_eng (v : Path) : (s.setPath k v).eng j = s.eng j := rfl
@[simp] theorem setPath_stream (v : Path) : (s.setPath k v).stream j = s.stream j := rfl
@[simp] theorem setPath_unit (v : Path) : (s.setPath k v).unit j = s.unit j := rfl
@[simp] theorem setPath_chan (v : Path) : (s.setPath k v).chan j = s.chan j := rfl
@[simp] theorem setPath_stack (v : Path) : (s.setPath k v).stack j = s.stack j := rfl
@[simp] theorem setPath_hart (v : Path) : (s.setPath k v).hart j = s.hart j := rfl
@[simp] theorem setPath_host (v : Path) : (s.setPath k v).host j = s.host j := rfl
@[simp] theorem setPath_ep (v : Path) : (s.setPath k v).ep j = s.ep j := rfl
@[simp] theorem setPath_pc (v : Path) : (s.setPath k v).pc j = s.pc j := rfl
@[simp] theorem setPath_port (v : Path) : (s.setPath k v).port j = s.port j := rfl
@[simp] theorem setPath_link (v : Path) : (s.setPath k v).link j = s.link j := rfl
@[simp] theorem setPath_hlink (v : Path) : (s.setPath k v).hlink j = s.hlink j := rfl
@[simp] theorem setPath_spire (v : Path) : (s.setPath k v).spire j = s.spire j := rfl
@[simp] theorem setPath_ident (v : Path) : (s.setPath k v).ident j = s.ident j := rfl
@[simp] theorem setPath_fwOf (v : Path) : (s.setPath k v).fwOf j = s.fwOf j := rfl
@[simp] theorem setPath_uc (v : Path) : (s.setPath k v).uc j = s.uc j := rfl
@[simp] theorem setPath_clRing (v : Path) : (s.setPath k v).clRing j = s.clRing j := rfl
@[simp] theorem setPath_roRing (v : Path) : (s.setPath k v).roRing j = s.roRing j := rfl
@[simp] theorem setPath_crRing (v : Path) : (s.setPath k v).crRing j = s.crRing j := rfl
@[simp] theorem setPath_kernel (v : Path) : (s.setPath k v).kernel j = s.kernel j := rfl
@[simp] theorem setPath_tt (v : Path) : (s.setPath k v).tt j = s.tt j := rfl
@[simp] theorem setPath_book (v : Path) : (s.setPath k v).book j = s.book j := rfl
@[simp] theorem setPath_siding (v : Path) : (s.setPath k v).siding j = s.siding j := rfl
@[simp] theorem setPath_tile (v : Path) : (s.setPath k v).tile j = s.tile j := rfl
@[simp] theorem setPath_pending (v : Path) : (s.setPath k v).pending = s.pending := rfl
@[simp] theorem setPath_nonce (v : Path) : (s.setPath k v).nonce = s.nonce := rfl
@[simp] theorem setPath_pkg (v : Path) : (s.setPath k v).pkg = s.pkg := rfl
@[simp] theorem setPath_flits (v : Path) : (s.setPath k v).flits = s.flits := rfl
@[simp] theorem setPath_flitKey (v : Path) : (s.setPath k v).flitKey = s.flitKey := rfl
@[simp] theorem setPath_outer (v : Path) : (s.setPath k v).outer = s.outer := rfl
@[simp] theorem setPath_kAddr (v : Path) : (s.setPath k v).kAddr = s.kAddr := rfl
@[simp] theorem setPath_kResult (v : Path) : (s.setPath k v).kResult = s.kResult := rfl
@[simp] theorem setPath_kBad (v : Path) : (s.setPath k v).kBad = s.kBad := rfl
@[simp] theorem setPath_kCmds (v : Path) : (s.setPath k v).kCmds = s.kCmds := rfl
@[simp] theorem setPath_launches (v : Path) : (s.setPath k v).launches = s.launches := rfl
@[simp] theorem setPath_nextKey (v : Path) : (s.setPath k v).nextKey = s.nextKey := rfl
@[simp] theorem setPath_faultNo (v : Path) : (s.setPath k v).faultNo = s.faultNo := rfl
@[simp] theorem setPath_atomics (v : Path) : (s.setPath k v).atomics = s.atomics := rfl
@[simp] theorem setPath_expects (v : Path) : (s.setPath k v).expects = s.expects := rfl
@[simp] theorem setPath_mem (v : Path) : (s.setPath k v).mem = s.mem := rfl
@[simp] theorem setPath_poison (v : Path) : (s.setPath k v).poison = s.poison := rfl
@[simp] theorem setPath_stale (v : Path) : (s.setPath k v).stale = s.stale := rfl
@[simp] theorem setPath_useClock (v : Path) : (s.setPath k v).useClock = s.useClock := rfl
@[simp] theorem setPath_migs (v : Path) : (s.setPath k v).migs = s.migs := rfl
@[simp] theorem setPath_recovering (v : Path) : (s.setPath k v).recovering = s.recovering := rfl
@[simp] theorem setPath_astBase (v : Path) : (s.setPath k v).astBase = s.astBase := rfl
@[simp] theorem setPath_astCache (v : Path) : (s.setPath k v).astCache = s.astCache := rfl
@[simp] theorem setPath_tlb (v : Path) : (s.setPath k v).tlb = s.tlb := rfl
@[simp] theorem setPath_pairs (v : Path) : (s.setPath k v).pairs = s.pairs := rfl
@[simp] theorem setPath_mlId (v : Path) : (s.setPath k v).mlId = s.mlId := rfl
@[simp] theorem setPath_winBase (v : Path) : (s.setPath k v).winBase = s.winBase := rfl
@[simp] theorem setPath_winCache (v : Path) : (s.setPath k v).winCache = s.winCache := rfl
@[simp] theorem setPath_winInv (v : Path) : (s.setPath k v).winInv = s.winInv := rfl
@[simp] theorem setPath_sent (v : Path) : (s.setPath k v).sent = s.sent := rfl
@[simp] theorem setPath_remOps (v : Path) : (s.setPath k v).remOps = s.remOps := rfl
@[simp] theorem setPath_grpBase (v : Path) : (s.setPath k v).grpBase = s.grpBase := rfl
@[simp] theorem setPath_colls (v : Path) : (s.setPath k v).colls = s.colls := rfl
@[simp] theorem setPath_early (v : Path) : (s.setPath k v).early = s.early := rfl
@[simp] theorem setPath_opTag (v : Path) : (s.setPath k v).opTag = s.opTag := rfl
@[simp] theorem setPath_td (v : Path) : (s.setPath k v).td = s.td := rfl
@[simp] theorem setPath_sig (v : Path) : (s.setPath k v).sig = s.sig := rfl
@[simp] theorem setPath_sec (v : Path) : (s.setPath k v).sec = s.sec := rfl

/-! ### links -/

@[simp] theorem modLink_eq (f : LinkEnd → LinkEnd) : s.modLink k f = s.setLink k (f (s.link k)) := rfl
@[simp] theorem setLink_link (v : LinkEnd) : (s.setLink k v).link k = v := by simp [State.setLink, State.link]
theorem setLink_link_ne (v : LinkEnd) (h : j ≠ k) : (s.setLink k v).link j = s.link j := by
  simp [State.setLink, State.link, look_put_ne, h]
@[simp] theorem setLink_eng (v : LinkEnd) : (s.setLink k v).eng j = s.eng j := rfl
@[simp] theorem setLink_stream (v : LinkEnd) : (s.setLink k v).stream j = s.stream j := rfl
@[simp] theorem setLink_unit (v : LinkEnd) : (s.setLink k v).unit j = s.unit j := rfl
@[simp] theorem setLink_chan (v : LinkEnd) : (s.setLink k v).chan j = s.chan j := rfl
@[simp] theorem setLink_stack (v : LinkEnd) : (s.setLink k v).stack j = s.stack j := rfl
@[simp] theorem setLink_hart (v : LinkEnd) : (s.setLink k v).hart j = s.hart j := rfl
@[simp] theorem setLink_host (v : LinkEnd) : (s.setLink k v).host j = s.host j := rfl
@[simp] theorem setLink_ep (v : LinkEnd) : (s.setLink k v).ep j = s.ep j := rfl
@[simp] theorem setLink_pc (v : LinkEnd) : (s.setLink k v).pc j = s.pc j := rfl
@[simp] theorem setLink_port (v : LinkEnd) : (s.setLink k v).port j = s.port j := rfl
@[simp] theorem setLink_path (v : LinkEnd) : (s.setLink k v).path j = s.path j := rfl
@[simp] theorem setLink_hlink (v : LinkEnd) : (s.setLink k v).hlink j = s.hlink j := rfl
@[simp] theorem setLink_spire (v : LinkEnd) : (s.setLink k v).spire j = s.spire j := rfl
@[simp] theorem setLink_ident (v : LinkEnd) : (s.setLink k v).ident j = s.ident j := rfl
@[simp] theorem setLink_fwOf (v : LinkEnd) : (s.setLink k v).fwOf j = s.fwOf j := rfl
@[simp] theorem setLink_uc (v : LinkEnd) : (s.setLink k v).uc j = s.uc j := rfl
@[simp] theorem setLink_clRing (v : LinkEnd) : (s.setLink k v).clRing j = s.clRing j := rfl
@[simp] theorem setLink_roRing (v : LinkEnd) : (s.setLink k v).roRing j = s.roRing j := rfl
@[simp] theorem setLink_crRing (v : LinkEnd) : (s.setLink k v).crRing j = s.crRing j := rfl
@[simp] theorem setLink_kernel (v : LinkEnd) : (s.setLink k v).kernel j = s.kernel j := rfl
@[simp] theorem setLink_tt (v : LinkEnd) : (s.setLink k v).tt j = s.tt j := rfl
@[simp] theorem setLink_book (v : LinkEnd) : (s.setLink k v).book j = s.book j := rfl
@[simp] theorem setLink_siding (v : LinkEnd) : (s.setLink k v).siding j = s.siding j := rfl
@[simp] theorem setLink_tile (v : LinkEnd) : (s.setLink k v).tile j = s.tile j := rfl
@[simp] theorem setLink_pending (v : LinkEnd) : (s.setLink k v).pending = s.pending := rfl
@[simp] theorem setLink_nonce (v : LinkEnd) : (s.setLink k v).nonce = s.nonce := rfl
@[simp] theorem setLink_pkg (v : LinkEnd) : (s.setLink k v).pkg = s.pkg := rfl
@[simp] theorem setLink_flits (v : LinkEnd) : (s.setLink k v).flits = s.flits := rfl
@[simp] theorem setLink_flitKey (v : LinkEnd) : (s.setLink k v).flitKey = s.flitKey := rfl
@[simp] theorem setLink_outer (v : LinkEnd) : (s.setLink k v).outer = s.outer := rfl
@[simp] theorem setLink_kAddr (v : LinkEnd) : (s.setLink k v).kAddr = s.kAddr := rfl
@[simp] theorem setLink_kResult (v : LinkEnd) : (s.setLink k v).kResult = s.kResult := rfl
@[simp] theorem setLink_kBad (v : LinkEnd) : (s.setLink k v).kBad = s.kBad := rfl
@[simp] theorem setLink_kCmds (v : LinkEnd) : (s.setLink k v).kCmds = s.kCmds := rfl
@[simp] theorem setLink_launches (v : LinkEnd) : (s.setLink k v).launches = s.launches := rfl
@[simp] theorem setLink_nextKey (v : LinkEnd) : (s.setLink k v).nextKey = s.nextKey := rfl
@[simp] theorem setLink_faultNo (v : LinkEnd) : (s.setLink k v).faultNo = s.faultNo := rfl
@[simp] theorem setLink_atomics (v : LinkEnd) : (s.setLink k v).atomics = s.atomics := rfl
@[simp] theorem setLink_expects (v : LinkEnd) : (s.setLink k v).expects = s.expects := rfl
@[simp] theorem setLink_mem (v : LinkEnd) : (s.setLink k v).mem = s.mem := rfl
@[simp] theorem setLink_poison (v : LinkEnd) : (s.setLink k v).poison = s.poison := rfl
@[simp] theorem setLink_stale (v : LinkEnd) : (s.setLink k v).stale = s.stale := rfl
@[simp] theorem setLink_useClock (v : LinkEnd) : (s.setLink k v).useClock = s.useClock := rfl
@[simp] theorem setLink_migs (v : LinkEnd) : (s.setLink k v).migs = s.migs := rfl
@[simp] theorem setLink_recovering (v : LinkEnd) : (s.setLink k v).recovering = s.recovering := rfl
@[simp] theorem setLink_astBase (v : LinkEnd) : (s.setLink k v).astBase = s.astBase := rfl
@[simp] theorem setLink_astCache (v : LinkEnd) : (s.setLink k v).astCache = s.astCache := rfl
@[simp] theorem setLink_tlb (v : LinkEnd) : (s.setLink k v).tlb = s.tlb := rfl
@[simp] theorem setLink_pairs (v : LinkEnd) : (s.setLink k v).pairs = s.pairs := rfl
@[simp] theorem setLink_mlId (v : LinkEnd) : (s.setLink k v).mlId = s.mlId := rfl
@[simp] theorem setLink_winBase (v : LinkEnd) : (s.setLink k v).winBase = s.winBase := rfl
@[simp] theorem setLink_winCache (v : LinkEnd) : (s.setLink k v).winCache = s.winCache := rfl
@[simp] theorem setLink_winInv (v : LinkEnd) : (s.setLink k v).winInv = s.winInv := rfl
@[simp] theorem setLink_sent (v : LinkEnd) : (s.setLink k v).sent = s.sent := rfl
@[simp] theorem setLink_remOps (v : LinkEnd) : (s.setLink k v).remOps = s.remOps := rfl
@[simp] theorem setLink_grpBase (v : LinkEnd) : (s.setLink k v).grpBase = s.grpBase := rfl
@[simp] theorem setLink_colls (v : LinkEnd) : (s.setLink k v).colls = s.colls := rfl
@[simp] theorem setLink_early (v : LinkEnd) : (s.setLink k v).early = s.early := rfl
@[simp] theorem setLink_opTag (v : LinkEnd) : (s.setLink k v).opTag = s.opTag := rfl
@[simp] theorem setLink_td (v : LinkEnd) : (s.setLink k v).td = s.td := rfl
@[simp] theorem setLink_sig (v : LinkEnd) : (s.setLink k v).sig = s.sig := rfl
@[simp] theorem setLink_sec (v : LinkEnd) : (s.setLink k v).sec = s.sec := rfl

/-! ### hlinks -/

@[simp] theorem modHlink_eq (f : HostLink → HostLink) : s.modHlink k f = s.setHlink k (f (s.hlink k)) := rfl
@[simp] theorem setHlink_hlink (v : HostLink) : (s.setHlink k v).hlink k = v := by simp [State.setHlink, State.hlink]
theorem setHlink_hlink_ne (v : HostLink) (h : j ≠ k) : (s.setHlink k v).hlink j = s.hlink j := by
  simp [State.setHlink, State.hlink, look_put_ne, h]
@[simp] theorem setHlink_eng (v : HostLink) : (s.setHlink k v).eng j = s.eng j := rfl
@[simp] theorem setHlink_stream (v : HostLink) : (s.setHlink k v).stream j = s.stream j := rfl
@[simp] theorem setHlink_unit (v : HostLink) : (s.setHlink k v).unit j = s.unit j := rfl
@[simp] theorem setHlink_chan (v : HostLink) : (s.setHlink k v).chan j = s.chan j := rfl
@[simp] theorem setHlink_stack (v : HostLink) : (s.setHlink k v).stack j = s.stack j := rfl
@[simp] theorem setHlink_hart (v : HostLink) : (s.setHlink k v).hart j = s.hart j := rfl
@[simp] theorem setHlink_host (v : HostLink) : (s.setHlink k v).host j = s.host j := rfl
@[simp] theorem setHlink_ep (v : HostLink) : (s.setHlink k v).ep j = s.ep j := rfl
@[simp] theorem setHlink_pc (v : HostLink) : (s.setHlink k v).pc j = s.pc j := rfl
@[simp] theorem setHlink_port (v : HostLink) : (s.setHlink k v).port j = s.port j := rfl
@[simp] theorem setHlink_path (v : HostLink) : (s.setHlink k v).path j = s.path j := rfl
@[simp] theorem setHlink_link (v : HostLink) : (s.setHlink k v).link j = s.link j := rfl
@[simp] theorem setHlink_spire (v : HostLink) : (s.setHlink k v).spire j = s.spire j := rfl
@[simp] theorem setHlink_ident (v : HostLink) : (s.setHlink k v).ident j = s.ident j := rfl
@[simp] theorem setHlink_fwOf (v : HostLink) : (s.setHlink k v).fwOf j = s.fwOf j := rfl
@[simp] theorem setHlink_uc (v : HostLink) : (s.setHlink k v).uc j = s.uc j := rfl
@[simp] theorem setHlink_clRing (v : HostLink) : (s.setHlink k v).clRing j = s.clRing j := rfl
@[simp] theorem setHlink_roRing (v : HostLink) : (s.setHlink k v).roRing j = s.roRing j := rfl
@[simp] theorem setHlink_crRing (v : HostLink) : (s.setHlink k v).crRing j = s.crRing j := rfl
@[simp] theorem setHlink_kernel (v : HostLink) : (s.setHlink k v).kernel j = s.kernel j := rfl
@[simp] theorem setHlink_tt (v : HostLink) : (s.setHlink k v).tt j = s.tt j := rfl
@[simp] theorem setHlink_book (v : HostLink) : (s.setHlink k v).book j = s.book j := rfl
@[simp] theorem setHlink_siding (v : HostLink) : (s.setHlink k v).siding j = s.siding j := rfl
@[simp] theorem setHlink_tile (v : HostLink) : (s.setHlink k v).tile j = s.tile j := rfl
@[simp] theorem setHlink_pending (v : HostLink) : (s.setHlink k v).pending = s.pending := rfl
@[simp] theorem setHlink_nonce (v : HostLink) : (s.setHlink k v).nonce = s.nonce := rfl
@[simp] theorem setHlink_pkg (v : HostLink) : (s.setHlink k v).pkg = s.pkg := rfl
@[simp] theorem setHlink_flits (v : HostLink) : (s.setHlink k v).flits = s.flits := rfl
@[simp] theorem setHlink_flitKey (v : HostLink) : (s.setHlink k v).flitKey = s.flitKey := rfl
@[simp] theorem setHlink_outer (v : HostLink) : (s.setHlink k v).outer = s.outer := rfl
@[simp] theorem setHlink_kAddr (v : HostLink) : (s.setHlink k v).kAddr = s.kAddr := rfl
@[simp] theorem setHlink_kResult (v : HostLink) : (s.setHlink k v).kResult = s.kResult := rfl
@[simp] theorem setHlink_kBad (v : HostLink) : (s.setHlink k v).kBad = s.kBad := rfl
@[simp] theorem setHlink_kCmds (v : HostLink) : (s.setHlink k v).kCmds = s.kCmds := rfl
@[simp] theorem setHlink_launches (v : HostLink) : (s.setHlink k v).launches = s.launches := rfl
@[simp] theorem setHlink_nextKey (v : HostLink) : (s.setHlink k v).nextKey = s.nextKey := rfl
@[simp] theorem setHlink_faultNo (v : HostLink) : (s.setHlink k v).faultNo = s.faultNo := rfl
@[simp] theorem setHlink_atomics (v : HostLink) : (s.setHlink k v).atomics = s.atomics := rfl
@[simp] theorem setHlink_expects (v : HostLink) : (s.setHlink k v).expects = s.expects := rfl
@[simp] theorem setHlink_mem (v : HostLink) : (s.setHlink k v).mem = s.mem := rfl
@[simp] theorem setHlink_poison (v : HostLink) : (s.setHlink k v).poison = s.poison := rfl
@[simp] theorem setHlink_stale (v : HostLink) : (s.setHlink k v).stale = s.stale := rfl
@[simp] theorem setHlink_useClock (v : HostLink) : (s.setHlink k v).useClock = s.useClock := rfl
@[simp] theorem setHlink_migs (v : HostLink) : (s.setHlink k v).migs = s.migs := rfl
@[simp] theorem setHlink_recovering (v : HostLink) : (s.setHlink k v).recovering = s.recovering := rfl
@[simp] theorem setHlink_astBase (v : HostLink) : (s.setHlink k v).astBase = s.astBase := rfl
@[simp] theorem setHlink_astCache (v : HostLink) : (s.setHlink k v).astCache = s.astCache := rfl
@[simp] theorem setHlink_tlb (v : HostLink) : (s.setHlink k v).tlb = s.tlb := rfl
@[simp] theorem setHlink_pairs (v : HostLink) : (s.setHlink k v).pairs = s.pairs := rfl
@[simp] theorem setHlink_mlId (v : HostLink) : (s.setHlink k v).mlId = s.mlId := rfl
@[simp] theorem setHlink_winBase (v : HostLink) : (s.setHlink k v).winBase = s.winBase := rfl
@[simp] theorem setHlink_winCache (v : HostLink) : (s.setHlink k v).winCache = s.winCache := rfl
@[simp] theorem setHlink_winInv (v : HostLink) : (s.setHlink k v).winInv = s.winInv := rfl
@[simp] theorem setHlink_sent (v : HostLink) : (s.setHlink k v).sent = s.sent := rfl
@[simp] theorem setHlink_remOps (v : HostLink) : (s.setHlink k v).remOps = s.remOps := rfl
@[simp] theorem setHlink_grpBase (v : HostLink) : (s.setHlink k v).grpBase = s.grpBase := rfl
@[simp] theorem setHlink_colls (v : HostLink) : (s.setHlink k v).colls = s.colls := rfl
@[simp] theorem setHlink_early (v : HostLink) : (s.setHlink k v).early = s.early := rfl
@[simp] theorem setHlink_opTag (v : HostLink) : (s.setHlink k v).opTag = s.opTag := rfl
@[simp] theorem setHlink_td (v : HostLink) : (s.setHlink k v).td = s.td := rfl
@[simp] theorem setHlink_sig (v : HostLink) : (s.setHlink k v).sig = s.sig := rfl
@[simp] theorem setHlink_sec (v : HostLink) : (s.setHlink k v).sec = s.sec := rfl

/-! ### spires -/

@[simp] theorem modSpire_eq (f : SpirePwr → SpirePwr) : s.modSpire k f = s.setSpire k (f (s.spire k)) := rfl
@[simp] theorem setSpire_spire (v : SpirePwr) : (s.setSpire k v).spire k = v := by simp [State.setSpire, State.spire]
theorem setSpire_spire_ne (v : SpirePwr) (h : j ≠ k) : (s.setSpire k v).spire j = s.spire j := by
  simp [State.setSpire, State.spire, look_put_ne, h]
@[simp] theorem setSpire_eng (v : SpirePwr) : (s.setSpire k v).eng j = s.eng j := rfl
@[simp] theorem setSpire_stream (v : SpirePwr) : (s.setSpire k v).stream j = s.stream j := rfl
@[simp] theorem setSpire_unit (v : SpirePwr) : (s.setSpire k v).unit j = s.unit j := rfl
@[simp] theorem setSpire_chan (v : SpirePwr) : (s.setSpire k v).chan j = s.chan j := rfl
@[simp] theorem setSpire_stack (v : SpirePwr) : (s.setSpire k v).stack j = s.stack j := rfl
@[simp] theorem setSpire_hart (v : SpirePwr) : (s.setSpire k v).hart j = s.hart j := rfl
@[simp] theorem setSpire_host (v : SpirePwr) : (s.setSpire k v).host j = s.host j := rfl
@[simp] theorem setSpire_ep (v : SpirePwr) : (s.setSpire k v).ep j = s.ep j := rfl
@[simp] theorem setSpire_pc (v : SpirePwr) : (s.setSpire k v).pc j = s.pc j := rfl
@[simp] theorem setSpire_port (v : SpirePwr) : (s.setSpire k v).port j = s.port j := rfl
@[simp] theorem setSpire_path (v : SpirePwr) : (s.setSpire k v).path j = s.path j := rfl
@[simp] theorem setSpire_link (v : SpirePwr) : (s.setSpire k v).link j = s.link j := rfl
@[simp] theorem setSpire_hlink (v : SpirePwr) : (s.setSpire k v).hlink j = s.hlink j := rfl
@[simp] theorem setSpire_ident (v : SpirePwr) : (s.setSpire k v).ident j = s.ident j := rfl
@[simp] theorem setSpire_fwOf (v : SpirePwr) : (s.setSpire k v).fwOf j = s.fwOf j := rfl
@[simp] theorem setSpire_uc (v : SpirePwr) : (s.setSpire k v).uc j = s.uc j := rfl
@[simp] theorem setSpire_clRing (v : SpirePwr) : (s.setSpire k v).clRing j = s.clRing j := rfl
@[simp] theorem setSpire_roRing (v : SpirePwr) : (s.setSpire k v).roRing j = s.roRing j := rfl
@[simp] theorem setSpire_crRing (v : SpirePwr) : (s.setSpire k v).crRing j = s.crRing j := rfl
@[simp] theorem setSpire_kernel (v : SpirePwr) : (s.setSpire k v).kernel j = s.kernel j := rfl
@[simp] theorem setSpire_tt (v : SpirePwr) : (s.setSpire k v).tt j = s.tt j := rfl
@[simp] theorem setSpire_book (v : SpirePwr) : (s.setSpire k v).book j = s.book j := rfl
@[simp] theorem setSpire_siding (v : SpirePwr) : (s.setSpire k v).siding j = s.siding j := rfl
@[simp] theorem setSpire_tile (v : SpirePwr) : (s.setSpire k v).tile j = s.tile j := rfl
@[simp] theorem setSpire_pending (v : SpirePwr) : (s.setSpire k v).pending = s.pending := rfl
@[simp] theorem setSpire_nonce (v : SpirePwr) : (s.setSpire k v).nonce = s.nonce := rfl
@[simp] theorem setSpire_pkg (v : SpirePwr) : (s.setSpire k v).pkg = s.pkg := rfl
@[simp] theorem setSpire_flits (v : SpirePwr) : (s.setSpire k v).flits = s.flits := rfl
@[simp] theorem setSpire_flitKey (v : SpirePwr) : (s.setSpire k v).flitKey = s.flitKey := rfl
@[simp] theorem setSpire_outer (v : SpirePwr) : (s.setSpire k v).outer = s.outer := rfl
@[simp] theorem setSpire_kAddr (v : SpirePwr) : (s.setSpire k v).kAddr = s.kAddr := rfl
@[simp] theorem setSpire_kResult (v : SpirePwr) : (s.setSpire k v).kResult = s.kResult := rfl
@[simp] theorem setSpire_kBad (v : SpirePwr) : (s.setSpire k v).kBad = s.kBad := rfl
@[simp] theorem setSpire_kCmds (v : SpirePwr) : (s.setSpire k v).kCmds = s.kCmds := rfl
@[simp] theorem setSpire_launches (v : SpirePwr) : (s.setSpire k v).launches = s.launches := rfl
@[simp] theorem setSpire_nextKey (v : SpirePwr) : (s.setSpire k v).nextKey = s.nextKey := rfl
@[simp] theorem setSpire_faultNo (v : SpirePwr) : (s.setSpire k v).faultNo = s.faultNo := rfl
@[simp] theorem setSpire_atomics (v : SpirePwr) : (s.setSpire k v).atomics = s.atomics := rfl
@[simp] theorem setSpire_expects (v : SpirePwr) : (s.setSpire k v).expects = s.expects := rfl
@[simp] theorem setSpire_mem (v : SpirePwr) : (s.setSpire k v).mem = s.mem := rfl
@[simp] theorem setSpire_poison (v : SpirePwr) : (s.setSpire k v).poison = s.poison := rfl
@[simp] theorem setSpire_stale (v : SpirePwr) : (s.setSpire k v).stale = s.stale := rfl
@[simp] theorem setSpire_useClock (v : SpirePwr) : (s.setSpire k v).useClock = s.useClock := rfl
@[simp] theorem setSpire_migs (v : SpirePwr) : (s.setSpire k v).migs = s.migs := rfl
@[simp] theorem setSpire_recovering (v : SpirePwr) : (s.setSpire k v).recovering = s.recovering := rfl
@[simp] theorem setSpire_astBase (v : SpirePwr) : (s.setSpire k v).astBase = s.astBase := rfl
@[simp] theorem setSpire_astCache (v : SpirePwr) : (s.setSpire k v).astCache = s.astCache := rfl
@[simp] theorem setSpire_tlb (v : SpirePwr) : (s.setSpire k v).tlb = s.tlb := rfl
@[simp] theorem setSpire_pairs (v : SpirePwr) : (s.setSpire k v).pairs = s.pairs := rfl
@[simp] theorem setSpire_mlId (v : SpirePwr) : (s.setSpire k v).mlId = s.mlId := rfl
@[simp] theorem setSpire_winBase (v : SpirePwr) : (s.setSpire k v).winBase = s.winBase := rfl
@[simp] theorem setSpire_winCache (v : SpirePwr) : (s.setSpire k v).winCache = s.winCache := rfl
@[simp] theorem setSpire_winInv (v : SpirePwr) : (s.setSpire k v).winInv = s.winInv := rfl
@[simp] theorem setSpire_sent (v : SpirePwr) : (s.setSpire k v).sent = s.sent := rfl
@[simp] theorem setSpire_remOps (v : SpirePwr) : (s.setSpire k v).remOps = s.remOps := rfl
@[simp] theorem setSpire_grpBase (v : SpirePwr) : (s.setSpire k v).grpBase = s.grpBase := rfl
@[simp] theorem setSpire_colls (v : SpirePwr) : (s.setSpire k v).colls = s.colls := rfl
@[simp] theorem setSpire_early (v : SpirePwr) : (s.setSpire k v).early = s.early := rfl
@[simp] theorem setSpire_opTag (v : SpirePwr) : (s.setSpire k v).opTag = s.opTag := rfl
@[simp] theorem setSpire_td (v : SpirePwr) : (s.setSpire k v).td = s.td := rfl
@[simp] theorem setSpire_sig (v : SpirePwr) : (s.setSpire k v).sig = s.sig := rfl
@[simp] theorem setSpire_sec (v : SpirePwr) : (s.setSpire k v).sec = s.sec := rfl

/-! ### idents -/

@[simp] theorem modIdent_eq (f : Ident → Ident) : s.modIdent k f = s.setIdent k (f (s.ident k)) := rfl
@[simp] theorem setIdent_ident (v : Ident) : (s.setIdent k v).ident k = v := by simp [State.setIdent, State.ident]
theorem setIdent_ident_ne (v : Ident) (h : j ≠ k) : (s.setIdent k v).ident j = s.ident j := by
  simp [State.setIdent, State.ident, look_put_ne, h]
@[simp] theorem setIdent_eng (v : Ident) : (s.setIdent k v).eng j = s.eng j := rfl
@[simp] theorem setIdent_stream (v : Ident) : (s.setIdent k v).stream j = s.stream j := rfl
@[simp] theorem setIdent_unit (v : Ident) : (s.setIdent k v).unit j = s.unit j := rfl
@[simp] theorem setIdent_chan (v : Ident) : (s.setIdent k v).chan j = s.chan j := rfl
@[simp] theorem setIdent_stack (v : Ident) : (s.setIdent k v).stack j = s.stack j := rfl
@[simp] theorem setIdent_hart (v : Ident) : (s.setIdent k v).hart j = s.hart j := rfl
@[simp] theorem setIdent_host (v : Ident) : (s.setIdent k v).host j = s.host j := rfl
@[simp] theorem setIdent_ep (v : Ident) : (s.setIdent k v).ep j = s.ep j := rfl
@[simp] theorem setIdent_pc (v : Ident) : (s.setIdent k v).pc j = s.pc j := rfl
@[simp] theorem setIdent_port (v : Ident) : (s.setIdent k v).port j = s.port j := rfl
@[simp] theorem setIdent_path (v : Ident) : (s.setIdent k v).path j = s.path j := rfl
@[simp] theorem setIdent_link (v : Ident) : (s.setIdent k v).link j = s.link j := rfl
@[simp] theorem setIdent_hlink (v : Ident) : (s.setIdent k v).hlink j = s.hlink j := rfl
@[simp] theorem setIdent_spire (v : Ident) : (s.setIdent k v).spire j = s.spire j := rfl
@[simp] theorem setIdent_fwOf (v : Ident) : (s.setIdent k v).fwOf j = s.fwOf j := rfl
@[simp] theorem setIdent_uc (v : Ident) : (s.setIdent k v).uc j = s.uc j := rfl
@[simp] theorem setIdent_clRing (v : Ident) : (s.setIdent k v).clRing j = s.clRing j := rfl
@[simp] theorem setIdent_roRing (v : Ident) : (s.setIdent k v).roRing j = s.roRing j := rfl
@[simp] theorem setIdent_crRing (v : Ident) : (s.setIdent k v).crRing j = s.crRing j := rfl
@[simp] theorem setIdent_kernel (v : Ident) : (s.setIdent k v).kernel j = s.kernel j := rfl
@[simp] theorem setIdent_tt (v : Ident) : (s.setIdent k v).tt j = s.tt j := rfl
@[simp] theorem setIdent_book (v : Ident) : (s.setIdent k v).book j = s.book j := rfl
@[simp] theorem setIdent_siding (v : Ident) : (s.setIdent k v).siding j = s.siding j := rfl
@[simp] theorem setIdent_tile (v : Ident) : (s.setIdent k v).tile j = s.tile j := rfl
@[simp] theorem setIdent_pending (v : Ident) : (s.setIdent k v).pending = s.pending := rfl
@[simp] theorem setIdent_nonce (v : Ident) : (s.setIdent k v).nonce = s.nonce := rfl
@[simp] theorem setIdent_pkg (v : Ident) : (s.setIdent k v).pkg = s.pkg := rfl
@[simp] theorem setIdent_flits (v : Ident) : (s.setIdent k v).flits = s.flits := rfl
@[simp] theorem setIdent_flitKey (v : Ident) : (s.setIdent k v).flitKey = s.flitKey := rfl
@[simp] theorem setIdent_outer (v : Ident) : (s.setIdent k v).outer = s.outer := rfl
@[simp] theorem setIdent_kAddr (v : Ident) : (s.setIdent k v).kAddr = s.kAddr := rfl
@[simp] theorem setIdent_kResult (v : Ident) : (s.setIdent k v).kResult = s.kResult := rfl
@[simp] theorem setIdent_kBad (v : Ident) : (s.setIdent k v).kBad = s.kBad := rfl
@[simp] theorem setIdent_kCmds (v : Ident) : (s.setIdent k v).kCmds = s.kCmds := rfl
@[simp] theorem setIdent_launches (v : Ident) : (s.setIdent k v).launches = s.launches := rfl
@[simp] theorem setIdent_nextKey (v : Ident) : (s.setIdent k v).nextKey = s.nextKey := rfl
@[simp] theorem setIdent_faultNo (v : Ident) : (s.setIdent k v).faultNo = s.faultNo := rfl
@[simp] theorem setIdent_atomics (v : Ident) : (s.setIdent k v).atomics = s.atomics := rfl
@[simp] theorem setIdent_expects (v : Ident) : (s.setIdent k v).expects = s.expects := rfl
@[simp] theorem setIdent_mem (v : Ident) : (s.setIdent k v).mem = s.mem := rfl
@[simp] theorem setIdent_poison (v : Ident) : (s.setIdent k v).poison = s.poison := rfl
@[simp] theorem setIdent_stale (v : Ident) : (s.setIdent k v).stale = s.stale := rfl
@[simp] theorem setIdent_useClock (v : Ident) : (s.setIdent k v).useClock = s.useClock := rfl
@[simp] theorem setIdent_migs (v : Ident) : (s.setIdent k v).migs = s.migs := rfl
@[simp] theorem setIdent_recovering (v : Ident) : (s.setIdent k v).recovering = s.recovering := rfl
@[simp] theorem setIdent_astBase (v : Ident) : (s.setIdent k v).astBase = s.astBase := rfl
@[simp] theorem setIdent_astCache (v : Ident) : (s.setIdent k v).astCache = s.astCache := rfl
@[simp] theorem setIdent_tlb (v : Ident) : (s.setIdent k v).tlb = s.tlb := rfl
@[simp] theorem setIdent_pairs (v : Ident) : (s.setIdent k v).pairs = s.pairs := rfl
@[simp] theorem setIdent_mlId (v : Ident) : (s.setIdent k v).mlId = s.mlId := rfl
@[simp] theorem setIdent_winBase (v : Ident) : (s.setIdent k v).winBase = s.winBase := rfl
@[simp] theorem setIdent_winCache (v : Ident) : (s.setIdent k v).winCache = s.winCache := rfl
@[simp] theorem setIdent_winInv (v : Ident) : (s.setIdent k v).winInv = s.winInv := rfl
@[simp] theorem setIdent_sent (v : Ident) : (s.setIdent k v).sent = s.sent := rfl
@[simp] theorem setIdent_remOps (v : Ident) : (s.setIdent k v).remOps = s.remOps := rfl
@[simp] theorem setIdent_grpBase (v : Ident) : (s.setIdent k v).grpBase = s.grpBase := rfl
@[simp] theorem setIdent_colls (v : Ident) : (s.setIdent k v).colls = s.colls := rfl
@[simp] theorem setIdent_early (v : Ident) : (s.setIdent k v).early = s.early := rfl
@[simp] theorem setIdent_opTag (v : Ident) : (s.setIdent k v).opTag = s.opTag := rfl
@[simp] theorem setIdent_td (v : Ident) : (s.setIdent k v).td = s.td := rfl
@[simp] theorem setIdent_sig (v : Ident) : (s.setIdent k v).sig = s.sig := rfl
@[simp] theorem setIdent_sec (v : Ident) : (s.setIdent k v).sec = s.sec := rfl

/-! ### fw -/

@[simp] theorem modFwOf_eq (f : Firmware → Firmware) : s.modFwOf k f = s.setFwOf k (f (s.fwOf k)) := rfl
@[simp] theorem setFwOf_fwOf (v : Firmware) : (s.setFwOf k v).fwOf k = v := by simp [State.setFwOf, State.fwOf]
theorem setFwOf_fwOf_ne (v : Firmware) (h : j ≠ k) : (s.setFwOf k v).fwOf j = s.fwOf j := by
  simp [State.setFwOf, State.fwOf, look_put_ne, h]
@[simp] theorem setFwOf_eng (v : Firmware) : (s.setFwOf k v).eng j = s.eng j := rfl
@[simp] theorem setFwOf_stream (v : Firmware) : (s.setFwOf k v).stream j = s.stream j := rfl
@[simp] theorem setFwOf_unit (v : Firmware) : (s.setFwOf k v).unit j = s.unit j := rfl
@[simp] theorem setFwOf_chan (v : Firmware) : (s.setFwOf k v).chan j = s.chan j := rfl
@[simp] theorem setFwOf_stack (v : Firmware) : (s.setFwOf k v).stack j = s.stack j := rfl
@[simp] theorem setFwOf_hart (v : Firmware) : (s.setFwOf k v).hart j = s.hart j := rfl
@[simp] theorem setFwOf_host (v : Firmware) : (s.setFwOf k v).host j = s.host j := rfl
@[simp] theorem setFwOf_ep (v : Firmware) : (s.setFwOf k v).ep j = s.ep j := rfl
@[simp] theorem setFwOf_pc (v : Firmware) : (s.setFwOf k v).pc j = s.pc j := rfl
@[simp] theorem setFwOf_port (v : Firmware) : (s.setFwOf k v).port j = s.port j := rfl
@[simp] theorem setFwOf_path (v : Firmware) : (s.setFwOf k v).path j = s.path j := rfl
@[simp] theorem setFwOf_link (v : Firmware) : (s.setFwOf k v).link j = s.link j := rfl
@[simp] theorem setFwOf_hlink (v : Firmware) : (s.setFwOf k v).hlink j = s.hlink j := rfl
@[simp] theorem setFwOf_spire (v : Firmware) : (s.setFwOf k v).spire j = s.spire j := rfl
@[simp] theorem setFwOf_ident (v : Firmware) : (s.setFwOf k v).ident j = s.ident j := rfl
@[simp] theorem setFwOf_uc (v : Firmware) : (s.setFwOf k v).uc j = s.uc j := rfl
@[simp] theorem setFwOf_clRing (v : Firmware) : (s.setFwOf k v).clRing j = s.clRing j := rfl
@[simp] theorem setFwOf_roRing (v : Firmware) : (s.setFwOf k v).roRing j = s.roRing j := rfl
@[simp] theorem setFwOf_crRing (v : Firmware) : (s.setFwOf k v).crRing j = s.crRing j := rfl
@[simp] theorem setFwOf_kernel (v : Firmware) : (s.setFwOf k v).kernel j = s.kernel j := rfl
@[simp] theorem setFwOf_tt (v : Firmware) : (s.setFwOf k v).tt j = s.tt j := rfl
@[simp] theorem setFwOf_book (v : Firmware) : (s.setFwOf k v).book j = s.book j := rfl
@[simp] theorem setFwOf_siding (v : Firmware) : (s.setFwOf k v).siding j = s.siding j := rfl
@[simp] theorem setFwOf_tile (v : Firmware) : (s.setFwOf k v).tile j = s.tile j := rfl
@[simp] theorem setFwOf_pending (v : Firmware) : (s.setFwOf k v).pending = s.pending := rfl
@[simp] theorem setFwOf_nonce (v : Firmware) : (s.setFwOf k v).nonce = s.nonce := rfl
@[simp] theorem setFwOf_pkg (v : Firmware) : (s.setFwOf k v).pkg = s.pkg := rfl
@[simp] theorem setFwOf_flits (v : Firmware) : (s.setFwOf k v).flits = s.flits := rfl
@[simp] theorem setFwOf_flitKey (v : Firmware) : (s.setFwOf k v).flitKey = s.flitKey := rfl
@[simp] theorem setFwOf_outer (v : Firmware) : (s.setFwOf k v).outer = s.outer := rfl
@[simp] theorem setFwOf_kAddr (v : Firmware) : (s.setFwOf k v).kAddr = s.kAddr := rfl
@[simp] theorem setFwOf_kResult (v : Firmware) : (s.setFwOf k v).kResult = s.kResult := rfl
@[simp] theorem setFwOf_kBad (v : Firmware) : (s.setFwOf k v).kBad = s.kBad := rfl
@[simp] theorem setFwOf_kCmds (v : Firmware) : (s.setFwOf k v).kCmds = s.kCmds := rfl
@[simp] theorem setFwOf_launches (v : Firmware) : (s.setFwOf k v).launches = s.launches := rfl
@[simp] theorem setFwOf_nextKey (v : Firmware) : (s.setFwOf k v).nextKey = s.nextKey := rfl
@[simp] theorem setFwOf_faultNo (v : Firmware) : (s.setFwOf k v).faultNo = s.faultNo := rfl
@[simp] theorem setFwOf_atomics (v : Firmware) : (s.setFwOf k v).atomics = s.atomics := rfl
@[simp] theorem setFwOf_expects (v : Firmware) : (s.setFwOf k v).expects = s.expects := rfl
@[simp] theorem setFwOf_mem (v : Firmware) : (s.setFwOf k v).mem = s.mem := rfl
@[simp] theorem setFwOf_poison (v : Firmware) : (s.setFwOf k v).poison = s.poison := rfl
@[simp] theorem setFwOf_stale (v : Firmware) : (s.setFwOf k v).stale = s.stale := rfl
@[simp] theorem setFwOf_useClock (v : Firmware) : (s.setFwOf k v).useClock = s.useClock := rfl
@[simp] theorem setFwOf_migs (v : Firmware) : (s.setFwOf k v).migs = s.migs := rfl
@[simp] theorem setFwOf_recovering (v : Firmware) : (s.setFwOf k v).recovering = s.recovering := rfl
@[simp] theorem setFwOf_astBase (v : Firmware) : (s.setFwOf k v).astBase = s.astBase := rfl
@[simp] theorem setFwOf_astCache (v : Firmware) : (s.setFwOf k v).astCache = s.astCache := rfl
@[simp] theorem setFwOf_tlb (v : Firmware) : (s.setFwOf k v).tlb = s.tlb := rfl
@[simp] theorem setFwOf_pairs (v : Firmware) : (s.setFwOf k v).pairs = s.pairs := rfl
@[simp] theorem setFwOf_mlId (v : Firmware) : (s.setFwOf k v).mlId = s.mlId := rfl
@[simp] theorem setFwOf_winBase (v : Firmware) : (s.setFwOf k v).winBase = s.winBase := rfl
@[simp] theorem setFwOf_winCache (v : Firmware) : (s.setFwOf k v).winCache = s.winCache := rfl
@[simp] theorem setFwOf_winInv (v : Firmware) : (s.setFwOf k v).winInv = s.winInv := rfl
@[simp] theorem setFwOf_sent (v : Firmware) : (s.setFwOf k v).sent = s.sent := rfl
@[simp] theorem setFwOf_remOps (v : Firmware) : (s.setFwOf k v).remOps = s.remOps := rfl
@[simp] theorem setFwOf_grpBase (v : Firmware) : (s.setFwOf k v).grpBase = s.grpBase := rfl
@[simp] theorem setFwOf_colls (v : Firmware) : (s.setFwOf k v).colls = s.colls := rfl
@[simp] theorem setFwOf_early (v : Firmware) : (s.setFwOf k v).early = s.early := rfl
@[simp] theorem setFwOf_opTag (v : Firmware) : (s.setFwOf k v).opTag = s.opTag := rfl
@[simp] theorem setFwOf_td (v : Firmware) : (s.setFwOf k v).td = s.td := rfl
@[simp] theorem setFwOf_sig (v : Firmware) : (s.setFwOf k v).sig = s.sig := rfl
@[simp] theorem setFwOf_sec (v : Firmware) : (s.setFwOf k v).sec = s.sec := rfl

/-! ### ucs -/

@[simp] theorem modUc_eq (f : UnitCtr → UnitCtr) : s.modUc k f = s.setUc k (f (s.uc k)) := rfl
@[simp] theorem setUc_uc (v : UnitCtr) : (s.setUc k v).uc k = v := by simp [State.setUc, State.uc]
theorem setUc_uc_ne (v : UnitCtr) (h : j ≠ k) : (s.setUc k v).uc j = s.uc j := by
  simp [State.setUc, State.uc, look_put_ne, h]
@[simp] theorem setUc_eng (v : UnitCtr) : (s.setUc k v).eng j = s.eng j := rfl
@[simp] theorem setUc_stream (v : UnitCtr) : (s.setUc k v).stream j = s.stream j := rfl
@[simp] theorem setUc_unit (v : UnitCtr) : (s.setUc k v).unit j = s.unit j := rfl
@[simp] theorem setUc_chan (v : UnitCtr) : (s.setUc k v).chan j = s.chan j := rfl
@[simp] theorem setUc_stack (v : UnitCtr) : (s.setUc k v).stack j = s.stack j := rfl
@[simp] theorem setUc_hart (v : UnitCtr) : (s.setUc k v).hart j = s.hart j := rfl
@[simp] theorem setUc_host (v : UnitCtr) : (s.setUc k v).host j = s.host j := rfl
@[simp] theorem setUc_ep (v : UnitCtr) : (s.setUc k v).ep j = s.ep j := rfl
@[simp] theorem setUc_pc (v : UnitCtr) : (s.setUc k v).pc j = s.pc j := rfl
@[simp] theorem setUc_port (v : UnitCtr) : (s.setUc k v).port j = s.port j := rfl
@[simp] theorem setUc_path (v : UnitCtr) : (s.setUc k v).path j = s.path j := rfl
@[simp] theorem setUc_link (v : UnitCtr) : (s.setUc k v).link j = s.link j := rfl
@[simp] theorem setUc_hlink (v : UnitCtr) : (s.setUc k v).hlink j = s.hlink j := rfl
@[simp] theorem setUc_spire (v : UnitCtr) : (s.setUc k v).spire j = s.spire j := rfl
@[simp] theorem setUc_ident (v : UnitCtr) : (s.setUc k v).ident j = s.ident j := rfl
@[simp] theorem setUc_fwOf (v : UnitCtr) : (s.setUc k v).fwOf j = s.fwOf j := rfl
@[simp] theorem setUc_clRing (v : UnitCtr) : (s.setUc k v).clRing j = s.clRing j := rfl
@[simp] theorem setUc_roRing (v : UnitCtr) : (s.setUc k v).roRing j = s.roRing j := rfl
@[simp] theorem setUc_crRing (v : UnitCtr) : (s.setUc k v).crRing j = s.crRing j := rfl
@[simp] theorem setUc_kernel (v : UnitCtr) : (s.setUc k v).kernel j = s.kernel j := rfl
@[simp] theorem setUc_tt (v : UnitCtr) : (s.setUc k v).tt j = s.tt j := rfl
@[simp] theorem setUc_book (v : UnitCtr) : (s.setUc k v).book j = s.book j := rfl
@[simp] theorem setUc_siding (v : UnitCtr) : (s.setUc k v).siding j = s.siding j := rfl
@[simp] theorem setUc_tile (v : UnitCtr) : (s.setUc k v).tile j = s.tile j := rfl
@[simp] theorem setUc_pending (v : UnitCtr) : (s.setUc k v).pending = s.pending := rfl
@[simp] theorem setUc_nonce (v : UnitCtr) : (s.setUc k v).nonce = s.nonce := rfl
@[simp] theorem setUc_pkg (v : UnitCtr) : (s.setUc k v).pkg = s.pkg := rfl
@[simp] theorem setUc_flits (v : UnitCtr) : (s.setUc k v).flits = s.flits := rfl
@[simp] theorem setUc_flitKey (v : UnitCtr) : (s.setUc k v).flitKey = s.flitKey := rfl
@[simp] theorem setUc_outer (v : UnitCtr) : (s.setUc k v).outer = s.outer := rfl
@[simp] theorem setUc_kAddr (v : UnitCtr) : (s.setUc k v).kAddr = s.kAddr := rfl
@[simp] theorem setUc_kResult (v : UnitCtr) : (s.setUc k v).kResult = s.kResult := rfl
@[simp] theorem setUc_kBad (v : UnitCtr) : (s.setUc k v).kBad = s.kBad := rfl
@[simp] theorem setUc_kCmds (v : UnitCtr) : (s.setUc k v).kCmds = s.kCmds := rfl
@[simp] theorem setUc_launches (v : UnitCtr) : (s.setUc k v).launches = s.launches := rfl
@[simp] theorem setUc_nextKey (v : UnitCtr) : (s.setUc k v).nextKey = s.nextKey := rfl
@[simp] theorem setUc_faultNo (v : UnitCtr) : (s.setUc k v).faultNo = s.faultNo := rfl
@[simp] theorem setUc_atomics (v : UnitCtr) : (s.setUc k v).atomics = s.atomics := rfl
@[simp] theorem setUc_expects (v : UnitCtr) : (s.setUc k v).expects = s.expects := rfl
@[simp] theorem setUc_mem (v : UnitCtr) : (s.setUc k v).mem = s.mem := rfl
@[simp] theorem setUc_poison (v : UnitCtr) : (s.setUc k v).poison = s.poison := rfl
@[simp] theorem setUc_stale (v : UnitCtr) : (s.setUc k v).stale = s.stale := rfl
@[simp] theorem setUc_useClock (v : UnitCtr) : (s.setUc k v).useClock = s.useClock := rfl
@[simp] theorem setUc_migs (v : UnitCtr) : (s.setUc k v).migs = s.migs := rfl
@[simp] theorem setUc_recovering (v : UnitCtr) : (s.setUc k v).recovering = s.recovering := rfl
@[simp] theorem setUc_astBase (v : UnitCtr) : (s.setUc k v).astBase = s.astBase := rfl
@[simp] theorem setUc_astCache (v : UnitCtr) : (s.setUc k v).astCache = s.astCache := rfl
@[simp] theorem setUc_tlb (v : UnitCtr) : (s.setUc k v).tlb = s.tlb := rfl
@[simp] theorem setUc_pairs (v : UnitCtr) : (s.setUc k v).pairs = s.pairs := rfl
@[simp] theorem setUc_mlId (v : UnitCtr) : (s.setUc k v).mlId = s.mlId := rfl
@[simp] theorem setUc_winBase (v : UnitCtr) : (s.setUc k v).winBase = s.winBase := rfl
@[simp] theorem setUc_winCache (v : UnitCtr) : (s.setUc k v).winCache = s.winCache := rfl
@[simp] theorem setUc_winInv (v : UnitCtr) : (s.setUc k v).winInv = s.winInv := rfl
@[simp] theorem setUc_sent (v : UnitCtr) : (s.setUc k v).sent = s.sent := rfl
@[simp] theorem setUc_remOps (v : UnitCtr) : (s.setUc k v).remOps = s.remOps := rfl
@[simp] theorem setUc_grpBase (v : UnitCtr) : (s.setUc k v).grpBase = s.grpBase := rfl
@[simp] theorem setUc_colls (v : UnitCtr) : (s.setUc k v).colls = s.colls := rfl
@[simp] theorem setUc_early (v : UnitCtr) : (s.setUc k v).early = s.early := rfl
@[simp] theorem setUc_opTag (v : UnitCtr) : (s.setUc k v).opTag = s.opTag := rfl
@[simp] theorem setUc_td (v : UnitCtr) : (s.setUc k v).td = s.td := rfl
@[simp] theorem setUc_sig (v : UnitCtr) : (s.setUc k v).sig = s.sig := rfl
@[simp] theorem setUc_sec (v : UnitCtr) : (s.setUc k v).sec = s.sec := rfl

/-! ### clRings -/

@[simp] theorem modClRing_eq (f : Ring → Ring) : s.modClRing k f = s.setClRing k (f (s.clRing k)) := rfl
@[simp] theorem setClRing_clRing (v : Ring) : (s.setClRing k v).clRing k = v := by simp [State.setClRing, State.clRing]
theorem setClRing_clRing_ne (v : Ring) (h : j ≠ k) : (s.setClRing k v).clRing j = s.clRing j := by
  simp [State.setClRing, State.clRing, look_put_ne, h]
@[simp] theorem setClRing_eng (v : Ring) : (s.setClRing k v).eng j = s.eng j := rfl
@[simp] theorem setClRing_stream (v : Ring) : (s.setClRing k v).stream j = s.stream j := rfl
@[simp] theorem setClRing_unit (v : Ring) : (s.setClRing k v).unit j = s.unit j := rfl
@[simp] theorem setClRing_chan (v : Ring) : (s.setClRing k v).chan j = s.chan j := rfl
@[simp] theorem setClRing_stack (v : Ring) : (s.setClRing k v).stack j = s.stack j := rfl
@[simp] theorem setClRing_hart (v : Ring) : (s.setClRing k v).hart j = s.hart j := rfl
@[simp] theorem setClRing_host (v : Ring) : (s.setClRing k v).host j = s.host j := rfl
@[simp] theorem setClRing_ep (v : Ring) : (s.setClRing k v).ep j = s.ep j := rfl
@[simp] theorem setClRing_pc (v : Ring) : (s.setClRing k v).pc j = s.pc j := rfl
@[simp] theorem setClRing_port (v : Ring) : (s.setClRing k v).port j = s.port j := rfl
@[simp] theorem setClRing_path (v : Ring) : (s.setClRing k v).path j = s.path j := rfl
@[simp] theorem setClRing_link (v : Ring) : (s.setClRing k v).link j = s.link j := rfl
@[simp] theorem setClRing_hlink (v : Ring) : (s.setClRing k v).hlink j = s.hlink j := rfl
@[simp] theorem setClRing_spire (v : Ring) : (s.setClRing k v).spire j = s.spire j := rfl
@[simp] theorem setClRing_ident (v : Ring) : (s.setClRing k v).ident j = s.ident j := rfl
@[simp] theorem setClRing_fwOf (v : Ring) : (s.setClRing k v).fwOf j = s.fwOf j := rfl
@[simp] theorem setClRing_uc (v : Ring) : (s.setClRing k v).uc j = s.uc j := rfl
@[simp] theorem setClRing_roRing (v : Ring) : (s.setClRing k v).roRing j = s.roRing j := rfl
@[simp] theorem setClRing_crRing (v : Ring) : (s.setClRing k v).crRing j = s.crRing j := rfl
@[simp] theorem setClRing_kernel (v : Ring) : (s.setClRing k v).kernel j = s.kernel j := rfl
@[simp] theorem setClRing_tt (v : Ring) : (s.setClRing k v).tt j = s.tt j := rfl
@[simp] theorem setClRing_book (v : Ring) : (s.setClRing k v).book j = s.book j := rfl
@[simp] theorem setClRing_siding (v : Ring) : (s.setClRing k v).siding j = s.siding j := rfl
@[simp] theorem setClRing_tile (v : Ring) : (s.setClRing k v).tile j = s.tile j := rfl
@[simp] theorem setClRing_pending (v : Ring) : (s.setClRing k v).pending = s.pending := rfl
@[simp] theorem setClRing_nonce (v : Ring) : (s.setClRing k v).nonce = s.nonce := rfl
@[simp] theorem setClRing_pkg (v : Ring) : (s.setClRing k v).pkg = s.pkg := rfl
@[simp] theorem setClRing_flits (v : Ring) : (s.setClRing k v).flits = s.flits := rfl
@[simp] theorem setClRing_flitKey (v : Ring) : (s.setClRing k v).flitKey = s.flitKey := rfl
@[simp] theorem setClRing_outer (v : Ring) : (s.setClRing k v).outer = s.outer := rfl
@[simp] theorem setClRing_kAddr (v : Ring) : (s.setClRing k v).kAddr = s.kAddr := rfl
@[simp] theorem setClRing_kResult (v : Ring) : (s.setClRing k v).kResult = s.kResult := rfl
@[simp] theorem setClRing_kBad (v : Ring) : (s.setClRing k v).kBad = s.kBad := rfl
@[simp] theorem setClRing_kCmds (v : Ring) : (s.setClRing k v).kCmds = s.kCmds := rfl
@[simp] theorem setClRing_launches (v : Ring) : (s.setClRing k v).launches = s.launches := rfl
@[simp] theorem setClRing_nextKey (v : Ring) : (s.setClRing k v).nextKey = s.nextKey := rfl
@[simp] theorem setClRing_faultNo (v : Ring) : (s.setClRing k v).faultNo = s.faultNo := rfl
@[simp] theorem setClRing_atomics (v : Ring) : (s.setClRing k v).atomics = s.atomics := rfl
@[simp] theorem setClRing_expects (v : Ring) : (s.setClRing k v).expects = s.expects := rfl
@[simp] theorem setClRing_mem (v : Ring) : (s.setClRing k v).mem = s.mem := rfl
@[simp] theorem setClRing_poison (v : Ring) : (s.setClRing k v).poison = s.poison := rfl
@[simp] theorem setClRing_stale (v : Ring) : (s.setClRing k v).stale = s.stale := rfl
@[simp] theorem setClRing_useClock (v : Ring) : (s.setClRing k v).useClock = s.useClock := rfl
@[simp] theorem setClRing_migs (v : Ring) : (s.setClRing k v).migs = s.migs := rfl
@[simp] theorem setClRing_recovering (v : Ring) : (s.setClRing k v).recovering = s.recovering := rfl
@[simp] theorem setClRing_astBase (v : Ring) : (s.setClRing k v).astBase = s.astBase := rfl
@[simp] theorem setClRing_astCache (v : Ring) : (s.setClRing k v).astCache = s.astCache := rfl
@[simp] theorem setClRing_tlb (v : Ring) : (s.setClRing k v).tlb = s.tlb := rfl
@[simp] theorem setClRing_pairs (v : Ring) : (s.setClRing k v).pairs = s.pairs := rfl
@[simp] theorem setClRing_mlId (v : Ring) : (s.setClRing k v).mlId = s.mlId := rfl
@[simp] theorem setClRing_winBase (v : Ring) : (s.setClRing k v).winBase = s.winBase := rfl
@[simp] theorem setClRing_winCache (v : Ring) : (s.setClRing k v).winCache = s.winCache := rfl
@[simp] theorem setClRing_winInv (v : Ring) : (s.setClRing k v).winInv = s.winInv := rfl
@[simp] theorem setClRing_sent (v : Ring) : (s.setClRing k v).sent = s.sent := rfl
@[simp] theorem setClRing_remOps (v : Ring) : (s.setClRing k v).remOps = s.remOps := rfl
@[simp] theorem setClRing_grpBase (v : Ring) : (s.setClRing k v).grpBase = s.grpBase := rfl
@[simp] theorem setClRing_colls (v : Ring) : (s.setClRing k v).colls = s.colls := rfl
@[simp] theorem setClRing_early (v : Ring) : (s.setClRing k v).early = s.early := rfl
@[simp] theorem setClRing_opTag (v : Ring) : (s.setClRing k v).opTag = s.opTag := rfl
@[simp] theorem setClRing_td (v : Ring) : (s.setClRing k v).td = s.td := rfl
@[simp] theorem setClRing_sig (v : Ring) : (s.setClRing k v).sig = s.sig := rfl
@[simp] theorem setClRing_sec (v : Ring) : (s.setClRing k v).sec = s.sec := rfl

/-! ### roRings -/

@[simp] theorem modRoRing_eq (f : Ring → Ring) : s.modRoRing k f = s.setRoRing k (f (s.roRing k)) := rfl
@[simp] theorem setRoRing_roRing (v : Ring) : (s.setRoRing k v).roRing k = v := by simp [State.setRoRing, State.roRing]
theorem setRoRing_roRing_ne (v : Ring) (h : j ≠ k) : (s.setRoRing k v).roRing j = s.roRing j := by
  simp [State.setRoRing, State.roRing, look_put_ne, h]
@[simp] theorem setRoRing_eng (v : Ring) : (s.setRoRing k v).eng j = s.eng j := rfl
@[simp] theorem setRoRing_stream (v : Ring) : (s.setRoRing k v).stream j = s.stream j := rfl
@[simp] theorem setRoRing_unit (v : Ring) : (s.setRoRing k v).unit j = s.unit j := rfl
@[simp] theorem setRoRing_chan (v : Ring) : (s.setRoRing k v).chan j = s.chan j := rfl
@[simp] theorem setRoRing_stack (v : Ring) : (s.setRoRing k v).stack j = s.stack j := rfl
@[simp] theorem setRoRing_hart (v : Ring) : (s.setRoRing k v).hart j = s.hart j := rfl
@[simp] theorem setRoRing_host (v : Ring) : (s.setRoRing k v).host j = s.host j := rfl
@[simp] theorem setRoRing_ep (v : Ring) : (s.setRoRing k v).ep j = s.ep j := rfl
@[simp] theorem setRoRing_pc (v : Ring) : (s.setRoRing k v).pc j = s.pc j := rfl
@[simp] theorem setRoRing_port (v : Ring) : (s.setRoRing k v).port j = s.port j := rfl
@[simp] theorem setRoRing_path (v : Ring) : (s.setRoRing k v).path j = s.path j := rfl
@[simp] theorem setRoRing_link (v : Ring) : (s.setRoRing k v).link j = s.link j := rfl
@[simp] theorem setRoRing_hlink (v : Ring) : (s.setRoRing k v).hlink j = s.hlink j := rfl
@[simp] theorem setRoRing_spire (v : Ring) : (s.setRoRing k v).spire j = s.spire j := rfl
@[simp] theorem setRoRing_ident (v : Ring) : (s.setRoRing k v).ident j = s.ident j := rfl
@[simp] theorem setRoRing_fwOf (v : Ring) : (s.setRoRing k v).fwOf j = s.fwOf j := rfl
@[simp] theorem setRoRing_uc (v : Ring) : (s.setRoRing k v).uc j = s.uc j := rfl
@[simp] theorem setRoRing_clRing (v : Ring) : (s.setRoRing k v).clRing j = s.clRing j := rfl
@[simp] theorem setRoRing_crRing (v : Ring) : (s.setRoRing k v).crRing j = s.crRing j := rfl
@[simp] theorem setRoRing_kernel (v : Ring) : (s.setRoRing k v).kernel j = s.kernel j := rfl
@[simp] theorem setRoRing_tt (v : Ring) : (s.setRoRing k v).tt j = s.tt j := rfl
@[simp] theorem setRoRing_book (v : Ring) : (s.setRoRing k v).book j = s.book j := rfl
@[simp] theorem setRoRing_siding (v : Ring) : (s.setRoRing k v).siding j = s.siding j := rfl
@[simp] theorem setRoRing_tile (v : Ring) : (s.setRoRing k v).tile j = s.tile j := rfl
@[simp] theorem setRoRing_pending (v : Ring) : (s.setRoRing k v).pending = s.pending := rfl
@[simp] theorem setRoRing_nonce (v : Ring) : (s.setRoRing k v).nonce = s.nonce := rfl
@[simp] theorem setRoRing_pkg (v : Ring) : (s.setRoRing k v).pkg = s.pkg := rfl
@[simp] theorem setRoRing_flits (v : Ring) : (s.setRoRing k v).flits = s.flits := rfl
@[simp] theorem setRoRing_flitKey (v : Ring) : (s.setRoRing k v).flitKey = s.flitKey := rfl
@[simp] theorem setRoRing_outer (v : Ring) : (s.setRoRing k v).outer = s.outer := rfl
@[simp] theorem setRoRing_kAddr (v : Ring) : (s.setRoRing k v).kAddr = s.kAddr := rfl
@[simp] theorem setRoRing_kResult (v : Ring) : (s.setRoRing k v).kResult = s.kResult := rfl
@[simp] theorem setRoRing_kBad (v : Ring) : (s.setRoRing k v).kBad = s.kBad := rfl
@[simp] theorem setRoRing_kCmds (v : Ring) : (s.setRoRing k v).kCmds = s.kCmds := rfl
@[simp] theorem setRoRing_launches (v : Ring) : (s.setRoRing k v).launches = s.launches := rfl
@[simp] theorem setRoRing_nextKey (v : Ring) : (s.setRoRing k v).nextKey = s.nextKey := rfl
@[simp] theorem setRoRing_faultNo (v : Ring) : (s.setRoRing k v).faultNo = s.faultNo := rfl
@[simp] theorem setRoRing_atomics (v : Ring) : (s.setRoRing k v).atomics = s.atomics := rfl
@[simp] theorem setRoRing_expects (v : Ring) : (s.setRoRing k v).expects = s.expects := rfl
@[simp] theorem setRoRing_mem (v : Ring) : (s.setRoRing k v).mem = s.mem := rfl
@[simp] theorem setRoRing_poison (v : Ring) : (s.setRoRing k v).poison = s.poison := rfl
@[simp] theorem setRoRing_stale (v : Ring) : (s.setRoRing k v).stale = s.stale := rfl
@[simp] theorem setRoRing_useClock (v : Ring) : (s.setRoRing k v).useClock = s.useClock := rfl
@[simp] theorem setRoRing_migs (v : Ring) : (s.setRoRing k v).migs = s.migs := rfl
@[simp] theorem setRoRing_recovering (v : Ring) : (s.setRoRing k v).recovering = s.recovering := rfl
@[simp] theorem setRoRing_astBase (v : Ring) : (s.setRoRing k v).astBase = s.astBase := rfl
@[simp] theorem setRoRing_astCache (v : Ring) : (s.setRoRing k v).astCache = s.astCache := rfl
@[simp] theorem setRoRing_tlb (v : Ring) : (s.setRoRing k v).tlb = s.tlb := rfl
@[simp] theorem setRoRing_pairs (v : Ring) : (s.setRoRing k v).pairs = s.pairs := rfl
@[simp] theorem setRoRing_mlId (v : Ring) : (s.setRoRing k v).mlId = s.mlId := rfl
@[simp] theorem setRoRing_winBase (v : Ring) : (s.setRoRing k v).winBase = s.winBase := rfl
@[simp] theorem setRoRing_winCache (v : Ring) : (s.setRoRing k v).winCache = s.winCache := rfl
@[simp] theorem setRoRing_winInv (v : Ring) : (s.setRoRing k v).winInv = s.winInv := rfl
@[simp] theorem setRoRing_sent (v : Ring) : (s.setRoRing k v).sent = s.sent := rfl
@[simp] theorem setRoRing_remOps (v : Ring) : (s.setRoRing k v).remOps = s.remOps := rfl
@[simp] theorem setRoRing_grpBase (v : Ring) : (s.setRoRing k v).grpBase = s.grpBase := rfl
@[simp] theorem setRoRing_colls (v : Ring) : (s.setRoRing k v).colls = s.colls := rfl
@[simp] theorem setRoRing_early (v : Ring) : (s.setRoRing k v).early = s.early := rfl
@[simp] theorem setRoRing_opTag (v : Ring) : (s.setRoRing k v).opTag = s.opTag := rfl
@[simp] theorem setRoRing_td (v : Ring) : (s.setRoRing k v).td = s.td := rfl
@[simp] theorem setRoRing_sig (v : Ring) : (s.setRoRing k v).sig = s.sig := rfl
@[simp] theorem setRoRing_sec (v : Ring) : (s.setRoRing k v).sec = s.sec := rfl

/-! ### crRings -/

@[simp] theorem modCrRing_eq (f : Ring → Ring) : s.modCrRing k f = s.setCrRing k (f (s.crRing k)) := rfl
@[simp] theorem setCrRing_crRing (v : Ring) : (s.setCrRing k v).crRing k = v := by simp [State.setCrRing, State.crRing]
theorem setCrRing_crRing_ne (v : Ring) (h : j ≠ k) : (s.setCrRing k v).crRing j = s.crRing j := by
  simp [State.setCrRing, State.crRing, look_put_ne, h]
@[simp] theorem setCrRing_eng (v : Ring) : (s.setCrRing k v).eng j = s.eng j := rfl
@[simp] theorem setCrRing_stream (v : Ring) : (s.setCrRing k v).stream j = s.stream j := rfl
@[simp] theorem setCrRing_unit (v : Ring) : (s.setCrRing k v).unit j = s.unit j := rfl
@[simp] theorem setCrRing_chan (v : Ring) : (s.setCrRing k v).chan j = s.chan j := rfl
@[simp] theorem setCrRing_stack (v : Ring) : (s.setCrRing k v).stack j = s.stack j := rfl
@[simp] theorem setCrRing_hart (v : Ring) : (s.setCrRing k v).hart j = s.hart j := rfl
@[simp] theorem setCrRing_host (v : Ring) : (s.setCrRing k v).host j = s.host j := rfl
@[simp] theorem setCrRing_ep (v : Ring) : (s.setCrRing k v).ep j = s.ep j := rfl
@[simp] theorem setCrRing_pc (v : Ring) : (s.setCrRing k v).pc j = s.pc j := rfl
@[simp] theorem setCrRing_port (v : Ring) : (s.setCrRing k v).port j = s.port j := rfl
@[simp] theorem setCrRing_path (v : Ring) : (s.setCrRing k v).path j = s.path j := rfl
@[simp] theorem setCrRing_link (v : Ring) : (s.setCrRing k v).link j = s.link j := rfl
@[simp] theorem setCrRing_hlink (v : Ring) : (s.setCrRing k v).hlink j = s.hlink j := rfl
@[simp] theorem setCrRing_spire (v : Ring) : (s.setCrRing k v).spire j = s.spire j := rfl
@[simp] theorem setCrRing_ident (v : Ring) : (s.setCrRing k v).ident j = s.ident j := rfl
@[simp] theorem setCrRing_fwOf (v : Ring) : (s.setCrRing k v).fwOf j = s.fwOf j := rfl
@[simp] theorem setCrRing_uc (v : Ring) : (s.setCrRing k v).uc j = s.uc j := rfl
@[simp] theorem setCrRing_clRing (v : Ring) : (s.setCrRing k v).clRing j = s.clRing j := rfl
@[simp] theorem setCrRing_roRing (v : Ring) : (s.setCrRing k v).roRing j = s.roRing j := rfl
@[simp] theorem setCrRing_kernel (v : Ring) : (s.setCrRing k v).kernel j = s.kernel j := rfl
@[simp] theorem setCrRing_tt (v : Ring) : (s.setCrRing k v).tt j = s.tt j := rfl
@[simp] theorem setCrRing_book (v : Ring) : (s.setCrRing k v).book j = s.book j := rfl
@[simp] theorem setCrRing_siding (v : Ring) : (s.setCrRing k v).siding j = s.siding j := rfl
@[simp] theorem setCrRing_tile (v : Ring) : (s.setCrRing k v).tile j = s.tile j := rfl
@[simp] theorem setCrRing_pending (v : Ring) : (s.setCrRing k v).pending = s.pending := rfl
@[simp] theorem setCrRing_nonce (v : Ring) : (s.setCrRing k v).nonce = s.nonce := rfl
@[simp] theorem setCrRing_pkg (v : Ring) : (s.setCrRing k v).pkg = s.pkg := rfl
@[simp] theorem setCrRing_flits (v : Ring) : (s.setCrRing k v).flits = s.flits := rfl
@[simp] theorem setCrRing_flitKey (v : Ring) : (s.setCrRing k v).flitKey = s.flitKey := rfl
@[simp] theorem setCrRing_outer (v : Ring) : (s.setCrRing k v).outer = s.outer := rfl
@[simp] theorem setCrRing_kAddr (v : Ring) : (s.setCrRing k v).kAddr = s.kAddr := rfl
@[simp] theorem setCrRing_kResult (v : Ring) : (s.setCrRing k v).kResult = s.kResult := rfl
@[simp] theorem setCrRing_kBad (v : Ring) : (s.setCrRing k v).kBad = s.kBad := rfl
@[simp] theorem setCrRing_kCmds (v : Ring) : (s.setCrRing k v).kCmds = s.kCmds := rfl
@[simp] theorem setCrRing_launches (v : Ring) : (s.setCrRing k v).launches = s.launches := rfl
@[simp] theorem setCrRing_nextKey (v : Ring) : (s.setCrRing k v).nextKey = s.nextKey := rfl
@[simp] theorem setCrRing_faultNo (v : Ring) : (s.setCrRing k v).faultNo = s.faultNo := rfl
@[simp] theorem setCrRing_atomics (v : Ring) : (s.setCrRing k v).atomics = s.atomics := rfl
@[simp] theorem setCrRing_expects (v : Ring) : (s.setCrRing k v).expects = s.expects := rfl
@[simp] theorem setCrRing_mem (v : Ring) : (s.setCrRing k v).mem = s.mem := rfl
@[simp] theorem setCrRing_poison (v : Ring) : (s.setCrRing k v).poison = s.poison := rfl
@[simp] theorem setCrRing_stale (v : Ring) : (s.setCrRing k v).stale = s.stale := rfl
@[simp] theorem setCrRing_useClock (v : Ring) : (s.setCrRing k v).useClock = s.useClock := rfl
@[simp] theorem setCrRing_migs (v : Ring) : (s.setCrRing k v).migs = s.migs := rfl
@[simp] theorem setCrRing_recovering (v : Ring) : (s.setCrRing k v).recovering = s.recovering := rfl
@[simp] theorem setCrRing_astBase (v : Ring) : (s.setCrRing k v).astBase = s.astBase := rfl
@[simp] theorem setCrRing_astCache (v : Ring) : (s.setCrRing k v).astCache = s.astCache := rfl
@[simp] theorem setCrRing_tlb (v : Ring) : (s.setCrRing k v).tlb = s.tlb := rfl
@[simp] theorem setCrRing_pairs (v : Ring) : (s.setCrRing k v).pairs = s.pairs := rfl
@[simp] theorem setCrRing_mlId (v : Ring) : (s.setCrRing k v).mlId = s.mlId := rfl
@[simp] theorem setCrRing_winBase (v : Ring) : (s.setCrRing k v).winBase = s.winBase := rfl
@[simp] theorem setCrRing_winCache (v : Ring) : (s.setCrRing k v).winCache = s.winCache := rfl
@[simp] theorem setCrRing_winInv (v : Ring) : (s.setCrRing k v).winInv = s.winInv := rfl
@[simp] theorem setCrRing_sent (v : Ring) : (s.setCrRing k v).sent = s.sent := rfl
@[simp] theorem setCrRing_remOps (v : Ring) : (s.setCrRing k v).remOps = s.remOps := rfl
@[simp] theorem setCrRing_grpBase (v : Ring) : (s.setCrRing k v).grpBase = s.grpBase := rfl
@[simp] theorem setCrRing_colls (v : Ring) : (s.setCrRing k v).colls = s.colls := rfl
@[simp] theorem setCrRing_early (v : Ring) : (s.setCrRing k v).early = s.early := rfl
@[simp] theorem setCrRing_opTag (v : Ring) : (s.setCrRing k v).opTag = s.opTag := rfl
@[simp] theorem setCrRing_td (v : Ring) : (s.setCrRing k v).td = s.td := rfl
@[simp] theorem setCrRing_sig (v : Ring) : (s.setCrRing k v).sig = s.sig := rfl
@[simp] theorem setCrRing_sec (v : Ring) : (s.setCrRing k v).sec = s.sec := rfl

/-! ### kernels -/

@[simp] theorem modKernel_eq (f : Kernel → Kernel) : s.modKernel k f = s.setKernel k (f (s.kernel k)) := rfl
@[simp] theorem setKernel_kernel (v : Kernel) : (s.setKernel k v).kernel k = v := by simp [State.setKernel, State.kernel]
theorem setKernel_kernel_ne (v : Kernel) (h : j ≠ k) : (s.setKernel k v).kernel j = s.kernel j := by
  simp [State.setKernel, State.kernel, look_put_ne, h]
@[simp] theorem setKernel_eng (v : Kernel) : (s.setKernel k v).eng j = s.eng j := rfl
@[simp] theorem setKernel_stream (v : Kernel) : (s.setKernel k v).stream j = s.stream j := rfl
@[simp] theorem setKernel_unit (v : Kernel) : (s.setKernel k v).unit j = s.unit j := rfl
@[simp] theorem setKernel_chan (v : Kernel) : (s.setKernel k v).chan j = s.chan j := rfl
@[simp] theorem setKernel_stack (v : Kernel) : (s.setKernel k v).stack j = s.stack j := rfl
@[simp] theorem setKernel_hart (v : Kernel) : (s.setKernel k v).hart j = s.hart j := rfl
@[simp] theorem setKernel_host (v : Kernel) : (s.setKernel k v).host j = s.host j := rfl
@[simp] theorem setKernel_ep (v : Kernel) : (s.setKernel k v).ep j = s.ep j := rfl
@[simp] theorem setKernel_pc (v : Kernel) : (s.setKernel k v).pc j = s.pc j := rfl
@[simp] theorem setKernel_port (v : Kernel) : (s.setKernel k v).port j = s.port j := rfl
@[simp] theorem setKernel_path (v : Kernel) : (s.setKernel k v).path j = s.path j := rfl
@[simp] theorem setKernel_link (v : Kernel) : (s.setKernel k v).link j = s.link j := rfl
@[simp] theorem setKernel_hlink (v : Kernel) : (s.setKernel k v).hlink j = s.hlink j := rfl
@[simp] theorem setKernel_spire (v : Kernel) : (s.setKernel k v).spire j = s.spire j := rfl
@[simp] theorem setKernel_ident (v : Kernel) : (s.setKernel k v).ident j = s.ident j := rfl
@[simp] theorem setKernel_fwOf (v : Kernel) : (s.setKernel k v).fwOf j = s.fwOf j := rfl
@[simp] theorem setKernel_uc (v : Kernel) : (s.setKernel k v).uc j = s.uc j := rfl
@[simp] theorem setKernel_clRing (v : Kernel) : (s.setKernel k v).clRing j = s.clRing j := rfl
@[simp] theorem setKernel_roRing (v : Kernel) : (s.setKernel k v).roRing j = s.roRing j := rfl
@[simp] theorem setKernel_crRing (v : Kernel) : (s.setKernel k v).crRing j = s.crRing j := rfl
@[simp] theorem setKernel_tt (v : Kernel) : (s.setKernel k v).tt j = s.tt j := rfl
@[simp] theorem setKernel_book (v : Kernel) : (s.setKernel k v).book j = s.book j := rfl
@[simp] theorem setKernel_siding (v : Kernel) : (s.setKernel k v).siding j = s.siding j := rfl
@[simp] theorem setKernel_tile (v : Kernel) : (s.setKernel k v).tile j = s.tile j := rfl
@[simp] theorem setKernel_pending (v : Kernel) : (s.setKernel k v).pending = s.pending := rfl
@[simp] theorem setKernel_nonce (v : Kernel) : (s.setKernel k v).nonce = s.nonce := rfl
@[simp] theorem setKernel_pkg (v : Kernel) : (s.setKernel k v).pkg = s.pkg := rfl
@[simp] theorem setKernel_flits (v : Kernel) : (s.setKernel k v).flits = s.flits := rfl
@[simp] theorem setKernel_flitKey (v : Kernel) : (s.setKernel k v).flitKey = s.flitKey := rfl
@[simp] theorem setKernel_outer (v : Kernel) : (s.setKernel k v).outer = s.outer := rfl
@[simp] theorem setKernel_kAddr (v : Kernel) : (s.setKernel k v).kAddr = s.kAddr := rfl
@[simp] theorem setKernel_kResult (v : Kernel) : (s.setKernel k v).kResult = s.kResult := rfl
@[simp] theorem setKernel_kBad (v : Kernel) : (s.setKernel k v).kBad = s.kBad := rfl
@[simp] theorem setKernel_kCmds (v : Kernel) : (s.setKernel k v).kCmds = s.kCmds := rfl
@[simp] theorem setKernel_launches (v : Kernel) : (s.setKernel k v).launches = s.launches := rfl
@[simp] theorem setKernel_nextKey (v : Kernel) : (s.setKernel k v).nextKey = s.nextKey := rfl
@[simp] theorem setKernel_faultNo (v : Kernel) : (s.setKernel k v).faultNo = s.faultNo := rfl
@[simp] theorem setKernel_atomics (v : Kernel) : (s.setKernel k v).atomics = s.atomics := rfl
@[simp] theorem setKernel_expects (v : Kernel) : (s.setKernel k v).expects = s.expects := rfl
@[simp] theorem setKernel_mem (v : Kernel) : (s.setKernel k v).mem = s.mem := rfl
@[simp] theorem setKernel_poison (v : Kernel) : (s.setKernel k v).poison = s.poison := rfl
@[simp] theorem setKernel_stale (v : Kernel) : (s.setKernel k v).stale = s.stale := rfl
@[simp] theorem setKernel_useClock (v : Kernel) : (s.setKernel k v).useClock = s.useClock := rfl
@[simp] theorem setKernel_migs (v : Kernel) : (s.setKernel k v).migs = s.migs := rfl
@[simp] theorem setKernel_recovering (v : Kernel) : (s.setKernel k v).recovering = s.recovering := rfl
@[simp] theorem setKernel_astBase (v : Kernel) : (s.setKernel k v).astBase = s.astBase := rfl
@[simp] theorem setKernel_astCache (v : Kernel) : (s.setKernel k v).astCache = s.astCache := rfl
@[simp] theorem setKernel_tlb (v : Kernel) : (s.setKernel k v).tlb = s.tlb := rfl
@[simp] theorem setKernel_pairs (v : Kernel) : (s.setKernel k v).pairs = s.pairs := rfl
@[simp] theorem setKernel_mlId (v : Kernel) : (s.setKernel k v).mlId = s.mlId := rfl
@[simp] theorem setKernel_winBase (v : Kernel) : (s.setKernel k v).winBase = s.winBase := rfl
@[simp] theorem setKernel_winCache (v : Kernel) : (s.setKernel k v).winCache = s.winCache := rfl
@[simp] theorem setKernel_winInv (v : Kernel) : (s.setKernel k v).winInv = s.winInv := rfl
@[simp] theorem setKernel_sent (v : Kernel) : (s.setKernel k v).sent = s.sent := rfl
@[simp] theorem setKernel_remOps (v : Kernel) : (s.setKernel k v).remOps = s.remOps := rfl
@[simp] theorem setKernel_grpBase (v : Kernel) : (s.setKernel k v).grpBase = s.grpBase := rfl
@[simp] theorem setKernel_colls (v : Kernel) : (s.setKernel k v).colls = s.colls := rfl
@[simp] theorem setKernel_early (v : Kernel) : (s.setKernel k v).early = s.early := rfl
@[simp] theorem setKernel_opTag (v : Kernel) : (s.setKernel k v).opTag = s.opTag := rfl
@[simp] theorem setKernel_td (v : Kernel) : (s.setKernel k v).td = s.td := rfl
@[simp] theorem setKernel_sig (v : Kernel) : (s.setKernel k v).sig = s.sig := rfl
@[simp] theorem setKernel_sec (v : Kernel) : (s.setKernel k v).sec = s.sec := rfl

/-! ### tts -/

@[simp] theorem modTt_eq (f : Turntable → Turntable) : s.modTt k f = s.setTt k (f (s.tt k)) := rfl
@[simp] theorem setTt_tt (v : Turntable) : (s.setTt k v).tt k = v := by simp [State.setTt, State.tt]
theorem setTt_tt_ne (v : Turntable) (h : j ≠ k) : (s.setTt k v).tt j = s.tt j := by
  simp [State.setTt, State.tt, look_put_ne, h]
@[simp] theorem setTt_eng (v : Turntable) : (s.setTt k v).eng j = s.eng j := rfl
@[simp] theorem setTt_stream (v : Turntable) : (s.setTt k v).stream j = s.stream j := rfl
@[simp] theorem setTt_unit (v : Turntable) : (s.setTt k v).unit j = s.unit j := rfl
@[simp] theorem setTt_chan (v : Turntable) : (s.setTt k v).chan j = s.chan j := rfl
@[simp] theorem setTt_stack (v : Turntable) : (s.setTt k v).stack j = s.stack j := rfl
@[simp] theorem setTt_hart (v : Turntable) : (s.setTt k v).hart j = s.hart j := rfl
@[simp] theorem setTt_host (v : Turntable) : (s.setTt k v).host j = s.host j := rfl
@[simp] theorem setTt_ep (v : Turntable) : (s.setTt k v).ep j = s.ep j := rfl
@[simp] theorem setTt_pc (v : Turntable) : (s.setTt k v).pc j = s.pc j := rfl
@[simp] theorem setTt_port (v : Turntable) : (s.setTt k v).port j = s.port j := rfl
@[simp] theorem setTt_path (v : Turntable) : (s.setTt k v).path j = s.path j := rfl
@[simp] theorem setTt_link (v : Turntable) : (s.setTt k v).link j = s.link j := rfl
@[simp] theorem setTt_hlink (v : Turntable) : (s.setTt k v).hlink j = s.hlink j := rfl
@[simp] theorem setTt_spire (v : Turntable) : (s.setTt k v).spire j = s.spire j := rfl
@[simp] theorem setTt_ident (v : Turntable) : (s.setTt k v).ident j = s.ident j := rfl
@[simp] theorem setTt_fwOf (v : Turntable) : (s.setTt k v).fwOf j = s.fwOf j := rfl
@[simp] theorem setTt_uc (v : Turntable) : (s.setTt k v).uc j = s.uc j := rfl
@[simp] theorem setTt_clRing (v : Turntable) : (s.setTt k v).clRing j = s.clRing j := rfl
@[simp] theorem setTt_roRing (v : Turntable) : (s.setTt k v).roRing j = s.roRing j := rfl
@[simp] theorem setTt_crRing (v : Turntable) : (s.setTt k v).crRing j = s.crRing j := rfl
@[simp] theorem setTt_kernel (v : Turntable) : (s.setTt k v).kernel j = s.kernel j := rfl
@[simp] theorem setTt_book (v : Turntable) : (s.setTt k v).book j = s.book j := rfl
@[simp] theorem setTt_siding (v : Turntable) : (s.setTt k v).siding j = s.siding j := rfl
@[simp] theorem setTt_tile (v : Turntable) : (s.setTt k v).tile j = s.tile j := rfl
@[simp] theorem setTt_pending (v : Turntable) : (s.setTt k v).pending = s.pending := rfl
@[simp] theorem setTt_nonce (v : Turntable) : (s.setTt k v).nonce = s.nonce := rfl
@[simp] theorem setTt_pkg (v : Turntable) : (s.setTt k v).pkg = s.pkg := rfl
@[simp] theorem setTt_flits (v : Turntable) : (s.setTt k v).flits = s.flits := rfl
@[simp] theorem setTt_flitKey (v : Turntable) : (s.setTt k v).flitKey = s.flitKey := rfl
@[simp] theorem setTt_outer (v : Turntable) : (s.setTt k v).outer = s.outer := rfl
@[simp] theorem setTt_kAddr (v : Turntable) : (s.setTt k v).kAddr = s.kAddr := rfl
@[simp] theorem setTt_kResult (v : Turntable) : (s.setTt k v).kResult = s.kResult := rfl
@[simp] theorem setTt_kBad (v : Turntable) : (s.setTt k v).kBad = s.kBad := rfl
@[simp] theorem setTt_kCmds (v : Turntable) : (s.setTt k v).kCmds = s.kCmds := rfl
@[simp] theorem setTt_launches (v : Turntable) : (s.setTt k v).launches = s.launches := rfl
@[simp] theorem setTt_nextKey (v : Turntable) : (s.setTt k v).nextKey = s.nextKey := rfl
@[simp] theorem setTt_faultNo (v : Turntable) : (s.setTt k v).faultNo = s.faultNo := rfl
@[simp] theorem setTt_atomics (v : Turntable) : (s.setTt k v).atomics = s.atomics := rfl
@[simp] theorem setTt_expects (v : Turntable) : (s.setTt k v).expects = s.expects := rfl
@[simp] theorem setTt_mem (v : Turntable) : (s.setTt k v).mem = s.mem := rfl
@[simp] theorem setTt_poison (v : Turntable) : (s.setTt k v).poison = s.poison := rfl
@[simp] theorem setTt_stale (v : Turntable) : (s.setTt k v).stale = s.stale := rfl
@[simp] theorem setTt_useClock (v : Turntable) : (s.setTt k v).useClock = s.useClock := rfl
@[simp] theorem setTt_migs (v : Turntable) : (s.setTt k v).migs = s.migs := rfl
@[simp] theorem setTt_recovering (v : Turntable) : (s.setTt k v).recovering = s.recovering := rfl
@[simp] theorem setTt_astBase (v : Turntable) : (s.setTt k v).astBase = s.astBase := rfl
@[simp] theorem setTt_astCache (v : Turntable) : (s.setTt k v).astCache = s.astCache := rfl
@[simp] theorem setTt_tlb (v : Turntable) : (s.setTt k v).tlb = s.tlb := rfl
@[simp] theorem setTt_pairs (v : Turntable) : (s.setTt k v).pairs = s.pairs := rfl
@[simp] theorem setTt_mlId (v : Turntable) : (s.setTt k v).mlId = s.mlId := rfl
@[simp] theorem setTt_winBase (v : Turntable) : (s.setTt k v).winBase = s.winBase := rfl
@[simp] theorem setTt_winCache (v : Turntable) : (s.setTt k v).winCache = s.winCache := rfl
@[simp] theorem setTt_winInv (v : Turntable) : (s.setTt k v).winInv = s.winInv := rfl
@[simp] theorem setTt_sent (v : Turntable) : (s.setTt k v).sent = s.sent := rfl
@[simp] theorem setTt_remOps (v : Turntable) : (s.setTt k v).remOps = s.remOps := rfl
@[simp] theorem setTt_grpBase (v : Turntable) : (s.setTt k v).grpBase = s.grpBase := rfl
@[simp] theorem setTt_colls (v : Turntable) : (s.setTt k v).colls = s.colls := rfl
@[simp] theorem setTt_early (v : Turntable) : (s.setTt k v).early = s.early := rfl
@[simp] theorem setTt_opTag (v : Turntable) : (s.setTt k v).opTag = s.opTag := rfl
@[simp] theorem setTt_td (v : Turntable) : (s.setTt k v).td = s.td := rfl
@[simp] theorem setTt_sig (v : Turntable) : (s.setTt k v).sig = s.sig := rfl
@[simp] theorem setTt_sec (v : Turntable) : (s.setTt k v).sec = s.sec := rfl

/-! ### books -/

@[simp] theorem modBook_eq (f : Booking → Booking) : s.modBook k f = s.setBook k (f (s.book k)) := rfl
@[simp] theorem setBook_book (v : Booking) : (s.setBook k v).book k = v := by simp [State.setBook, State.book]
theorem setBook_book_ne (v : Booking) (h : j ≠ k) : (s.setBook k v).book j = s.book j := by
  simp [State.setBook, State.book, look_put_ne, h]
@[simp] theorem setBook_eng (v : Booking) : (s.setBook k v).eng j = s.eng j := rfl
@[simp] theorem setBook_stream (v : Booking) : (s.setBook k v).stream j = s.stream j := rfl
@[simp] theorem setBook_unit (v : Booking) : (s.setBook k v).unit j = s.unit j := rfl
@[simp] theorem setBook_chan (v : Booking) : (s.setBook k v).chan j = s.chan j := rfl
@[simp] theorem setBook_stack (v : Booking) : (s.setBook k v).stack j = s.stack j := rfl
@[simp] theorem setBook_hart (v : Booking) : (s.setBook k v).hart j = s.hart j := rfl
@[simp] theorem setBook_host (v : Booking) : (s.setBook k v).host j = s.host j := rfl
@[simp] theorem setBook_ep (v : Booking) : (s.setBook k v).ep j = s.ep j := rfl
@[simp] theorem setBook_pc (v : Booking) : (s.setBook k v).pc j = s.pc j := rfl
@[simp] theorem setBook_port (v : Booking) : (s.setBook k v).port j = s.port j := rfl
@[simp] theorem setBook_path (v : Booking) : (s.setBook k v).path j = s.path j := rfl
@[simp] theorem setBook_link (v : Booking) : (s.setBook k v).link j = s.link j := rfl
@[simp] theorem setBook_hlink (v : Booking) : (s.setBook k v).hlink j = s.hlink j := rfl
@[simp] theorem setBook_spire (v : Booking) : (s.setBook k v).spire j = s.spire j := rfl
@[simp] theorem setBook_ident (v : Booking) : (s.setBook k v).ident j = s.ident j := rfl
@[simp] theorem setBook_fwOf (v : Booking) : (s.setBook k v).fwOf j = s.fwOf j := rfl
@[simp] theorem setBook_uc (v : Booking) : (s.setBook k v).uc j = s.uc j := rfl
@[simp] theorem setBook_clRing (v : Booking) : (s.setBook k v).clRing j = s.clRing j := rfl
@[simp] theorem setBook_roRing (v : Booking) : (s.setBook k v).roRing j = s.roRing j := rfl
@[simp] theorem setBook_crRing (v : Booking) : (s.setBook k v).crRing j = s.crRing j := rfl
@[simp] theorem setBook_kernel (v : Booking) : (s.setBook k v).kernel j = s.kernel j := rfl
@[simp] theorem setBook_tt (v : Booking) : (s.setBook k v).tt j = s.tt j := rfl
@[simp] theorem setBook_siding (v : Booking) : (s.setBook k v).siding j = s.siding j := rfl
@[simp] theorem setBook_tile (v : Booking) : (s.setBook k v).tile j = s.tile j := rfl
@[simp] theorem setBook_pending (v : Booking) : (s.setBook k v).pending = s.pending := rfl
@[simp] theorem setBook_nonce (v : Booking) : (s.setBook k v).nonce = s.nonce := rfl
@[simp] theorem setBook_pkg (v : Booking) : (s.setBook k v).pkg = s.pkg := rfl
@[simp] theorem setBook_flits (v : Booking) : (s.setBook k v).flits = s.flits := rfl
@[simp] theorem setBook_flitKey (v : Booking) : (s.setBook k v).flitKey = s.flitKey := rfl
@[simp] theorem setBook_outer (v : Booking) : (s.setBook k v).outer = s.outer := rfl
@[simp] theorem setBook_kAddr (v : Booking) : (s.setBook k v).kAddr = s.kAddr := rfl
@[simp] theorem setBook_kResult (v : Booking) : (s.setBook k v).kResult = s.kResult := rfl
@[simp] theorem setBook_kBad (v : Booking) : (s.setBook k v).kBad = s.kBad := rfl
@[simp] theorem setBook_kCmds (v : Booking) : (s.setBook k v).kCmds = s.kCmds := rfl
@[simp] theorem setBook_launches (v : Booking) : (s.setBook k v).launches = s.launches := rfl
@[simp] theorem setBook_nextKey (v : Booking) : (s.setBook k v).nextKey = s.nextKey := rfl
@[simp] theorem setBook_faultNo (v : Booking) : (s.setBook k v).faultNo = s.faultNo := rfl
@[simp] theorem setBook_atomics (v : Booking) : (s.setBook k v).atomics = s.atomics := rfl
@[simp] theorem setBook_expects (v : Booking) : (s.setBook k v).expects = s.expects := rfl
@[simp] theorem setBook_mem (v : Booking) : (s.setBook k v).mem = s.mem := rfl
@[simp] theorem setBook_poison (v : Booking) : (s.setBook k v).poison = s.poison := rfl
@[simp] theorem setBook_stale (v : Booking) : (s.setBook k v).stale = s.stale := rfl
@[simp] theorem setBook_useClock (v : Booking) : (s.setBook k v).useClock = s.useClock := rfl
@[simp] theorem setBook_migs (v : Booking) : (s.setBook k v).migs = s.migs := rfl
@[simp] theorem setBook_recovering (v : Booking) : (s.setBook k v).recovering = s.recovering := rfl
@[simp] theorem setBook_astBase (v : Booking) : (s.setBook k v).astBase = s.astBase := rfl
@[simp] theorem setBook_astCache (v : Booking) : (s.setBook k v).astCache = s.astCache := rfl
@[simp] theorem setBook_tlb (v : Booking) : (s.setBook k v).tlb = s.tlb := rfl
@[simp] theorem setBook_pairs (v : Booking) : (s.setBook k v).pairs = s.pairs := rfl
@[simp] theorem setBook_mlId (v : Booking) : (s.setBook k v).mlId = s.mlId := rfl
@[simp] theorem setBook_winBase (v : Booking) : (s.setBook k v).winBase = s.winBase := rfl
@[simp] theorem setBook_winCache (v : Booking) : (s.setBook k v).winCache = s.winCache := rfl
@[simp] theorem setBook_winInv (v : Booking) : (s.setBook k v).winInv = s.winInv := rfl
@[simp] theorem setBook_sent (v : Booking) : (s.setBook k v).sent = s.sent := rfl
@[simp] theorem setBook_remOps (v : Booking) : (s.setBook k v).remOps = s.remOps := rfl
@[simp] theorem setBook_grpBase (v : Booking) : (s.setBook k v).grpBase = s.grpBase := rfl
@[simp] theorem setBook_colls (v : Booking) : (s.setBook k v).colls = s.colls := rfl
@[simp] theorem setBook_early (v : Booking) : (s.setBook k v).early = s.early := rfl
@[simp] theorem setBook_opTag (v : Booking) : (s.setBook k v).opTag = s.opTag := rfl
@[simp] theorem setBook_td (v : Booking) : (s.setBook k v).td = s.td := rfl
@[simp] theorem setBook_sig (v : Booking) : (s.setBook k v).sig = s.sig := rfl
@[simp] theorem setBook_sec (v : Booking) : (s.setBook k v).sec = s.sec := rfl

/-! ### sidings -/

@[simp] theorem modSiding_eq (f : Siding → Siding) : s.modSiding k f = s.setSiding k (f (s.siding k)) := rfl
@[simp] theorem setSiding_siding (v : Siding) : (s.setSiding k v).siding k = v := by simp [State.setSiding, State.siding]
theorem setSiding_siding_ne (v : Siding) (h : j ≠ k) : (s.setSiding k v).siding j = s.siding j := by
  simp [State.setSiding, State.siding, look_put_ne, h]
@[simp] theorem setSiding_eng (v : Siding) : (s.setSiding k v).eng j = s.eng j := rfl
@[simp] theorem setSiding_stream (v : Siding) : (s.setSiding k v).stream j = s.stream j := rfl
@[simp] theorem setSiding_unit (v : Siding) : (s.setSiding k v).unit j = s.unit j := rfl
@[simp] theorem setSiding_chan (v : Siding) : (s.setSiding k v).chan j = s.chan j := rfl
@[simp] theorem setSiding_stack (v : Siding) : (s.setSiding k v).stack j = s.stack j := rfl
@[simp] theorem setSiding_hart (v : Siding) : (s.setSiding k v).hart j = s.hart j := rfl
@[simp] theorem setSiding_host (v : Siding) : (s.setSiding k v).host j = s.host j := rfl
@[simp] theorem setSiding_ep (v : Siding) : (s.setSiding k v).ep j = s.ep j := rfl
@[simp] theorem setSiding_pc (v : Siding) : (s.setSiding k v).pc j = s.pc j := rfl
@[simp] theorem setSiding_port (v : Siding) : (s.setSiding k v).port j = s.port j := rfl
@[simp] theorem setSiding_path (v : Siding) : (s.setSiding k v).path j = s.path j := rfl
@[simp] theorem setSiding_link (v : Siding) : (s.setSiding k v).link j = s.link j := rfl
@[simp] theorem setSiding_hlink (v : Siding) : (s.setSiding k v).hlink j = s.hlink j := rfl
@[simp] theorem setSiding_spire (v : Siding) : (s.setSiding k v).spire j = s.spire j := rfl
@[simp] theorem setSiding_ident (v : Siding) : (s.setSiding k v).ident j = s.ident j := rfl
@[simp] theorem setSiding_fwOf (v : Siding) : (s.setSiding k v).fwOf j = s.fwOf j := rfl
@[simp] theorem setSiding_uc (v : Siding) : (s.setSiding k v).uc j = s.uc j := rfl
@[simp] theorem setSiding_clRing (v : Siding) : (s.setSiding k v).clRing j = s.clRing j := rfl
@[simp] theorem setSiding_roRing (v : Siding) : (s.setSiding k v).roRing j = s.roRing j := rfl
@[simp] theorem setSiding_crRing (v : Siding) : (s.setSiding k v).crRing j = s.crRing j := rfl
@[simp] theorem setSiding_kernel (v : Siding) : (s.setSiding k v).kernel j = s.kernel j := rfl
@[simp] theorem setSiding_tt (v : Siding) : (s.setSiding k v).tt j = s.tt j := rfl
@[simp] theorem setSiding_book (v : Siding) : (s.setSiding k v).book j = s.book j := rfl
@[simp] theorem setSiding_tile (v : Siding) : (s.setSiding k v).tile j = s.tile j := rfl
@[simp] theorem setSiding_pending (v : Siding) : (s.setSiding k v).pending = s.pending := rfl
@[simp] theorem setSiding_nonce (v : Siding) : (s.setSiding k v).nonce = s.nonce := rfl
@[simp] theorem setSiding_pkg (v : Siding) : (s.setSiding k v).pkg = s.pkg := rfl
@[simp] theorem setSiding_flits (v : Siding) : (s.setSiding k v).flits = s.flits := rfl
@[simp] theorem setSiding_flitKey (v : Siding) : (s.setSiding k v).flitKey = s.flitKey := rfl
@[simp] theorem setSiding_outer (v : Siding) : (s.setSiding k v).outer = s.outer := rfl
@[simp] theorem setSiding_kAddr (v : Siding) : (s.setSiding k v).kAddr = s.kAddr := rfl
@[simp] theorem setSiding_kResult (v : Siding) : (s.setSiding k v).kResult = s.kResult := rfl
@[simp] theorem setSiding_kBad (v : Siding) : (s.setSiding k v).kBad = s.kBad := rfl
@[simp] theorem setSiding_kCmds (v : Siding) : (s.setSiding k v).kCmds = s.kCmds := rfl
@[simp] theorem setSiding_launches (v : Siding) : (s.setSiding k v).launches = s.launches := rfl
@[simp] theorem setSiding_nextKey (v : Siding) : (s.setSiding k v).nextKey = s.nextKey := rfl
@[simp] theorem setSiding_faultNo (v : Siding) : (s.setSiding k v).faultNo = s.faultNo := rfl
@[simp] theorem setSiding_atomics (v : Siding) : (s.setSiding k v).atomics = s.atomics := rfl
@[simp] theorem setSiding_expects (v : Siding) : (s.setSiding k v).expects = s.expects := rfl
@[simp] theorem setSiding_mem (v : Siding) : (s.setSiding k v).mem = s.mem := rfl
@[simp] theorem setSiding_poison (v : Siding) : (s.setSiding k v).poison = s.poison := rfl
@[simp] theorem setSiding_stale (v : Siding) : (s.setSiding k v).stale = s.stale := rfl
@[simp] theorem setSiding_useClock (v : Siding) : (s.setSiding k v).useClock = s.useClock := rfl
@[simp] theorem setSiding_migs (v : Siding) : (s.setSiding k v).migs = s.migs := rfl
@[simp] theorem setSiding_recovering (v : Siding) : (s.setSiding k v).recovering = s.recovering := rfl
@[simp] theorem setSiding_astBase (v : Siding) : (s.setSiding k v).astBase = s.astBase := rfl
@[simp] theorem setSiding_astCache (v : Siding) : (s.setSiding k v).astCache = s.astCache := rfl
@[simp] theorem setSiding_tlb (v : Siding) : (s.setSiding k v).tlb = s.tlb := rfl
@[simp] theorem setSiding_pairs (v : Siding) : (s.setSiding k v).pairs = s.pairs := rfl
@[simp] theorem setSiding_mlId (v : Siding) : (s.setSiding k v).mlId = s.mlId := rfl
@[simp] theorem setSiding_winBase (v : Siding) : (s.setSiding k v).winBase = s.winBase := rfl
@[simp] theorem setSiding_winCache (v : Siding) : (s.setSiding k v).winCache = s.winCache := rfl
@[simp] theorem setSiding_winInv (v : Siding) : (s.setSiding k v).winInv = s.winInv := rfl
@[simp] theorem setSiding_sent (v : Siding) : (s.setSiding k v).sent = s.sent := rfl
@[simp] theorem setSiding_remOps (v : Siding) : (s.setSiding k v).remOps = s.remOps := rfl
@[simp] theorem setSiding_grpBase (v : Siding) : (s.setSiding k v).grpBase = s.grpBase := rfl
@[simp] theorem setSiding_colls (v : Siding) : (s.setSiding k v).colls = s.colls := rfl
@[simp] theorem setSiding_early (v : Siding) : (s.setSiding k v).early = s.early := rfl
@[simp] theorem setSiding_opTag (v : Siding) : (s.setSiding k v).opTag = s.opTag := rfl
@[simp] theorem setSiding_td (v : Siding) : (s.setSiding k v).td = s.td := rfl
@[simp] theorem setSiding_sig (v : Siding) : (s.setSiding k v).sig = s.sig := rfl
@[simp] theorem setSiding_sec (v : Siding) : (s.setSiding k v).sec = s.sec := rfl

/-! ### tiles -/

@[simp] theorem modTile_eq (f : Tile → Tile) : s.modTile k f = s.setTile k (f (s.tile k)) := rfl
@[simp] theorem setTile_tile (v : Tile) : (s.setTile k v).tile k = v := by simp [State.setTile, State.tile]
theorem setTile_tile_ne (v : Tile) (h : j ≠ k) : (s.setTile k v).tile j = s.tile j := by
  simp [State.setTile, State.tile, look_put_ne, h]
@[simp] theorem setTile_eng (v : Tile) : (s.setTile k v).eng j = s.eng j := rfl
@[simp] theorem setTile_stream (v : Tile) : (s.setTile k v).stream j = s.stream j := rfl
@[simp] theorem setTile_unit (v : Tile) : (s.setTile k v).unit j = s.unit j := rfl
@[simp] theorem setTile_chan (v : Tile) : (s.setTile k v).chan j = s.chan j := rfl
@[simp] theorem setTile_stack (v : Tile) : (s.setTile k v).stack j = s.stack j := rfl
@[simp] theorem setTile_hart (v : Tile) : (s.setTile k v).hart j = s.hart j := rfl
@[simp] theorem setTile_host (v : Tile) : (s.setTile k v).host j = s.host j := rfl
@[simp] theorem setTile_ep (v : Tile) : (s.setTile k v).ep j = s.ep j := rfl
@[simp] theorem setTile_pc (v : Tile) : (s.setTile k v).pc j = s.pc j := rfl
@[simp] theorem setTile_port (v : Tile) : (s.setTile k v).port j = s.port j := rfl
@[simp] theorem setTile_path (v : Tile) : (s.setTile k v).path j = s.path j := rfl
@[simp] theorem setTile_link (v : Tile) : (s.setTile k v).link j = s.link j := rfl
@[simp] theorem setTile_hlink (v : Tile) : (s.setTile k v).hlink j = s.hlink j := rfl
@[simp] theorem setTile_spire (v : Tile) : (s.setTile k v).spire j = s.spire j := rfl
@[simp] theorem setTile_ident (v : Tile) : (s.setTile k v).ident j = s.ident j := rfl
@[simp] theorem setTile_fwOf (v : Tile) : (s.setTile k v).fwOf j = s.fwOf j := rfl
@[simp] theorem setTile_uc (v : Tile) : (s.setTile k v).uc j = s.uc j := rfl
@[simp] theorem setTile_clRing (v : Tile) : (s.setTile k v).clRing j = s.clRing j := rfl
@[simp] theorem setTile_roRing (v : Tile) : (s.setTile k v).roRing j = s.roRing j := rfl
@[simp] theorem setTile_crRing (v : Tile) : (s.setTile k v).crRing j = s.crRing j := rfl
@[simp] theorem setTile_kernel (v : Tile) : (s.setTile k v).kernel j = s.kernel j := rfl
@[simp] theorem setTile_tt (v : Tile) : (s.setTile k v).tt j = s.tt j := rfl
@[simp] theorem setTile_book (v : Tile) : (s.setTile k v).book j = s.book j := rfl
@[simp] theorem setTile_siding (v : Tile) : (s.setTile k v).siding j = s.siding j := rfl
@[simp] theorem setTile_pending (v : Tile) : (s.setTile k v).pending = s.pending := rfl
@[simp] theorem setTile_nonce (v : Tile) : (s.setTile k v).nonce = s.nonce := rfl
@[simp] theorem setTile_pkg (v : Tile) : (s.setTile k v).pkg = s.pkg := rfl
@[simp] theorem setTile_flits (v : Tile) : (s.setTile k v).flits = s.flits := rfl
@[simp] theorem setTile_flitKey (v : Tile) : (s.setTile k v).flitKey = s.flitKey := rfl
@[simp] theorem setTile_outer (v : Tile) : (s.setTile k v).outer = s.outer := rfl
@[simp] theorem setTile_kAddr (v : Tile) : (s.setTile k v).kAddr = s.kAddr := rfl
@[simp] theorem setTile_kResult (v : Tile) : (s.setTile k v).kResult = s.kResult := rfl
@[simp] theorem setTile_kBad (v : Tile) : (s.setTile k v).kBad = s.kBad := rfl
@[simp] theorem setTile_kCmds (v : Tile) : (s.setTile k v).kCmds = s.kCmds := rfl
@[simp] theorem setTile_launches (v : Tile) : (s.setTile k v).launches = s.launches := rfl
@[simp] theorem setTile_nextKey (v : Tile) : (s.setTile k v).nextKey = s.nextKey := rfl
@[simp] theorem setTile_faultNo (v : Tile) : (s.setTile k v).faultNo = s.faultNo := rfl
@[simp] theorem setTile_atomics (v : Tile) : (s.setTile k v).atomics = s.atomics := rfl
@[simp] theorem setTile_expects (v : Tile) : (s.setTile k v).expects = s.expects := rfl
@[simp] theorem setTile_mem (v : Tile) : (s.setTile k v).mem = s.mem := rfl
@[simp] theorem setTile_poison (v : Tile) : (s.setTile k v).poison = s.poison := rfl
@[simp] theorem setTile_stale (v : Tile) : (s.setTile k v).stale = s.stale := rfl
@[simp] theorem setTile_useClock (v : Tile) : (s.setTile k v).useClock = s.useClock := rfl
@[simp] theorem setTile_migs (v : Tile) : (s.setTile k v).migs = s.migs := rfl
@[simp] theorem setTile_recovering (v : Tile) : (s.setTile k v).recovering = s.recovering := rfl
@[simp] theorem setTile_astBase (v : Tile) : (s.setTile k v).astBase = s.astBase := rfl
@[simp] theorem setTile_astCache (v : Tile) : (s.setTile k v).astCache = s.astCache := rfl
@[simp] theorem setTile_tlb (v : Tile) : (s.setTile k v).tlb = s.tlb := rfl
@[simp] theorem setTile_pairs (v : Tile) : (s.setTile k v).pairs = s.pairs := rfl
@[simp] theorem setTile_mlId (v : Tile) : (s.setTile k v).mlId = s.mlId := rfl
@[simp] theorem setTile_winBase (v : Tile) : (s.setTile k v).winBase = s.winBase := rfl
@[simp] theorem setTile_winCache (v : Tile) : (s.setTile k v).winCache = s.winCache := rfl
@[simp] theorem setTile_winInv (v : Tile) : (s.setTile k v).winInv = s.winInv := rfl
@[simp] theorem setTile_sent (v : Tile) : (s.setTile k v).sent = s.sent := rfl
@[simp] theorem setTile_remOps (v : Tile) : (s.setTile k v).remOps = s.remOps := rfl
@[simp] theorem setTile_grpBase (v : Tile) : (s.setTile k v).grpBase = s.grpBase := rfl
@[simp] theorem setTile_colls (v : Tile) : (s.setTile k v).colls = s.colls := rfl
@[simp] theorem setTile_early (v : Tile) : (s.setTile k v).early = s.early := rfl
@[simp] theorem setTile_opTag (v : Tile) : (s.setTile k v).opTag = s.opTag := rfl
@[simp] theorem setTile_td (v : Tile) : (s.setTile k v).td = s.td := rfl
@[simp] theorem setTile_sig (v : Tile) : (s.setTile k v).sig = s.sig := rfl
@[simp] theorem setTile_sec (v : Tile) : (s.setTile k v).sec = s.sec := rfl

end Sys2Proof.Machine
end

