-- ==== Sys2Proof/Laws/Engine.lean ====
section
/-! SUPPORT. What the bookkeeping of an engine can do: counting slots and events, recording an exception, decoding at
the queues' heads, completing an instruction. -/

namespace Sys2Proof.Machine

theorem Bookkept.refl (e : Nat) (s : State) : Bookkept e s s := ⟨rfl, fun _ => rfl, fun _ _ => rfl, rfl⟩

theorem Bookkept.trans {e : Nat} {a b c : State} (h : Bookkept e a b) (g : Bookkept e b c) : Bookkept e a c := by
  obtain ⟨h1, hi, h2, h3⟩ := h
  obtain ⟨g1, gi, g2, g3⟩ := g
  refine ⟨?_, fun i => (gi i).trans (hi i), fun k hk => (g2 k hk).trans (h2 k hk), g3.trans h3⟩
  rw [g1, h1]

/-- The DSNs of the instructions that the queues hold, in their order. -/
def Engine.dsns (g : Engine) : List (List Nat) :=
  [g.q0.map Entry.dsn, g.q1.map Entry.dsn, g.q2.map Entry.dsn, g.q3.map Entry.dsn, g.q4.map Entry.dsn, g.q5.map Entry.dsn]

/-- Bookkeeping by which no instruction enters or leaves a queue. -/
def Quiet (e : Nat) (s t : State) : Prop := Bookkept e s t ∧ (t.eng e).dsns = (s.eng e).dsns

theorem Quiet.refl (e : Nat) (s : State) : Quiet e s s := ⟨Bookkept.refl e s, rfl⟩

theorem Quiet.trans {e : Nat} {a b c : State} (h : Quiet e a b) (g : Quiet e b c) : Quiet e a c :=
  ⟨h.1.trans g.1, g.2.trans h.2⟩

theorem modEntry_dsns (g : Engine) (d : Nat) (f : Entry → Entry) (h : ∀ en, (f en).dsn = en.dsn) :
    (g.modEntry d f).dsns = g.dsns := by
  have key : ∀ l : List Entry, (l.map (fun en => if en.dsn = d then f en else en)).map Entry.dsn = l.map Entry.dsn := by
    intro l
    rw [List.map_map]
    refine List.map_congr_left (fun x _ => ?_)
    simp only [Function.comp]
    split
    · exact h x
    · rfl
  simp only [Engine.dsns, Engine.modEntry, Engine.mapQueues, key]

/-- A change of one engine that keeps its architectural part is quiet. -/
theorem Quiet.setEng (s : State) (e : Nat) (g : Engine) (h : g.arch = (s.eng e).arch) (hq : g.dsns = (s.eng e).dsns) :
    Quiet e s (s.setEng e g) :=
  ⟨⟨rfl, fun _ => rfl, fun _ hk => setEng_eng_ne s e _ g hk, by simpa using h⟩, by simpa using hq⟩

/-- A change of one endpoint is quiet. -/
theorem Quiet.setEp (s : State) (e k : Nat) (p : Endpoint) : Quiet e s (s.setEp k p) :=
  ⟨⟨rfl, fun _ => rfl, fun _ _ => rfl, rfl⟩, rfl⟩

/-- A die that emits a record is quiet. -/
theorem bumpSeq_quiet (s : State) (e k : Nat) : Quiet e s (bumpSeq s k).2 := by
  refine ⟨⟨rfl, fun i => ?_, fun _ _ => rfl, rfl⟩, rfl⟩
  by_cases h : i = k
  · subst h
    simp [bumpSeq]
  · simp [bumpSeq, setIdent_ident_ne s k i _ h]

theorem queueTicket_quiet (e : Nat) (s : State) (a b c : Nat) (p : List Byte) : Quiet e s (queueTicket s a b c p) := by
  simp only [queueTicket, grantCredits, modEp_eq]
  exact (Quiet.setEp _ _ _ _).trans (Quiet.setEp _ _ _ _)

theorem pmNotify_quiet (s : State) (e : Nat) : Quiet e s (pmNotify s e) := by
  unfold pmNotify
  dsimp only
  split
  · exact Quiet.refl _ _
  · split
    · rw [modEng_eq]
      exact (Quiet.setEng _ _ _ (by rfl) (by rfl)).trans (queueTicket_quiet _ _ _ _ _ _)
    · exact Quiet.refl _ _

theorem pmOverflow_quiet (s : State) (e k : Nat) (q : Option Sampled) : Quiet e s (pmOverflow s e k q) := by
  have key : ∀ (u : State) (g : Engine), g.arch = (u.eng e).arch → g.dsns = (u.eng e).dsns → ∀ b : Bool,
      Quiet e u (if b = true then pmNotify (u.setEng e g) e else u.setEng e g) := by
    intro u g hg hq b
    split
    · exact (Quiet.setEng _ _ _ hg hq).trans (pmNotify_quiet _ _)
    · exact Quiet.setEng _ _ _ hg hq
  have seq : ∀ b : Bool, Quiet e s (if b = true then (bumpSeq s (siteSP (spireOf e))).2 else s) ∧
      (if b = true then (bumpSeq s (siteSP (spireOf e))).2 else s).eng e = s.eng e := by
    intro b
    split
    · exact ⟨bumpSeq_quiet _ _ _, rfl⟩
    · exact ⟨Quiet.refl _ _, rfl⟩
  unfold pmOverflow
  dsimp only
  generalize (bit (look 0 (s.eng e).pmSel k) 33 && !(bit (s.eng e).pmSampleInfo 0 || (s.eng e).samplePend.isSome) && q.isSome) = b
  obtain ⟨h1, h2⟩ := seq b
  generalize (if b = true then (bumpSeq s (siteSP (spireOf e))).2 else s) = u at h1 h2 ⊢
  refine h1.trans (key u _ ?_ ?_ _) <;>
  · rw [h2]
    split
    · rfl
    · split
      · rfl
      · split <;> rfl

theorem pmAdd_quiet (s : State) (e k n : Nat) (q : Option Sampled) : Quiet e s (pmAdd s e k n q) := by
  unfold pmAdd
  have h := Quiet.setEng s e
    { s.eng e with pmc := put 0 (s.eng e).pmc k (BitVec.ofNat 64 (((look 0 (s.eng e).pmc k).toNat + n) % 2 ^ 48)) } rfl rfl
  simp only [modEng_eq]
  split
  · exact h.trans (pmOverflow_quiet _ _ _ _)
  · exact h

theorem foldl_quiet {α : Type} (e : Nat) (f : α → State → State) (h : ∀ a s, Quiet e s (f a s)) (l : List α) (s : State) :
    Quiet e s (l.foldl (fun acc a => f a acc) s) := by
  induction l generalizing s with
  | nil => exact Quiet.refl _ _
  | cons a t ih => exact (h a s).trans (ih _)

theorem forAll_quiet {α : Type} (e : Nat) (f : α → State → State) (h : ∀ a s, Quiet e s (f a s)) (l : List α) (s : State) :
    Quiet e s (forAll l f s) := foldl_quiet e f h l s

theorem pmEvent_quiet (e ev mask n : Nat) (q : Option Sampled) (s : State) : Quiet e s (pmEvent e ev mask n q s) := by
  unfold pmEvent
  split
  · exact Quiet.refl _ _
  · refine foldl_quiet e _ (fun k s => ?_) _ s
    dsimp only
    split
    · exact pmAdd_quiet _ _ _ _ _
    · exact Quiet.refl _ _

theorem slotAdd_quiet (s : State) (e k u : Nat) : Quiet e s (slotAdd s e k u) := by
  unfold slotAdd
  simp only [modEng_eq]
  exact Quiet.setEng _ _ _ rfl rfl

theorem slotDone_quiet (s : State) (e r : Nat) : Quiet e s (slotDone s e r) := by
  unfold slotDone
  exact (slotAdd_quiet s e 1 r).trans (slotAdd_quiet _ e 2 (128 - r))

theorem slotTotal_quiet (s : State) (e : Nat) : Quiet e s (slotTotal s e) := by
  unfold slotTotal
  exact slotAdd_quiet s e 0 128

theorem slotBack_quiet (s : State) (e c q : Nat) : Quiet e s (slotBack s e c q) := by
  unfold slotBack
  exact (((slotTotal_quiet s e).trans (slotAdd_quiet _ e 4 128)).trans (pmEvent_quiet e _ _ _ _ _)).trans
    (pmEvent_quiet e _ _ _ _ _)

theorem modEntry_quiet (s : State) (e d : Nat) (f : Entry → Entry) (h : ∀ en, (f en).dsn = en.dsn) :
    Quiet e s (s.setEng e ((s.eng e).modEntry d f)) :=
  Quiet.setEng s e _ rfl (modEntry_dsns _ d f h)

theorem slotEntry_quiet (s : State) (e : Nat) (en : Entry) (r : Nat) : Quiet e s (slotEntry s e en r) := by
  unfold slotEntry
  split
  · exact Quiet.refl _ _
  · rw [modEng_eq]
    exact ((modEntry_quiet s e en.dsn _ (by intro x; rfl)).trans (slotTotal_quiet _ e)).trans (slotDone_quiet _ e r)

theorem park_arch (g : Engine) (c : ParkCause) : (g.park c).arch = g.arch := by
  unfold Engine.park
  split
  · rfl
  · split <;> rfl
  · rfl

theorem park_dsns (g : Engine) (c : ParkCause) : (g.park c).dsns = g.dsns := by
  unfold Engine.park
  split
  · rfl
  · split <;> rfl
  · rfl

theorem raiseExc_quiet (s : State) (e q c : Nat) (en : Entry) (d : Nat) (p : Bool) :
    Quiet e s (raiseExc s e q c en d p) := by
  unfold raiseExc
  simp only [modEng_eq]
  have h : Quiet e s (if p = true then s else slotEntry s e en 128) := by
    split
    · exact Quiet.refl _ _
    · exact slotEntry_quiet _ _ _ _
  generalize (if p = true then s else slotEntry s e en 128) = u at h ⊢
  refine h.trans (Quiet.setEng _ _ _ ?_ ?_)
  · exact (park_arch _ _).trans (by split <;> rfl)
  · exact (park_dsns _ _).trans (by split <;> rfl)

theorem settleHead_quiet (q e : Nat) (s : State) : Quiet e s (settleHead q e s) := by
  unfold settleHead
  split
  · exact Quiet.refl _ _
  · split
    · exact Quiet.refl _ _
    · split
      · split
        · exact raiseExc_quiet _ _ _ _ _ _ _
        · exact Quiet.refl _ _
      · exact Quiet.refl _ _

theorem settle_quiet (s : State) (e : Nat) : Quiet e s (settle s e) :=
  forAll_quiet e _ (fun q s => settleHead_quiet q e s) _ s

theorem finish_bookkept (s : State) (e : Nat) (en : Entry) (r : Nat) : Bookkept e s (finish s e en r) := by
  unfold finish
  simp only [modEng_eq]
  exact (slotEntry_quiet s e en r).1.trans ⟨rfl, fun _ => rfl, fun _ hk => setEng_eng_ne _ e _ _ hk, by rw [setEng_eng]; rfl⟩

/-- What completing an instruction does besides taking it out of its queues. -/
theorem complete_bookkept (s : State) (e : Nat) (en : Entry) (r : Nat) : Bookkept e s (complete s e en r) :=
  (finish_bookkept s e en r).trans (settle_quiet _ e).1

theorem left_of_dsns {g h : Engine} {en : Entry} (hd : h.dsns = g.dsns) (hl : Left g en) : Left h en := by
  simp only [Engine.dsns, List.cons.injEq, and_true] at hd
  have key : ∀ {x y : List Entry}, x.map Entry.dsn = y.map Entry.dsn → (∀ z ∈ y, z.dsn ≠ en.dsn) → ∀ z ∈ x, z.dsn ≠ en.dsn := by
    intro x y hxy hy z hz
    have : z.dsn ∈ y.map Entry.dsn := hxy ▸ List.mem_map_of_mem hz
    obtain ⟨w, hw, he⟩ := List.mem_map.mp this
    exact he ▸ hy w hw
  intro z hz
  simp only [Left, Engine.entries, List.mem_append] at hl hz
  obtain ⟨h0, h1, h2, h3, h4, h5⟩ := hd
  rcases hz with ((((hz | hz) | hz) | hz) | hz) | hz
  · exact key h0 (fun z hz => hl z (by simp [hz])) z hz
  · exact key h1 (fun z hz => hl z (by simp [hz])) z hz
  · exact key h2 (fun z hz => hl z (by simp [hz])) z hz
  · exact key h3 (fun z hz => hl z (by simp [hz])) z hz
  · exact key h4 (fun z hz => hl z (by simp [hz])) z hz
  · exact key h5 (fun z hz => hl z (by simp [hz])) z hz

theorem pop_left (g : Engine) (en : Entry) : Left (g.pop en.dsn) en := by
  intro x hx
  simp only [Engine.pop, Engine.mapQueues, Engine.entries, List.mem_append, List.mem_filter, bne_iff_ne] at hx
  rcases hx with ((((hx | hx) | hx) | hx) | hx) | hx <;> exact hx.2

/-- A completed instruction has left its queues. -/
theorem complete_left (s : State) (e : Nat) (en : Entry) (r : Nat) : Left ((complete s e en r).eng e) en := by
  refine left_of_dsns (settle_quiet _ e).2 ?_
  simp only [finish, modEng_eq, setEng_eng]
  exact pop_left _ _

/-- What completing an instruction does, for either agent. -/
theorem agDone_completed (s : State) (who : Agent) (en : Entry) (r : Nat) : Completed who en s (agDone s who en r) := by
  cases who with
  | engine e => exact ⟨complete_bookkept _ _ _ _, complete_left _ _ _ _⟩
  | unit u => rfl

end Sys2Proof.Machine
end

