-- ==== Sys2Proof/Laws/Word.lean ====
section
/-! SUPPORT. The fields of a word built from a row's operands are those operands (R67). -/

namespace Sys2Proof.Machine

theorem fld_eq (w : Word) (hi lo : Nat) : fld w hi lo = (w.extractLsb' lo (hi + 1 - lo)).toNat := by
  simp [fld, bitsN]

theorem extract_append_high {m n k i : Nat} (a : BitVec m) (b : BitVec n) (h : n ≤ i) :
    (a ++ b).extractLsb' i k = a.extractLsb' (i - n) k := by
  apply BitVec.eq_of_getLsbD_eq
  intro j hj
  simp only [BitVec.getLsbD_extractLsb', BitVec.getLsbD_append]
  have : ¬ (i + j < n) := by omega
  have e : i + j - n = i - n + j := by omega
  simp [this, e]

theorem extract_append_low {m n k i : Nat} (a : BitVec m) (b : BitVec n) (h : i + k ≤ n) :
    (a ++ b).extractLsb' i k = b.extractLsb' i k := by
  apply BitVec.eq_of_getLsbD_eq
  intro j hj
  simp only [BitVec.getLsbD_extractLsb', BitVec.getLsbD_append]
  have : i + j < n := by omega
  simp [this]

variable (opc cls : Nat) (o : MOp)

theorem extract_mkWord (i k : Nat) : (mkWord opc cls o).extractLsb' i k =
    BitVec.extractLsb' (n := 8 + 3 + 5 + 5 + 5 + 3 + 35) i k
      (BitVec.ofNat 8 opc ++ BitVec.ofNat 3 cls ++ o.dst ++ o.src1 ++ o.src2 ++ o.pred ++ o.imm) := rfl

theorem extract_all {n : Nat} (a : BitVec n) : a.extractLsb' 0 n = a := by simp

@[simp] theorem wOpc_mkWord : wOpc (mkWord opc cls o) = opc % 256 := by
  have h : (mkWord opc cls o).extractLsb' 56 8 = BitVec.ofNat 8 opc := by
    rw [extract_mkWord]
    simp (disch := omega) only [extract_append_high, extract_append_low]
    exact extract_all _
  have f : wOpc (mkWord opc cls o) = ((mkWord opc cls o).extractLsb' 56 8).toNat := fld_eq _ 63 56
  rw [f, h]; simp

@[simp] theorem wCls_mkWord : wCls (mkWord opc cls o) = cls % 8 := by
  have h : (mkWord opc cls o).extractLsb' 53 3 = BitVec.ofNat 3 cls := by
    rw [extract_mkWord]
    simp (disch := omega) only [extract_append_high, extract_append_low]
    exact extract_all _
  have f : wCls (mkWord opc cls o) = ((mkWord opc cls o).extractLsb' 53 3).toNat := fld_eq _ 55 53
  rw [f, h]; simp

@[simp] theorem wDst_mkWord : wDst (mkWord opc cls o) = o.dst.toNat := by
  have h : (mkWord opc cls o).extractLsb' 48 5 = o.dst := by
    rw [extract_mkWord]
    simp (disch := omega) only [extract_append_high, extract_append_low]
    exact extract_all _
  have f : wDst (mkWord opc cls o) = ((mkWord opc cls o).extractLsb' 48 5).toNat := fld_eq _ 52 48
  rw [f, h]

@[simp] theorem wS1_mkWord : wS1 (mkWord opc cls o) = o.src1.toNat := by
  have h : (mkWord opc cls o).extractLsb' 43 5 = o.src1 := by
    rw [extract_mkWord]
    simp (disch := omega) only [extract_append_high, extract_append_low]
    exact extract_all _
  have f : wS1 (mkWord opc cls o) = ((mkWord opc cls o).extractLsb' 43 5).toNat := fld_eq _ 47 43
  rw [f, h]

@[simp] theorem wS2_mkWord : wS2 (mkWord opc cls o) = o.src2.toNat := by
  have h : (mkWord opc cls o).extractLsb' 38 5 = o.src2 := by
    rw [extract_mkWord]
    simp (disch := omega) only [extract_append_high, extract_append_low]
    exact extract_all _
  have f : wS2 (mkWord opc cls o) = ((mkWord opc cls o).extractLsb' 38 5).toNat := fld_eq _ 42 38
  rw [f, h]

@[simp] theorem wPred_mkWord : wPred (mkWord opc cls o) = o.pred.toNat := by
  have h : (mkWord opc cls o).extractLsb' 35 3 = o.pred := by
    rw [extract_mkWord]
    simp (disch := omega) only [extract_append_high, extract_append_low]
    exact extract_all _
  have f : wPred (mkWord opc cls o) = ((mkWord opc cls o).extractLsb' 35 3).toNat := fld_eq _ 37 35
  rw [f, h]

@[simp] theorem wImm_mkWord : wImm (mkWord opc cls o) = o.imm.toNat := by
  have h : (mkWord opc cls o).extractLsb' 0 35 = o.imm := by
    rw [extract_mkWord]
    simp (disch := omega) only [extract_append_high, extract_append_low]
    exact extract_all _
  have f : wImm (mkWord opc cls o) = ((mkWord opc cls o).extractLsb' 0 35).toNat := fld_eq _ 34 0
  rw [f, h]

@[simp] theorem wImmS_mkWord : wImmS (mkWord opc cls o) = o.imm.signExtend 64 := by
  have h : (mkWord opc cls o).extractLsb' 0 35 = o.imm := by
    rw [extract_mkWord]
    simp (disch := omega) only [extract_append_low]
    exact extract_all _
  rw [wImmS, h]

end Sys2Proof.Machine
end

