-- ==== Sys2Proof/Laws/Agent.lean ====
section
/-! SUPPORT. What the operations shared by engines and Cupola units do: an instruction of one lane under its guard, the
word of a ready instruction, the range check of one access. -/

namespace Sys2Proof.Machine

/-- A ready instruction has the word that was asked for. -/
theorem ready_word {s : State} {who : Agent} {w : Word} {en : Entry} (h : ready s who w = some en) : en.word = w := by
  cases who with
  | engine e =>
    simp only [ready] at h
    split at h
    · obtain ⟨h, -⟩ := Option.filter_eq_some_iff.mp h
      unfold Engine.atHeads at h
      split at h
      · cases h
      · split at h
        · cases h
        · split at h
          · cases h; rename_i h; exact h.1
          · cases h
    · cases h
  | unit u =>
    simp only [ready] at h
    split at h
    · unfold unitEntry at h
      dsimp only at h
      split at h
      · cases h
      · split at h
        · cases h
        · cases h; rfl
    · cases h

/-- With its guard on, an instruction of one lane does what its body says. -/
theorem single_on {s : State} {who : Agent} {w : Word} {en : Entry} {body : Entry → State} (hr : ready s who w = some en)
    (hg : agGuard s who w = true) : single s who w body = body en := by
  simp [single, hr, hg]

/-- With its guard off, an instruction of one lane completes without an effect (R70). -/
theorem single_off {s : State} {who : Agent} {w : Word} {en : Entry} {body : Entry → State} (hr : ready s who w = some en)
    (hg : agGuard s who w = false) : Completed who en s (single s who w body) := by
  simp only [single, hr, hg]
  exact agDone_completed _ _ _ _

/-- The range check of one access: the first byte outside the local space, if there is one (R441). -/
theorem lowestOut_one (size a n : Nat) (h : 0 < n) :
    lowestOut size [(a, n)] = if a + n ≤ size then none else some (max a size) := by
  simp only [lowestOut, List.foldl]
  by_cases h2 : a + n ≤ size <;> simp [h2]
  omega

end Sys2Proof.Machine
end

