-- ==== Sys2Proof/Laws/Memory.lean ====
section
/-! SUPPORT. Memory: a byte reads as it was last written, every operation keeps the canonical form, and what moves no byte
(counting, allocation in caches, making room) changes nothing that an agent can read. -/

namespace Sys2Proof.Machine

/-! ### Reading after writing -/

theorem look_memPut (m : Tab Byte) (a : Nat) (l : List Byte) (x : Nat) :
    look 0 (memPut m a l) x = if a ≤ x ∧ x < a + l.length then l.getD (x - a) 0 else look 0 m x := by
  induction l generalizing m a with
  | nil => simp only [memPut, List.length_nil]; rw [if_neg (by omega)]
  | cons b t ih =>
    simp only [memPut, ih, look_put, List.length_cons]
    by_cases h1 : a + 1 ≤ x ∧ x < a + 1 + t.length
    · rw [if_pos h1, if_pos (by omega)]
      obtain ⟨d, hd⟩ : ∃ d, x - a = d + 1 := ⟨x - a - 1, by omega⟩
      rw [hd, show x - (a + 1) = d by omega]; rfl
    · rw [if_neg h1]
      by_cases h2 : x = a
      · subst h2; rw [if_pos rfl, if_pos (by omega), Nat.sub_self]; rfl
      · rw [if_neg h2, if_neg (by omega)]

theorem tabWf_memPut {m : Tab Byte} (h : tabWf 0 m = true) (a : Nat) (l : List Byte) : tabWf 0 (memPut m a l) = true := by
  induction l generalizing m a with
  | nil => exact h
  | cons b t ih => exact ih (tabWf_put h a b) (a + 1)

/-! ### What moves no byte -/

/-- From `s` to `t` nothing changed but Platform caches, Turntable counts and times of use, unit counters, Tickets on their way and free
values. -/
def Homeward (s t : State) : Prop :=
  t = { s with tiles := t.tiles, useClock := t.useClock, pcs := t.pcs, ucs := t.ucs, eps := t.eps, nonce := t.nonce }

theorem Homeward.refl (s : State) : Homeward s s := rfl

theorem Homeward.trans {a b c : State} (h : Homeward a b) (g : Homeward b c) : Homeward a c := by
  unfold Homeward at *
  rw [g, h]

theorem ucNotify_homeward (s : State) (k : Nat) : Homeward s (ucNotify s k) := by
  unfold ucNotify
  dsimp only
  split
  · rfl
  · split <;> rfl

theorem ucAdd_homeward (s : State) (k i n : Nat) : Homeward s (ucAdd s k i n) := by
  unfold ucAdd
  dsimp only
  split
  · refine Homeward.trans ?_ (ucNotify_homeward _ _)
    rfl
  · rfl

theorem ucEvent_homeward (k ev : Nat) (q : Nat → Bool) (n : Nat) (s : State) : Homeward s (ucEvent k ev q n s) := by
  have key : ∀ (l : List Nat) (s : State), Homeward s (l.foldl (fun acc i => (fun i s =>
      let sel := look 0 (s.uc k).sel i
      if bit sel 31 && fld sel 7 0 == ev && q (fld sel 23 16) then ucAdd s k i n else s) i acc) s) := by
    intro l
    induction l with
    | nil => exact fun s => rfl
    | cons a t ih =>
      intro s
      refine Homeward.trans ?_ (ih _)
      dsimp only
      split
      · exact ucAdd_homeward _ _ _ _
      · rfl
  unfold ucEvent
  split
  · rfl
  · exact key _ s

theorem ccEvent_homeward (cc ev n : Nat) (s : State) : Homeward s (ccEvent cc ev n s) := ucEvent_homeward _ _ _ _ _

theorem Homeward.ccEvent {s u : State} (h : Homeward s u) (cc ev n : Nat) : Homeward s (Machine.ccEvent cc ev n u) :=
  h.trans (ccEvent_homeward cc ev n u)

theorem Homeward.modPc {s u : State} (h : Homeward s u) (k : Nat) (f : PlatCache → PlatCache) : Homeward s (u.modPc k f) := by
  unfold Homeward at *
  rw [h]; rfl

theorem Homeward.modTile {s u : State} (h : Homeward s u) (k : Nat) (f : Tile → Tile) : Homeward s (u.modTile k f) := by
  unfold Homeward at *
  rw [h]; rfl

theorem fresh_homeward (s : State) : Homeward s s.fresh.2 := rfl

theorem pcAllocate_homeward (s : State) (cc l : Nat) (w : Bool) : Homeward s (pcAllocate s cc l w) := by
  unfold pcAllocate
  dsimp only
  split
  · rfl
  · have h : Homeward s s.fresh.2.fresh.2 := (fresh_homeward s).trans (fresh_homeward _)
    generalize s.fresh.2.fresh.2 = u at h ⊢
    apply Homeward.modPc
    split
    · exact h
    · exact (h.ccEvent _ _ _).modPc _ _

/-- A line that reaches its home changes no byte of memory and nothing that an agent can read (R244, R293). -/
theorem homeTouch_homeward (s : State) (l : Nat) (w : Bool) : Homeward s (homeTouch s l w) := by
  have h : Homeward s { s with useClock := s.useClock + 1 } := rfl
  unfold homeTouch
  dsimp only
  generalize ({ s with useClock := s.useClock + 1 } : State) = u at h ⊢
  split
  · exact ((h.modTile _ _).ccEvent _ _ _).trans (pcAllocate_homeward _ _ _ _)
  · exact ((h.modTile _ _).ccEvent _ _ _).modPc _ _

theorem writeBack_homeward (s : State) (x : Nat × Nat) : Homeward s (writeBack s x) := by
  unfold writeBack
  split
  · exact homeTouch_homeward _ _ _
  · rfl

theorem forAll_homeward {α : Type} (f : α → State → State) (h : ∀ a s, Homeward s (f a s)) (l : List α) (s : State) :
    Homeward s (forAll l f s) := by
  induction l generalizing s with
  | nil => rfl
  | cons a t ih => exact (h a s).trans (ih _)

theorem memTouch_homeward (s : State) (a n : Nat) : Homeward s (memTouch s a n) :=
  forAll_homeward _ (fun l s => homeTouch_homeward s l false) _ s

theorem Homeward.same {s t : State} (h : Homeward s t) : SameMem s t ∧ t.poison = s.poison ∧ t.engines = s.engines ∧
    t.units = s.units ∧ t.td = s.td ∧ t.pkg = s.pkg := by
  unfold Homeward at h
  rw [h]
  exact ⟨fun _ => rfl, rfl, rfl, rfl, rfl, rfl⟩

theorem Homeward.traffic {s t : State} (h : Homeward s t) : Traffic s t := by
  obtain ⟨h1, h2, h3, h4, -, -⟩ := h.same
  exact ⟨h1, h2, fun k => by simp only [State.eng, h3], fun k => by simp only [State.unit, h4]⟩

theorem Traffic.refl (s : State) : Traffic s s := ⟨fun _ => rfl, rfl, fun _ => rfl, fun _ => rfl⟩

theorem Traffic.trans {a b c : State} (h : Traffic a b) (g : Traffic b c) : Traffic a c :=
  ⟨fun x => (g.1 x).trans (h.1 x), g.2.1.trans h.2.1, fun k => (g.2.2.1 k).trans (h.2.2.1 k),
    fun k => (g.2.2.2 k).trans (h.2.2.2 k)⟩

/-- A change of an engine that it cannot see is traffic. -/
theorem Traffic.setEng (s : State) (e : Nat) (g : Engine) (h : g.core = (s.eng e).core) : Traffic s (s.setEng e g) := by
  refine ⟨fun _ => rfl, rfl, fun k => ?_, fun _ => rfl⟩
  by_cases hk : k = e
  · subst hk; simpa using h
  · rw [setEng_eng_ne _ _ _ _ hk]

/-- A change of a hart is traffic. -/
theorem Traffic.setHart (s : State) (h : Nat) (g : Hart) : Traffic s (s.setHart h g) :=
  ⟨fun _ => rfl, rfl, fun _ => rfl, fun _ => rfl⟩

theorem scRoom_traffic (s : State) (e : Nat) : Traffic s (scRoom s e) := by
  unfold scRoom
  dsimp only
  split
  · exact Homeward.traffic rfl
  · rename_i x _
    refine (Homeward.traffic (Homeward.trans (fresh_homeward s) (writeBack_homeward _ x))).trans ?_
    rw [modEng_eq]
    exact Traffic.setEng _ _ _ rfl

theorem hartRoom_traffic (s : State) (h : Nat) : Traffic s (hartRoom s h) := by
  unfold hartRoom
  dsimp only
  split
  · exact Homeward.traffic rfl
  · rename_i x _
    refine (Homeward.traffic (Homeward.trans (fresh_homeward s) (writeBack_homeward _ x))).trans ?_
    exact Traffic.setHart _ _ _

theorem look_tabMapD_aux [DecidableEq α] (d : α) (t : Tab α) (f : Nat → α → α) (l a : Tab α) (k : Nat) :
    look d (l.foldl (fun a p => put d a p.1 (f p.1 (look d t p.1))) a) k =
      if (∃ p ∈ l, p.1 = k) then f k (look d t k) else look d a k := by
  induction l generalizing a with
  | nil => simp
  | cons p l ih =>
    simp only [List.foldl_cons, ih, look_put]
    by_cases h : ∃ q ∈ l, q.1 = k
    · have : ∃ q ∈ p :: l, q.1 = k := by obtain ⟨q, hq, he⟩ := h; exact ⟨q, List.mem_cons_of_mem _ hq, he⟩
      rw [if_pos h, if_pos this]
    · by_cases hp : k = p.1
      · have : ∃ q ∈ p :: l, q.1 = k := ⟨p, by simp, hp.symm⟩
        rw [if_neg h, if_pos hp, if_pos this, hp]
      · have : ¬ ∃ q ∈ p :: l, q.1 = k := by
          rintro ⟨q, hq, he⟩
          rcases List.mem_cons.mp hq with rfl | hq
          · exact hp he.symm
          · exact h ⟨q, hq, he⟩
        rw [if_neg h, if_neg hp, if_neg this]

/-- Every listed key of a table reads as `f` gives; the others as before. -/
theorem look_tabMapD [DecidableEq α] (d : α) (t : Tab α) (f : Nat → α → α) (k : Nat) :
    look d (tabMapD d t f) k = if (∃ p ∈ t, p.1 = k) then f k (look d t k) else look d t k :=
  look_tabMapD_aux d t f t t k

theorem tabWf_tabMapD [DecidableEq α] {d : α} {t : Tab α} (h : tabWf d t = true) (f : Nat → α → α) :
    tabWf d (tabMapD d t f) = true := by
  unfold tabMapD
  have key : ∀ (l a : Tab α), tabWf d a = true → tabWf d (l.foldl (fun a p => put d a p.1 (f p.1 (look d t p.1))) a) = true := by
    intro l
    induction l with
    | nil => exact fun a h => h
    | cons p l ih => exact fun a h => ih _ (tabWf_put h _ _)
  exact key t t h

/-- Losing copies of a line changes nothing that an agent can read. -/
theorem dropCopies_traffic (s : State) (f : Nat → Engine → Engine) (g : Nat → Hart → Hart) (hf : ∀ k x, (f k x).core = x.core) :
    Traffic s { s with engines := tabMapD {} s.engines f, harts := tabMapD {} s.harts g } := by
  refine ⟨fun _ => rfl, rfl, fun k => ?_, fun _ => rfl⟩
  show (look {} (tabMapD {} s.engines f) k).core = _
  rw [look_tabMapD]
  split
  · exact hf _ _
  · rfl

theorem recallOthers_traffic (s : State) (o : Obs) (l : Nat) : Traffic s (recallOthers s o l) := by
  refine dropCopies_traffic s _ _ (fun k x => ?_)
  split <;> rfl

theorem directoryRecall_traffic (s : State) (l : Nat) : Traffic s (directoryRecall s l) := by
  unfold directoryRecall
  dsimp only
  split
  · exact Homeward.traffic rfl
  · rename_i x _
    exact (Homeward.traffic (Homeward.trans (fresh_homeward s) (writeBack_homeward _ x))).trans
      (dropCopies_traffic _ _ _ (fun _ _ => rfl))

/-! ### What moves data between caches, write-combining buffers and frames -/

/-- From `s` to `t` nothing changed but what `Homeward` names, the channels, the errors that homes logged with their SEQ,
and lines that became poisoned. -/
def Lower (s t : State) : Prop :=
  t = { s with
    tiles := t.tiles, useClock := t.useClock, pcs := t.pcs, ucs := t.ucs, eps := t.eps, nonce := t.nonce
    chans := t.chans, tts := t.tts, idents := t.idents, poison := t.poison } ∧
  (∀ l, nHas l s.poison = true → nHas l t.poison = true) ∧ (nWf s.poison = true → nWf t.poison = true)

theorem Lower.refl (s : State) : Lower s s := ⟨rfl, fun _ h => h, fun h => h⟩

theorem Lower.trans {a b c : State} (h : Lower a b) (g : Lower b c) : Lower a c :=
  ⟨by rw [g.1, h.1], fun l x => g.2.1 l (h.2.1 l x), fun x => g.2.2 (h.2.2 x)⟩

theorem Homeward.lower {s t : State} (h : Homeward s t) : Lower s t := by
  have hp := h.same.2.1
  refine ⟨?_, fun l x => hp ▸ x, fun x => hp ▸ x⟩
  unfold Homeward at h
  rw [h]

theorem modChan_lower (s : State) (k : Nat) (f : Chan → Chan) : Lower s (s.modChan k f) := ⟨rfl, fun _ h => h, fun h => h⟩

theorem poisonLine_lower (s : State) (l : Nat) : Lower s (poisonLine s l) := by
  refine ⟨rfl, fun x h => ?_, fun h => nWf_nIns h _⟩
  show nHas x (nIns l s.poison) = true
  rw [nHas_nIns, h, Bool.or_true]

theorem hbmEvent_lower (s : State) (ch ev : Nat) : Lower s (hbmEvent s ch ev) := (ucEvent_homeward _ _ _ _ _).lower

theorem senseEntry_lower (s : State) (ch : Nat) (w : WcbEntry) : Lower s (senseEntry s ch w) := by
  unfold senseEntry
  split
  · exact Lower.refl s
  · exact modChan_lower _ _ _
  · dsimp only
    split
    · exact (modChan_lower _ _ _).trans (poisonLine_lower _ _)
    · exact modChan_lower _ _ _

theorem evict_lower (s : State) (ch : Nat) (w : WcbEntry) : Lower s (evict s ch w) := by
  unfold evict
  dsimp only
  split
  · exact (senseEntry_lower _ _ _).trans (hbmEvent_lower _ _ _)
  · exact senseEntry_lower _ _ _

theorem forAll_lower {α : Type} (f : α → State → State) (h : ∀ a s, Lower s (f a s)) (l : List α) (s : State) :
    Lower s (forAll l f s) := by
  induction l generalizing s with
  | nil => exact Lower.refl s
  | cons a t ih => exact (h a s).trans (ih _)

theorem evictIf_lower (s : State) (ch : Nat) (f : WcbEntry → Bool) : Lower s (evictIf s ch f) := by
  unfold evictIf
  dsimp only
  exact (forAll_lower _ (fun w s => evict_lower s ch w) _ s).trans (modChan_lower _ _ _)

theorem wcbWrite_lower (s : State) (ch line m : Nat) : Lower s (wcbWrite s ch line m) := by
  unfold wcbWrite
  dsimp only
  generalize (s.chan ch).wcb.find? (fun w => w.line == line) = old
  have h := modChan_lower s ch (fun c => { c with wcb := c.wcb.filter (fun w => w.line != line) })
  generalize s.modChan ch (fun c => { c with wcb := c.wcb.filter (fun w => w.line != line) }) = u at h ⊢
  refine h.trans ?_
  have hv (f : Chan → Chan) : Lower u ((match (u.chan ch).wcb with
      | w :: _ => if 64 ≤ (u.chan ch).wcb.length then evictIf u ch fun x => x.line == w.line else u
      | [] => u).modChan ch f) := by
    refine Lower.trans ?_ (modChan_lower _ _ _)
    split
    · split
      · exact evictIf_lower _ _ _
      · exact Lower.refl _
    · exact Lower.refl _
  cases old with
  | none =>
    by_cases hm : 0 ||| m = 2 ^ 64 - 1
    · rw [if_pos hm]; exact Lower.refl _
    · rw [if_neg hm]; exact hv _
  | some w =>
    by_cases hm : w.mask ||| m = 2 ^ 64 - 1
    · rw [if_pos hm]; exact senseEntry_lower _ _ _
    · rw [if_neg hm]; exact hv _

/-- A write below the homes changes no byte of memory and takes no mark away (R276, R286). -/
theorem frameWrite_lower (s : State) (l first n : Nat) : Lower s (frameWrite s l first n) := by
  unfold frameWrite
  split
  · exact Lower.refl s
  · split
    · exact Lower.refl s
    · dsimp only
      split
      · exact (hbmEvent_lower _ _ _).trans (modChan_lower _ _ _)
      · exact (hbmEvent_lower _ _ _).trans (wcbWrite_lower _ _ _ _)

theorem entryOut_lower (s : State) (l : Nat) (w : Bool) : Lower s (entryOut s l w) := by
  unfold entryOut
  split
  · exact Lower.refl s
  · dsimp only
    split
    · exact Lower.refl s
    · split
      · exact modChan_lower _ _ _
      · exact evictIf_lower _ _ _

theorem Lower.same {s t : State} (h : Lower s t) : t.mem = s.mem ∧ SameMem s t ∧ t.engines = s.engines ∧
    t.units = s.units ∧ t.td = s.td ∧ t.pkg = s.pkg := by
  have h1 := h.1
  have e1 : t.mem = s.mem := by rw [h1]
  have e2 : t.engines = s.engines := by rw [h1]
  have e3 : t.units = s.units := by rw [h1]
  have e4 : t.td = s.td := by rw [h1]
  have e5 : t.pkg = s.pkg := by rw [h1]
  exact ⟨e1, fun a => by unfold memByte inMirror; rw [e1, e4], e2, e3, e4, e5⟩

theorem Maintains.trans {a b c : State} (h : Maintains a b) (g : Maintains b c) : Maintains a c :=
  ⟨fun x => (g.1 x).trans (h.1 x), g.2.1.trans h.2.1, fun l x => g.2.2.1 l (h.2.2.1 l x), fun x => g.2.2.2.1 (h.2.2.2.1 x),
    fun k => (g.2.2.2.2.1 k).trans (h.2.2.2.2.1 k), fun k => (g.2.2.2.2.2 k).trans (h.2.2.2.2.2 k)⟩

theorem Lower.maintains {s t : State} (h : Lower s t) : Maintains s t := by
  obtain ⟨h1, h2, h3, h4, -, -⟩ := h.same
  exact ⟨h2, h1, h.2.1, h.2.2, fun k => by simp only [State.eng, h3], fun k => by simp only [State.unit, h4]⟩

/-- Cleaning or flushing a line changes no byte of memory and nothing that an agent can read, and takes no mark away (R299). -/
theorem cleanLine_maintains (s : State) (l : Nat) (d : Bool) : Maintains s (cleanLine s l d) := by
  unfold cleanLine
  dsimp only
  have h0 : Maintains s (if heldDirty s l = true then homeTouch s l true else s) := by
    split
    · exact (homeTouch_homeward _ _ _).lower.maintains
    · exact (Lower.refl s).maintains
  refine h0.trans ?_
  generalize (if heldDirty s l = true then homeTouch s l true else s) = v
  have h1 := (entryOut_lower v l (look 0 (v.pc (home (l * 64))).lines l != 0 && look 0 (v.pc (home (l * 64))).lines l % 2 == 0)).maintains
  generalize entryOut v l (look 0 (v.pc (home (l * 64))).lines l != 0 && look 0 (v.pc (home (l * 64))).lines l % 2 == 0) = w at h1 ⊢
  refine h1.trans ?_
  have h2 (f : Nat → Engine → Engine) (g : Nat → Hart → Hart) (hf : ∀ k x, (f k x).core = x.core) :
      Maintains w { { w with stale := put [] w.stale l [] } with
        engines := tabMapD {} w.engines f, harts := tabMapD {} w.harts g } := by
    obtain ⟨q1, q2, q3, q4⟩ := dropCopies_traffic { w with stale := put [] w.stale l [] } f g hf
    exact ⟨q1, rfl, fun _ h => h, fun h => h, q3, q4⟩
  refine (h2 _ _ ?_).trans (Homeward.lower (((Homeward.refl _).ccEvent _ _ _).modPc _ _)).maintains
  exact fun _ _ => rfl

/-! ### Writing memory -/

/-- What a logged write adds stays in the tandem port. -/
theorem tdLog_only (s : State) (o : Obs) (a : Nat) (b : List Byte) (p : Bool) :
    ∃ x : Tandem, tdLog s o a b p = { s with td := x } ∧ x.mirror = s.td.mirror ∧ x.mirrorIsMemory = s.td.mirrorIsMemory := by
  unfold tdLog
  split
  · exact ⟨s.td, rfl, rfl, rfl⟩
  · split
    · exact ⟨s.td, rfl, rfl, rfl⟩
    · exact ⟨_, rfl, rfl, rfl⟩

/-- From `s` to `t` the package is the same one: the same unified range, the same mirror area, and every engine and unit
sees of itself what it saw. -/
def SameAgents (s t : State) : Prop :=
  t.pkg = s.pkg ∧ (∀ a, inMirror t a = inMirror s a) ∧ (∀ k, (t.eng k).core = (s.eng k).core) ∧ (∀ k, t.unit k = s.unit k)

theorem SameAgents.refl (s : State) : SameAgents s s := ⟨rfl, fun _ => rfl, fun _ => rfl, fun _ => rfl⟩

theorem SameAgents.trans {a b c : State} (h : SameAgents a b) (g : SameAgents b c) : SameAgents a c :=
  ⟨g.1.trans h.1, fun x => (g.2.1 x).trans (h.2.1 x), fun k => (g.2.2.1 k).trans (h.2.2.1 k),
    fun k => (g.2.2.2 k).trans (h.2.2.2 k)⟩

theorem SameAgents.uBytes {s t : State} (h : SameAgents s t) : t.uBytes = s.uBytes := by
  have hw : withdrawnFrames t = withdrawnFrames s := by simp only [withdrawnFrames, h.1]
  have hh : t.hBytes = s.hBytes := by simp only [State.hBytes, h.1, hw]
  simp only [State.uBytes, h.1, hh]

theorem Lower.agents {s t : State} (h : Lower s t) : SameAgents s t := by
  obtain ⟨-, -, h3, h4, h5, h6⟩ := h.same
  exact ⟨h6, fun a => by simp only [inMirror, h5], fun k => by simp only [State.eng, h3], fun k => by simp only [State.unit, h4]⟩

theorem recallOthers_agents (s : State) (o : Obs) (l : Nat) : SameAgents s (recallOthers s o l) := by
  obtain ⟨-, -, h3, h4⟩ := recallOthers_traffic s o l
  exact ⟨rfl, fun _ => rfl, h3, h4⟩

theorem Homeward.agents {s t : State} (h : Homeward s t) : SameAgents s t := by
  obtain ⟨-, -, h3, h4, h5, h6⟩ := h.same
  exact ⟨h6, fun a => by simp only [inMirror, h5], fun k => by simp only [State.eng, h3], fun k => by simp only [State.unit, h4]⟩

/-- The poison marks after a write of part of a line, but for what leaves the write-combining buffer (R255). -/
def linePoison (s : State) (a : Nat) (b : List Byte) (p : Bool) : NSet :=
  if p then nIns (a / 64) s.poison else if b.length = 64 then nDel (a / 64) s.poison else s.poison

/-- Everything a write of part of a line can do: outside the unified range and in the mirror area nothing; elsewhere its
bytes and its line's mark. Other lines can gain a mark only, from an entry of the write-combining buffer that it sends
out. -/
theorem lineWrite_spec (s : State) (o : Obs) (a : Nat) (b : List Byte) (p : Bool) :
    SameAgents s (lineWrite s o a b p) ∧
    ((b.isEmpty || inMirror s a || decide (s.uBytes ≤ a)) = true → lineWrite s o a b p = s) ∧
    ((b.isEmpty || inMirror s a || decide (s.uBytes ≤ a)) = false →
      (lineWrite s o a b p).mem = memPut s.mem a b ∧
      (∀ l, nHas l (linePoison s a b p) = true → nHas l (lineWrite s o a b p).poison = true) ∧
      (nWf (linePoison s a b p) = true → nWf (lineWrite s o a b p).poison = true)) := by
  unfold lineWrite linePoison
  by_cases hc : (b.isEmpty || inMirror s a || decide (s.uBytes ≤ a)) = true
  · simp only [hc, if_true]
    exact ⟨SameAgents.refl s, fun _ => trivial, fun h => by cases h⟩
  · simp only [hc]
    simp only [Bool.false_eq_true, if_false]
    have hw : (decide (b.length = 64) = true) = (b.length = 64) := by simp
    generalize hu : ({ recallOthers s o (a / 64) with
      mem := memPut (recallOthers s o (a / 64)).mem a b
      stale := put [] (recallOthers s o (a / 64)).stale (a / 64) (frameLine (recallOthers s o (a / 64)) (a / 64))
      poison := if p then nIns (a / 64) (recallOthers s o (a / 64)).poison
        else if decide (b.length = 64) then nDel (a / 64) (recallOthers s o (a / 64)).poison else (recallOthers s o (a / 64)).poison
      recovering := if decide (b.length = 64) then nDel (a / 64) (recallOthers s o (a / 64)).recovering
        else (recallOthers s o (a / 64)).recovering } : State) = u
    have ha : SameAgents s u := by
      subst hu
      obtain ⟨h1, h2, h3, h4⟩ := recallOthers_agents s o (a / 64)
      exact ⟨h1, h2, h3, h4⟩
    have hm : u.mem = memPut s.mem a b := by subst hu; rfl
    have hp : u.poison = if p then nIns (a / 64) s.poison else if b.length = 64 then nDel (a / 64) s.poison else s.poison := by
      subst hu; simp only [hw]; rfl
    have hv : ∃ v : State, Lower u v ∧ (if holdsDirty u o (a / 64) = true then u
        else frameWrite (homeTouch u (a / 64) true) (a / 64) (a % 64) b.length) = v := by
      split
      · exact ⟨u, Lower.refl u, rfl⟩
      · exact ⟨_, (homeTouch_homeward _ _ _).lower.trans (frameWrite_lower _ _ _ _), rfl⟩
    obtain ⟨v, hv, he⟩ := hv
    rw [he]
    obtain ⟨x, hx, hx1, hx2⟩ := tdLog_only v o a b p
    rw [hx]
    have hvm : v.mem = u.mem := hv.same.1
    refine ⟨(ha.trans hv.agents).trans ⟨rfl, fun y => ?_, fun _ => rfl, fun _ => rfl⟩, False.elim, fun _ => ⟨?_, ?_, ?_⟩⟩
    · simp only [inMirror, hx1, hx2]
    · exact hvm.trans hm
    · intro l h; exact hv.2.1 l (hp ▸ h)
    · intro h; exact hv.2.2 (hp ▸ h)

/-- Poison marks of lines that a range does not touch stay, and memory outside it reads as before; every byte of the range
that memory has reads as written. -/
theorem lineWrite_memByte (s : State) (o : Obs) (a : Nat) (b : List Byte) (p : Bool) (x : Nat) :
    memByte (lineWrite s o a b p) x =
      if a ≤ x ∧ x < a + b.length ∧ inMirror s x = false ∧ inMirror s a = false ∧ a < s.uBytes then b.getD (x - a) 0
      else memByte s x := by
  obtain ⟨h1, h2, h3⟩ := lineWrite_spec s o a b p
  by_cases hc : (b.isEmpty || inMirror s a || decide (s.uBytes ≤ a)) = true
  · rw [h2 hc, if_neg]
    rintro ⟨q1, q2, q3, q4, q5⟩
    simp only [Bool.or_eq_true, decide_eq_true_eq, List.isEmpty_iff] at hc
    rcases hc with (hc | hc) | hc
    · subst hc; simp at q2; omega
    · rw [hc] at q4; cases q4
    · omega
  · have hc' : (b.isEmpty || inMirror s a || decide (s.uBytes ≤ a)) = false := by simpa using hc
    obtain ⟨hm, -⟩ := h3 hc'
    simp only [Bool.or_eq_false_iff, decide_eq_false_iff_not, Nat.not_le] at hc'
    simp only [memByte, h1.2.1, hm, look_memPut]
    by_cases hx : inMirror s x = true
    · simp [hx]
    · have hx' : inMirror s x = false := by simpa using hx
      simp [hx', hc'.1.2, hc'.2]

theorem MemOk_lineWrite {s : State} (h : s.MemOk) (o : Obs) (a : Nat) (b : List Byte) (p : Bool) :
    (lineWrite s o a b p).MemOk := by
  obtain ⟨-, h2, h3⟩ := lineWrite_spec s o a b p
  by_cases hc : (b.isEmpty || inMirror s a || decide (s.uBytes ≤ a)) = true
  · rw [h2 hc]; exact h
  · obtain ⟨hm, -, hp⟩ := h3 (by simpa using hc)
    refine ⟨?_, hp ?_⟩
    · rw [hm]; exact tabWf_memPut h.1 _ _
    · unfold linePoison
      split
      · exact nWf_nIns h.2 _
      · split
        · exact nWf_nDel h.2 _
        · exact h.2

theorem forAll_induct {α : Type} (P : State → Prop) (f : α → State → State) (h : ∀ a s, P s → P (f a s)) (l : List α)
    (s : State) (hs : P s) : P (forAll l f s) := by
  induction l generalizing s with
  | nil => exact hs
  | cons a t ih => exact ih _ (h a s hs)

/-- Writing memory keeps its canonical form. -/
theorem MemOk_memWrite {s : State} (h : s.MemOk) (o : Obs) (a : Nat) (b : List Byte) (p : Bool) : (memWrite s o a b p).MemOk :=
  forAll_induct State.MemOk _ (fun _ _ h => MemOk_lineWrite h _ _ _ _) _ _ h

theorem MemOk_memWriteBy {s : State} (h : s.MemOk) (o : Obs) (a : Nat) (b : List Byte) (f : Nat → Bool) :
    (memWriteBy s o a b f).MemOk :=
  forAll_induct State.MemOk _ (fun _ _ h => MemOk_lineWrite h _ _ _ _) _ _ h

theorem MemOk_memWrite64 {s : State} (h : s.MemOk) (o : Obs) (a : Nat) (w : Word) : (memWrite64 s o a w).MemOk :=
  MemOk_memWrite h _ _ _ _

theorem Homeward.memOk {s t : State} (h : Homeward s t) (hs : s.MemOk) : t.MemOk := by
  unfold Homeward at h; rw [h]; exact hs

theorem Maintains.memOk {s t : State} (h : Maintains s t) (hs : s.MemOk) : t.MemOk :=
  ⟨by rw [h.2.1]; exact hs.1, h.2.2.2.1 hs.2⟩

/-- Writing a line back where a cache holds it dirty, and dropping every copy, moves no byte of memory (R296). -/
theorem uncache_maintains (s : State) (a n : Nat) : Maintains s (uncache s a n) := by
  refine forAll_induct (Maintains s) _ (fun l t h => h.trans ?_) _ s (Lower.refl s).maintains
  have h0 : Maintains t (if heldDirty t l = true then homeTouch t l true else t) := by
    split
    · exact (homeTouch_homeward _ _ _).lower.maintains
    · exact (Lower.refl t).maintains
  refine h0.trans ?_
  obtain ⟨q1, q2, q3, q4⟩ := dropCopies_traffic (if heldDirty t l = true then homeTouch t l true else t)
    (fun _ g => { g with sc := tabDel l g.sc }) (fun _ g => g.drop l) (fun _ _ => rfl)
  exact ⟨q1, rfl, fun _ h => h, fun h => h, q3, q4⟩

theorem uncache_frame (s : State) (a n : Nat) : (uncache s a n).pkg = s.pkg ∧ (uncache s a n).td = s.td := by
  refine forAll_induct (fun t => t.pkg = s.pkg ∧ t.td = s.td) _ (fun l t h => ?_) _ s ⟨rfl, rfl⟩
  have key : ∀ u : State, Homeward t u → (dropCopies u l).pkg = s.pkg ∧ (dropCopies u l).td = s.td :=
    fun u hu => ⟨hu.same.2.2.2.2.2.trans h.1, hu.same.2.2.2.2.1.trans h.2⟩
  refine key _ ?_
  split
  · exact homeTouch_homeward _ _ _
  · rfl

theorem MemOk_performStores {s : State} (h : s.MemOk) (o : Obs) (l : List Store) : (performStores s o l).MemOk := by
  refine forAll_induct State.MemOk _ (fun st u h => MemOk_memWrite ?_ _ _ _ _) _ _ h
  split
  · exact (uncache_maintains _ _ _).memOk h
  · exact h

theorem MemOk_drainEngine {s : State} (h : s.MemOk) (e : Nat) : (drainEngine s e).MemOk := MemOk_performStores h _ _
theorem MemOk_drainHart {s : State} (h : s.MemOk) (k : Nat) : (drainHart s k).MemOk := MemOk_performStores h _ _

theorem MemOk_drainOneEngine {s : State} (h : s.MemOk) (e : Nat) : (drainOneEngine e s).MemOk := by
  unfold drainOneEngine
  dsimp only
  split
  · exact h
  · split
    · exact h
    · exact MemOk_performStores (s := s.fresh.2) h _ _

theorem MemOk_drainOneHart {s : State} (h : s.MemOk) (k : Nat) : (drainOneHart k s).MemOk := by
  unfold drainOneHart
  dsimp only
  split
  · exact h
  · split
    · exact h
    · exact MemOk_performStores (s := s.fresh.2) h _ _

theorem MemOk_drainOneUnit {s : State} (h : s.MemOk) (u : Nat) : (drainOneUnit u s).MemOk := by
  unfold drainOneUnit
  dsimp only
  split
  · exact h
  · generalize (if Config.freeBool s.fresh.1 0 = true then _ else _) = pieces
    split
    · exact h
    · exact MemOk_performStores (s := s.fresh.2) h _ _

theorem MemOk_poisonLine {s : State} (h : s.MemOk) (l : Nat) : (poisonLine s l).MemOk := ⟨h.1, nWf_nIns h.2 _⟩

theorem MemOk_cleanLine {s : State} (h : s.MemOk) (l : Nat) (d : Bool) : (cleanLine s l d).MemOk :=
  (cleanLine_maintains s l d).memOk h

theorem tdLog_memOk {s : State} (h : s.MemOk) (o : Obs) (a : Nat) (b : List Byte) (p : Bool) : (tdLog s o a b p).MemOk := by
  obtain ⟨x, hx, -, -⟩ := tdLog_only s o a b p
  rw [hx]; exact h

theorem MemOk_imageWrite {s : State} (h : s.MemOk) (off : Nat) (b : List Byte) (p : Bool) : (imageWrite s off b p).MemOk := by
  have hl : ∀ (l : List Nat) (t : NSet), nWf t = true → nWf (forAll l nIns t) = true := by
    intro l
    induction l with
    | nil => exact fun t h => h
    | cons a l ih => exact fun t h => ih _ (nWf_nIns h a)
  unfold imageWrite
  dsimp only
  split
  · exact h
  · refine ⟨tabWf_memPut h.1 _ _, ?_⟩
    show nWf (if p = true then _ else _) = true
    split
    · exact hl _ _ h.2
    · split
      · exact nWf_nDel h.2 _
      · exact h.2

theorem MemOk_hbmPut {s : State} (h : s.MemOk) (ch line first : Nat) (b : List Byte) : (hbmPut s ch line first b).MemOk := by
  unfold hbmPut
  split
  · refine ⟨tabWf_memPut h.1 _ _, ?_⟩
    show nWf (if b.length = 64 then _ else _) = true
    split
    · exact nWf_nDel h.2 _
    · exact h.2
  · exact h

/-! ### Writes of a range -/

/-- The mirror area holds a line whole or not at all. -/
theorem inMirror_line (s : State) {x y : Nat} (h : x / 64 = y / 64) : inMirror s x = inMirror s y := by
  simp only [inMirror]
  generalize fld s.td.mirror 63 28 = b
  generalize fld s.td.mirror 27 0 = n
  have h1 : decide (b * 65536 ≤ x) = decide (b * 65536 ≤ y) := by
    rw [decide_eq_decide]; omega
  have h2 : decide (x < b * 65536 + n * 65536) = decide (y < b * 65536 + n * 65536) := by
    rw [decide_eq_decide]; omega
  rw [h1, h2]

theorem getD_take_drop (b : List Byte) (i j k : Nat) (h : k < j) : ((b.drop i).take j).getD k 0 = b.getD (i + k) 0 := by
  simp [List.getD_eq_getElem?_getD, List.getElem?_take, h]

theorem pieces_memByte (o : Obs) (a : Nat) (b : List Byte) (f : Nat → Bool) (x : Nat) (ls : List Nat) (s : State)
    (hx : x < s.uBytes) (hl : ∀ l ∈ ls, a / 64 ≤ l ∧ l * 64 < a + b.length) :
    memByte (forAll (ls.map (fun l => (max a (l * 64), min (a + b.length) (l * 64 + 64) - max a (l * 64))))
      (fun p s => lineWrite s o p.1 ((b.drop (p.1 - a)).take p.2) (f (p.1 / 64))) s) x =
      if x / 64 ∈ ls ∧ a ≤ x ∧ x < a + b.length ∧ inMirror s x = false then b.getD (x - a) 0 else memByte s x := by
  induction ls generalizing s with
  | nil => simp [forAll]
  | cons l t ih =>
    have hs := (lineWrite_spec s o (max a (l * 64))
      ((b.drop (max a (l * 64) - a)).take (min (a + b.length) (l * 64 + 64) - max a (l * 64))) (f (max a (l * 64) / 64))).1
    simp only [List.map_cons, forAll, List.foldl_cons] at ih ⊢
    rw [ih _ (hs.uBytes ▸ hx) (fun l hl' => hl l (List.mem_cons_of_mem _ hl')), hs.2.1]
    by_cases hm : x / 64 ∈ t ∧ a ≤ x ∧ x < a + b.length ∧ inMirror s x = false
    · rw [if_pos hm, if_pos ⟨List.mem_cons_of_mem _ hm.1, hm.2⟩]
    · rw [if_neg hm, lineWrite_memByte]
      obtain ⟨hl1, hl2⟩ := hl l (by simp)
      by_cases he : x / 64 = l
      · by_cases hr : a ≤ x ∧ x < a + b.length ∧ inMirror s x = false
        · have h2 : x / 64 ∈ l :: t ∧ a ≤ x ∧ x < a + b.length ∧ inMirror s x = false := ⟨he ▸ List.mem_cons_self .., hr⟩
          rw [if_pos h2, if_pos]
          · rw [getD_take_drop _ _ _ _ (by omega)]; congr 1; omega
          · refine ⟨by omega, ?_, hr.2.2, ?_, by omega⟩
            · simp only [List.length_take, List.length_drop]; omega
            · rw [← hr.2.2]; exact inMirror_line s (by omega)
        · have h2 : ¬ (x / 64 ∈ l :: t ∧ a ≤ x ∧ x < a + b.length ∧ inMirror s x = false) := fun h => hr h.2
          rw [if_neg h2, if_neg]
          rintro ⟨q1, q2, q3, -⟩
          simp only [List.length_take, List.length_drop] at q2
          exact hr ⟨by omega, by omega, q3⟩
      · have h2 : ¬ (x / 64 ∈ l :: t ∧ a ≤ x ∧ x < a + b.length ∧ inMirror s x = false) := by
          rintro ⟨h1, h2⟩
          rcases List.mem_cons.mp h1 with h1 | h1
          · exact he h1
          · exact hm ⟨h1, h2⟩
        rw [if_neg h2, if_neg]
        · rintro ⟨q1, q2, -⟩
          simp only [List.length_take, List.length_drop] at q2
          omega

theorem mem_linesOf (a n l : Nat) : l ∈ linesOf a n ↔ 0 < n ∧ a / 64 ≤ l ∧ l * 64 < a + n := by
  unfold linesOf
  split
  · rename_i h; subst h; simp
  · simp only [List.mem_map, List.mem_range]
    constructor
    · rintro ⟨i, hi, rfl⟩; omega
    · rintro ⟨h1, h2, h3⟩; exact ⟨l - a / 64, by omega, by omega⟩

/-- After a write of a range each byte of it in the unified range, outside the mirror area, reads as written; every other
byte reads as before. Poison marks follow `f`. -/
theorem memWriteBy_memByte (s : State) (o : Obs) (a : Nat) (b : List Byte) (f : Nat → Bool) (x : Nat) (hx : x < s.uBytes) :
    memByte (memWriteBy s o a b f) x =
      if a ≤ x ∧ x < a + b.length ∧ inMirror s x = false then b.getD (x - a) 0 else memByte s x := by
  have h := pieces_memByte o a b f x (linesOf a b.length) s hx (fun l hl => by rw [mem_linesOf] at hl; omega)
  refine h.trans ?_
  by_cases hc : a ≤ x ∧ x < a + b.length ∧ inMirror s x = false
  · rw [if_pos hc, if_pos ⟨by rw [mem_linesOf]; omega, hc⟩]
  · rw [if_neg hc, if_neg (fun h => hc h.2)]

/-- The same where the whole write is poisoned or clean. -/
theorem memWrite_memByte (s : State) (o : Obs) (a : Nat) (b : List Byte) (p : Bool) (x : Nat) (hx : x < s.uBytes) :
    memByte (memWrite s o a b p) x =
      if a ≤ x ∧ x < a + b.length ∧ inMirror s x = false then b.getD (x - a) 0 else memByte s x :=
  memWriteBy_memByte s o a b (fun _ => p) x hx

theorem memWrite_agents (s : State) (o : Obs) (a : Nat) (b : List Byte) (p : Bool) : SameAgents s (memWrite s o a b p) := by
  have := forAll_induct (SameAgents s) (fun (q : Nat × Nat) s => lineWrite s o q.1 ((b.drop (q.1 - a)).take q.2) p)
    (fun _ t h => h.trans (lineWrite_spec t _ _ _ _).1) (linePieces a b.length) s (SameAgents.refl s)
  exact this

/-- One store that becomes visible, through the home with no copy left where it is not cached (R296). -/
theorem performStore_spec (s : State) (o : Obs) (st : Store) :
    SameAgents s (memWrite (if st.nc = true then uncache s st.pa st.bytes.length else s) o st.pa st.bytes st.poison) ∧
    ∀ x, x < s.uBytes → memByte (memWrite (if st.nc = true then uncache s st.pa st.bytes.length else s) o st.pa st.bytes st.poison) x =
      if st.pa ≤ x ∧ x < st.pa + st.bytes.length ∧ inMirror s x = false then st.bytes.getD (x - st.pa) 0 else memByte s x := by
  have h : SameAgents s (if st.nc = true then uncache s st.pa st.bytes.length else s) ∧
      SameMem s (if st.nc = true then uncache s st.pa st.bytes.length else s) := by
    split
    · obtain ⟨h1, -, -, -, h5, h6⟩ := uncache_maintains s st.pa st.bytes.length
      obtain ⟨f1, f2⟩ := uncache_frame s st.pa st.bytes.length
      exact ⟨⟨f1, fun a => by simp only [inMirror, f2], h5, h6⟩, h1⟩
    · exact ⟨SameAgents.refl s, fun _ => rfl⟩
  obtain ⟨ha, hm⟩ := h
  generalize (if st.nc = true then uncache s st.pa st.bytes.length else s) = u at ha hm ⊢
  refine ⟨ha.trans (memWrite_agents u _ _ _ _), fun x hx => ?_⟩
  rw [memWrite_memByte _ _ _ _ _ _ (ha.uBytes ▸ hx), ha.2.1, hm]

theorem performStores_agents (s : State) (o : Obs) (l : List Store) : SameAgents s (performStores s o l) :=
  forAll_induct (SameAgents s) _ (fun st t h => h.trans (performStore_spec t o st).1) l s (SameAgents.refl s)

/-- Stores that become visible in order leave memory as the buffer's owner read it (R213, R215). -/
theorem performStores_memByte (s : State) (o : Obs) (l : List Store) (x : Nat) (hx : x < s.uBytes) (hm : inMirror s x = false) :
    memByte (performStores s o l) x = fwdByte s l x := by
  suffices ∀ (l : List Store) (u : State) (v : Byte), SameAgents s u → memByte u x = v →
      memByte (performStores u o l) x = l.foldl (fun v st =>
        if st.pa ≤ x ∧ x < st.pa + st.bytes.length then st.bytes.getD (x - st.pa) 0 else v) v from
    this l s _ (SameAgents.refl s) rfl
  intro l
  induction l with
  | nil => exact fun u v _ h => h
  | cons st t ih =>
    intro u v hu hv
    obtain ⟨h1, h2⟩ := performStore_spec u o st
    refine ih _ _ (hu.trans h1) ?_
    rw [h2 x (hu.uBytes ▸ hx), hu.2.1, hm, hv]
    simp

/-- With no earlier moment in play, a load gives each byte as the reader's own stores and memory give it (R38, R209). -/
theorem loadBytes_none (s : State) (n : Nat) (buf : List Store) (a len : Nat) : loadBytes s none n buf a len = fwdRead s buf a len :=
  rfl

/-- A byte that a load finds is the one that memory holds or the one it held at the earlier moment (R211, R215). -/
theorem pastByte_cases (s : State) (x : Earlier) (n a : Nat) :
    pastByte s (some x) n a = memByte s a ∨ (pastByte s (some x) n a = look 0 x.mem a ∧ nHas (a / 8) x.since = false) := by
  unfold pastByte
  dsimp only
  split
  · rename_i h
    simp only [Bool.and_eq_true, Bool.not_eq_true'] at h
    exact .inr ⟨rfl, h.1.1⟩
  · exact .inl rfl

end Sys2Proof.Machine
end

