-- ==== Sys2Proof/Tests/Slice0.lean ====
section
/-! SUPPORT. Tests of the model: words, well-formedness, worked examples, single steps, and for each statement a state
and operands that meet the hypotheses of its clauses. -/

open Sys2Proof Sys2Proof.Machine
set_option maxRecDepth 20000
namespace Sys2Proof.Tests

/-! ### Small states -/

/-- Operands of an instruction. -/
def op (who : Agent) (dst s1 s2 p imm : Nat) : MOp :=
  { who := who, dst := BitVec.ofNat 5 dst, src1 := BitVec.ofNat 5 s1, src2 := BitVec.ofNat 5 s2, pred := BitVec.ofNat 3 p,
    imm := BitVec.ofNat 35 imm }

def e0 : Agent := .engine 0
def u5 : Agent := .unit 5

/-- A package in service with every feature. -/
def full : State := { State.reset with pkg := { State.reset.pkg with feature := 0x3FFF, pwr := .running } }

/-- An instruction as the dispatcher captured it. -/
def entry (w : Word) (a b c : Word) (rs : List Word) : Entry :=
  { dsn := 7, addr := 0x1000, word := w, s1 := a, s2 := b, sd := c, regs := rs }

/-- The engine `g` running, with the entry at the head of the queues that its word names. -/
def holding (g : Engine) (en : Entry) : Engine :=
  let q (k : Nat) : List Entry := if k ∈ wordQueues en.word then [en] else []
  { g with state := .running, q0 := q 0, q1 := q 1, q2 := q 2, q3 := q 3, q4 := q 4, q5 := q 5 }

/-- Engine 0 stands at the word with these captured operands. -/
def engAt (g : Engine) (w a b : Word) : State := full.setEng 0 (holding g (entry w a b 0 []))

/-- Unit 5 stands at the word. -/
def unitAt (c : CupUnit) (w : Word) : State :=
  { full with
    units := [(5, { c with inv := some { launch := 1, granule := 0, kernel := 0x100 } })]
    kernels := [(0, { owner := 0, entry := 0, code := [w] })]
    launches := [(1, { cc := 0, engine := none, seq := 1, words := List.replicate 16 0, running := [0] })] }

/-- One gigabyte that ASN 0 reaches at its own addresses, for every requester used here. -/
def wide : Xlat := { asn := 0, vbase := 0, size := 2 ^ 30, pbase := 0, r := true, w := true, x := true, u := true, d := true }
def mapped (s : State) : State :=
  { s with
    astCache := [(0, 0x9000000000000000), (0x100000, 0x9000000000000000)]
    tlb := [(0, [wide]), (1, [wide]), (16, [wide]), (64, [wide])] }

/-- The row `w` may execute with its guard on, or off. -/
def on (s : State) (who : Agent) (w : Word) : Bool := (ready s who w).isSome && agGuard s who w
def off (s : State) (who : Agent) (w : Word) : Bool := (ready s who w).isSome && !agGuard s who w

/-- The next state of a command. -/
def after (i : Instr) (s : State) : Option State :=
  match exec i s with
  | .next t => some t
  | .fault _ => none
  | .refused _ => none

/-! ### Witnesses for the hypotheses of the statements -/

/-- ScalarArithmetic, on an engine and on a unit. -/
theorem wit_scalarArithmetic : ∀ x ∈ (List.range 0x18).map (fun c => (c, 2, 3, 0)) ++
      (0x29 :: (List.range 8).map (0x20 + ·)).map (fun c => (c, 2, 0, 5)) ++ [(0x28, 0, 0, 0x7FFFFFFFF)],
    on (engAt {} (mkWord x.1 0 (op e0 1 x.2.1 x.2.2.1 0 x.2.2.2)) 9 8) e0 (mkWord x.1 0 (op e0 1 x.2.1 x.2.2.1 0 x.2.2.2)) = true ∧
    on (unitAt {} (mkWord x.1 0 (op u5 1 x.2.1 x.2.2.1 0 x.2.2.2))) u5 (mkWord x.1 0 (op u5 1 x.2.1 x.2.2.1 0 x.2.2.2)) = true := by decide

/-- ScalarRead: every selector of each agent. -/
theorem wit_scalarRead :
    (∀ k ∈ [0, 1, 2, 3, 4], on (engAt {} (mkWord 0x2A 0 (op e0 1 0 0 0 k)) 0 0) e0 (mkWord 0x2A 0 (op e0 1 0 0 0 k)) = true) ∧
    ∀ k ∈ [0, 3], on (unitAt {} (mkWord 0x2A 0 (op u5 1 0 0 0 k))) u5 (mkWord 0x2A 0 (op u5 1 0 0 0 k)) = true := by decide

/-- GuardOff: the rows of both agents, of the engine alone and of the unit alone, under P1 with every lane false. -/
theorem wit_guardOff_both : ∀ c ∈ List.range 0x18 ++ (List.range 0x0B).map (0x20 + ·) ++ (List.range 7).map (0x40 + ·) ++
      (List.range 4).map (0x48 + ·) ++ (List.range 7).map (0x50 + ·) ++ (List.range 4).map (0x58 + ·),
    off (engAt {} (mkWord c 0 (op e0 0 0 0 1 0)) 0 0) e0 (mkWord c 0 (op e0 0 0 0 1 0)) = true ∧
    off (unitAt {} (mkWord c 0 (op u5 0 0 0 1 0))) u5 (mkWord c 0 (op u5 0 0 0 1 0)) = true := by decide
theorem wit_guardOff_fences :
    (∀ k ∈ [0, 1, 2], off (engAt {} (mkWordTop 0x08 6 33 k (op e0 0 0 0 1 0)) 0 0) e0 (mkWordTop 0x08 6 33 k (op e0 0 0 0 1 0)) = true ∧
      off (unitAt {} (mkWordTop 0x08 6 33 k (op u5 0 0 0 1 0))) u5 (mkWordTop 0x08 6 33 k (op u5 0 0 0 1 0)) = true) ∧
    off (engAt {} (mkWord 0 7 (op e0 0 2 3 1 0)) 0 0) e0 (mkWord 0 7 (op e0 0 2 3 1 0)) = true ∧
    off (unitAt {} (mkWord 0 7 (op u5 0 2 3 1 0))) u5 (mkWord 0 7 (op u5 0 2 3 1 0)) = true := by decide
theorem wit_guardOff_one :
    (∀ x ∈ [(0, 6, 0x800000), (1, 6, 0x800000), (2, 6, 0x800000), (3, 6, 0x800000), (9, 6, 0), (0xA, 6, 0), (0xB, 6, 0),
        (0, 4, 0), (1, 4, 0), (2, 4, 0), (0, 5, 0), (1, 5, 0x20000000), (1, 7, 0), (2, 7, 0), (3, 7, 0), (4, 7, 0)],
      off (engAt {} (mkWord x.1 x.2.1 (op e0 0 0 0 1 x.2.2)) 0 0) e0 (mkWord x.1 x.2.1 (op e0 0 0 0 1 x.2.2)) = true) ∧
    (∀ c ∈ [0, 1], off (unitAt {} (mkWord c 4 (op u5 0 2 3 1 0))) u5 (mkWord c 4 (op u5 0 2 3 1 0)) = true) ∧
    off (unitAt {} (mkWord 4 4 (op u5 0 2 3 1 0x20000000))) u5 (mkWord 4 4 (op u5 0 2 3 1 0x20000000)) = true := by decide

/-- LocalMemory: a load and a store whose last byte is the last of the space, one past it, and a poisoned row. -/
theorem wit_localMemory : ∀ x ∈ [(0x50, 1), (0x51, 2), (0x52, 4), (0x53, 8), (0x54, 1), (0x55, 2), (0x56, 4), (0x58, 1), (0x59, 2), (0x5A, 4), (0x5B, 8)],
    let o := op e0 1 2 0 0 0
    let o' := op e0 0 2 3 0 0
    let ok (o : MOp) : Bool := on (engAt { s := [(2, BitVec.ofNat 64 (2 ^ 22 - x.2))] } (mkWord x.1 0 o) 0 0) e0 (mkWord x.1 0 o) &&
      localAddr (engAt { s := [(2, BitVec.ofNat 64 (2 ^ 22 - x.2))] } (mkWord x.1 0 o) 0 0) o + x.2 == agLocal e0 &&
      on (engAt { s := [(2, BitVec.ofNat 64 (2 ^ 22 - x.2 + 1))] } (mkWord x.1 0 o) 0 0) e0 (mkWord x.1 0 o) &&
      decide (agLocal e0 < localAddr (engAt { s := [(2, BitVec.ofNat 64 (2 ^ 22 - x.2 + 1))] } (mkWord x.1 0 o) 0 0) o + x.2)
    (if x.1 < 0x58 then ok o else ok o') = true := by decide
theorem wit_localMemory_poison : ∀ x ∈ [(0x50, 1), (0x51, 2), (0x52, 4), (0x53, 8), (0x54, 1), (0x55, 2), (0x56, 4)],
    let o := op e0 1 2 0 0 0
    let s := engAt { tsPoison := [0] } (mkWord x.1 0 o) 0 0
    on s e0 (mkWord x.1 0 o) = true ∧ agPois (agSense s e0 (localAddr s o) x.2) e0 (localAddr s o) x.2 = true := by decide

/-- LocalWrite: a whole row, and a part of one. -/
theorem wit_localWrite : (64 ≤ 64 * 1 ∧ 64 * 1 + 64 ≤ 64 + (List.replicate 64 (0 : Byte)).length) ∧
    (64 * 0 + 64 ≤ 64 ∨ 64 + 64 ≤ 64 * 0) ∧ (64 * 1 < 127 + [(0 : Byte)].length ∧ 127 < 64 * 1 + 64 ∧ 127 > 64 * 1) := by decide

/-- MemoryAccess: an engine's access, and a unit's, that reaches memory. -/
def reaches (s : State) (o : MOp) (w : Word) (n : Nat) (acc : Acc) : Bool :=
  match o.who, ready s o.who w with
  | .engine e, some en => (match scalarReach s o e.val en (memAddr s o) n acc with
    | (t, .memory l cached) => (neededLines (t.eng e.val) l cached).all (fun x => !memWaits t (x * 64) 1) && (t.eng e.val).scMiss.isNone &&
        l.all (fun p => !memPoisoned t p.1 p.2) && decide (l ≠ [])
    | _ => false)
  | .unit x, some _ => (match kTranslate s x.val (memAddr s o) n acc with
    | (t, .ok l) => !(kBytes t x.val l).2 && decide (l ≠ [])
    | _ => false)
  | _, none => false
theorem wit_memoryAccess : ∀ x ∈ [(0x40, 1), (0x41, 2), (0x42, 4), (0x43, 8), (0x44, 1), (0x45, 2), (0x46, 4), (0x48, 1), (0x49, 2), (0x4A, 4), (0x4B, 8)],
    let d := if x.1 < 0x48 then 1 else 0
    let acc : Acc := if x.1 < 0x48 then .r else .w
    let w (who : Agent) : Word := mkWord x.1 0 (op who d 2 (3 * (1 - d)) 0 0)
    let s := mapped (engAt { s := [(2, 0x2040)] } (w e0) 0 0)
    let t := mapped (unitAt { s := [(2, 0x2040)] } (w u5))
    on s e0 (w e0) && reaches s (op e0 d 2 (3 * (1 - d)) 0 0) (w e0) x.2 acc &&
      on t u5 (w u5) && reaches t (op u5 d 2 (3 * (1 - d)) 0 0) (w u5) x.2 acc = true := by decide

/-- DrainedStoresVisible: an address of the unified range outside the mirror area. -/
theorem wit_drained : 0 < State.reset.uBytes ∧ inMirror State.reset 0 = false := by decide

/-- ControlFlow and Halts: an engine stands at the word, which its instruction cache holds at 0x1000. -/
def atPc (g : Engine) (w : Word) : State :=
  full.setEng 0 { g with state := .running, pc := 0x1000, icache := [(64, leBytes 8 w.toNat ++ List.replicate 56 0)] }
def stands (s : State) (w : Word) : Bool :=
  (s.eng 0).runs && (s.eng 0).hold.isNone && wordDefined s.pkg.feature w &&
    (match fetchWord s 0 false with
     | (t, some x) => x == w && !(t.eng 0).controlHeld w
     | _ => false)

def controlWords (who : Agent) (p : Nat) : List Word :=
  [mkWord 0 1 (op who 0 0 0 p 2), mkWord 3 1 (op who 1 0 0 p 2), mkWord 4 1 (op who 1 2 0 p 0), mkWord 5 1 (op who 0 2 0 p 8),
    mkWord 6 1 (op who 1 0 0 p 2), mkWord 8 1 (op who 0 0 0 p 0)] ++
  (List.range 6).map (fun k => mkWordTop 1 1 32 k (op who 0 2 3 p 2)) ++ (List.range 3).map (fun k => mkWordTop 2 1 32 k (op who 0 2 0 p 2))

/-- The same words as numbers, under P0 and under P1. -/
def controls0 : List Word :=
  [0x0020000000000002, 0x0321000000000002, 0x0421100000000000, 0x0520100000000008, 0x0621000000000002, 0x0820000000000000,
    0x012010C000000002, 0x012010C100000002, 0x012010C200000002, 0x012010C300000002, 0x012010C400000002, 0x012010C500000002,
    0x0220100000000002, 0x0220100100000002, 0x0220100200000002]
def controls1 : List Word :=
  [0x0020000800000002, 0x0321000800000002, 0x0421100800000000, 0x0520100800000008, 0x0621000800000002, 0x0820000800000000,
    0x012010C800000002, 0x012010C900000002, 0x012010CA00000002, 0x012010CB00000002, 0x012010CC00000002, 0x012010CD00000002,
    0x0220100800000002, 0x0220100900000002, 0x0220100A00000002]
theorem wit_controlWords : controlWords e0 0 = controls0 ∧ controlWords e0 1 = controls1 ∧ controlWords u5 0 = controls0 ∧
    controlWords u5 1 = controls1 := ⟨by decide, by decide, by decide, by decide⟩
theorem wit_controlFlow_engine : (controls0.all fun w => stands (atPc {} w) w && Engine.guardOf {} w) = true ∧
    (controls1.all fun w => stands (atPc {} w) w && !Engine.guardOf {} w) = true := by decide
theorem wit_controlFlow_unit : (controls0.all fun w => on (unitAt {} w) u5 w) = true ∧ (controls1.all fun w => off (unitAt {} w) u5 w) = true := by
  decide
/-- A jump to an aligned and to a misaligned target. -/
theorem wit_controlFlow_jump : ((Engine.sReg { s := [(2, 0x2000)] } 2 + (op e0 0 2 0 0 8).imm.signExtend 64).toNat % 8 = 0) ∧
    ((Engine.sReg { s := [(2, 0x2000)] } 2 + (op e0 0 2 0 0 4).imm.signExtend 64).toNat % 8 ≠ 0) := by decide
theorem wit_halts : stands (atPc {} (mkWord 7 1 (op e0 0 0 0 0 0))) (mkWord 7 1 (op e0 0 0 0 0 0)) = true ∧
    ((atPc {} (mkWord 7 1 (op e0 0 0 0 0 0))).eng 0).queuesEmpty = true ∧
    on (unitAt {} (mkWord 7 1 (op u5 0 0 0 0 0))) u5 (mkWord 7 1 (op u5 0 0 0 0 0)) = true := by decide

/-- TileCounters: a counter short of the value by one half of the range and by one less; an engine at rest. -/
theorem wit_tileCounters :
    (∀ c ∈ [1, 2], on (engAt {} (mkWord c 6 (op e0 0 2 0 0 0x7E0800001)) 5 0) e0 (mkWord c 6 (op e0 0 2 0 0 0x7E0800001)) = true) ∧
    on (engAt { tc := [(63, 1)] } (mkWord 0 6 (op e0 0 2 0 0 0x7E0800001)) 0 0) e0 (mkWord 0 6 (op e0 0 2 0 0 0x7E0800001)) = true ∧
    asleep full 0 = false ∧ (0x7E0800001 / 2 ^ 29 = 63) ∧
    (((1 : BitVec 32) - BitVec.ofNat 32 (0 + 0x7E0800001 % 2 ^ 23)).toNat < 2 ^ 31) ∧
    2 ^ 31 ≤ ((0 : BitVec 32) - BitVec.ofNat 32 (0 + 0x7E0800001 % 2 ^ 23)).toNat ∧
    (full.eng 0).migrating = none ∧ (full.eng 0).unplaced = false ∧ (full.eng 0).state = .idle := by decide

/-- WaitsReleased: a TCWAIT at the head of queue 0 that waits and is released, and one that an addition releases. -/
def waiting (rel : Bool) : State :=
  full.setEng 0 (holding {} { entry (mkWord 0 6 (op e0 0 0 0 0 0x800001)) 0 0 0 [] with waits := true, released := rel })
theorem wit_waitsReleased : (∃ x, ((waiting true).eng 0).queue 0 = [x] ∧ x.waits = true ∧ x.released = true ∧
      headEntry (waiting true) 0 x.word = some x) ∧
    (∃ x ∈ ((tcUpdate (waiting false) 0 false 0 1).eng 0).entries, x.waits = true ∧ wOpc x.word = 0 ∧ syncTc x.word = 0 ∧
      tcReaches (((tcUpdate (waiting false) 0 false 0 1).eng 0).tcVal 0) (syncX x) = true) :=
  ⟨⟨_, rfl, by decide, by decide, by decide⟩, ⟨_, List.mem_cons_self, by decide, by decide, by decide, by decide⟩⟩

/-- TicketInstructions: WAITT with one Ticket held, to the first and the last place; TSEND to an engine's endpoint. -/
theorem wit_ticketInstructions :
    let w (l : Nat) : Word := mkWord 3 6 (op e0 0 2 0 0 (0x800000 + l))
    let s (l : Nat) : State := { engAt {} (w l) 0 0 with eps := [(epEngine 0, { slots := [{ sender := 1, seq := 1, payload := List.replicate 64 7 }] })] }
    (∀ l ∈ [0, 2 ^ 22 - 128], on (s l) e0 (w l) = true ∧ ((s l).ep (epEngine 0)).slots.length = 1 ∧ l % 64 = 0 ∧ l + 72 ≤ 2 ^ 22) := by
  decide
def sends (who : Agent) (s : State) : Bool :=
  on s who (mkWord 0 7 (op who 0 2 3 0 0)) && !agPois (agSense s who 0 64) who 0 64 &&
    epAccepts s (epEngine 1) (agAsn s who) (List.replicate 64 0) && (s.ep (epEngine 1)).waiting.isEmpty &&
    epFree (s.ep (epEngine 1)) && mayLeave (s.ep (epEngine 1)) (senderOf who)
theorem wit_tsend :
    sends e0 ((engAt { s := [(2, BitVec.ofNat 64 (epEngine 1))] } (mkWord 0 7 (op e0 0 2 3 0 0)) 0 0).setEng 1 { state := .running }) = true ∧
    sends u5 ((unitAt { s := [(2, BitVec.ofNat 64 (epEngine 1))] } (mkWord 0 7 (op u5 0 2 3 0 0))).setEng 1 { state := .running }) = true := by
  decide

/-- Fences. -/
theorem wit_fences : ∀ k ∈ [0, 1, 2],
    on (engAt {} (mkWordTop 0x08 6 33 k (op e0 0 0 0 0 0)) 0 0) e0 (mkWordTop 0x08 6 33 k (op e0 0 0 0 0 0)) = true ∧
      on (unitAt {} (mkWordTop 0x08 6 33 k (op u5 0 0 0 0 0))) u5 (mkWordTop 0x08 6 33 k (op u5 0 0 0 0 0)) = true := by decide

/-- StationSeedFlagsExpect: alone, and in an active pair that the engine takes part in; EXPECT of the most chunks. -/
theorem wit_station : ∀ k ∈ [0, 0x30000000],
    on (engAt {} (mkWord 9 6 (op e0 0 0 0 0 k)) 0 0) e0 (mkWord 9 6 (op e0 0 0 0 0 k)) = true ∧
      (∀ q ∈ [1, 2, 3, 4, 5], ((engAt {} (mkWord 9 6 (op e0 0 0 0 0 k)) 0 0).eng 0).queue q = []) ∧
      workEnded (engAt {} (mkWord 9 6 (op e0 0 0 0 0 k)) 0 0) 0 = true ∧ full.holding = false ∧ tdActive full = false := by decide
/-- In an active pair that engine 0 takes part in. -/
def paired (s : State) : State := { s with td := { s.td with enable := true, state := 4, parts := [(0, 1)] } }
theorem wit_station_paired : on (paired (engAt {} (mkWord 9 6 (op e0 0 0 0 0 0x10000000)) 0 0)) e0 (mkWord 9 6 (op e0 0 0 0 0 0x10000000)) = true ∧
    (tdActive (paired full) && tdPart (paired full) 0) = true ∧ nHas 0 (paired full).td.epochAhead = false := by decide
theorem wit_seedFlagsExpect :
    on (engAt {} (mkWord 0xA 6 (op e0 0 2 3 0 0)) 1 2) e0 (mkWord 0xA 6 (op e0 0 2 3 0 0)) = true ∧
    on (engAt {} (mkWord 4 7 (op e0 0 0 0 0 31)) 0 0) e0 (mkWord 4 7 (op e0 0 0 0 0 31)) = true ∧
    on (engAt {} (mkWord 0xB 6 (op e0 0 2 3 0 0)) 0 (BitVec.ofNat 64 (2 ^ 40))) e0 (mkWord 0xB 6 (op e0 0 2 3 0 0)) = true ∧
    expectChunks 0 (2 ^ 40) ≤ 2 ^ 24 ∧ full.shut = false ∧ backPressured full 0 = false := by decide

/-- A copy of 256 bytes in four cars, from 0x1000 to 0x2000, and a launch of FILL over 4 KiB. -/
def copyWords : List Word := [0x0100000000000000, 0x1000, 0x2000, 0x0040000000000100] ++ List.replicate 12 0
def fillWords : List Word := [0x0100100000000000, 0x4000, 0x1000] ++ List.replicate 5 0 ++ [0x55, 1] ++ List.replicate 6 0
def tsOf (at_ : Nat) (ws : List Word) : Tab Byte :=
  ((ws.flatMap (fun w => leBytes 8 w.toNat)).zipIdx).filterMap (fun b => if b.1 = 0 then none else some (at_ + b.2, b.1))

/-- Submissions: a descriptor and a launch that pass the checks, the credit word, and an atomic with RET. -/
theorem wit_submissions :
    (descCheck (descF copyWords) 0x3FFF 0 true true = 0 ∧ full.shut = false ∧ backPressured full 0 = false ∧ (full.stream 1).slots.length < 8) ∧
    (let w := mkWord 0 4 (op e0 0 16 0 0 0x400000000)
     ready (full.setEng 0 (holding {} (entry w 0 0 0 copyWords))) e0 w = some (entry w 0 0 0 copyWords)) ∧
    (let w := mkWord 1 4 (op e0 0 2 0 0 0x400000080)
     let s := engAt { ts := tsOf 128 copyWords } w 0 0
     on s e0 w = true ∧ wordsOf ((s.eng 0).tsRead 128 128) 16 = copyWords ∧ (s.eng 0).tsPois 128 128 = false) ∧
    (let w := mkWord 2 4 (op e0 0 2 0 0 0x400000008)
     on (engAt {} w 0 0) e0 w = true ∧ (BitVec.ofNat 35 0x400000008).getLsbD 33 = false) := by decide
theorem wit_submissions_near :
    (let w := mkWord 0 5 (op e0 0 2 0 0 0x80)
     let s := engAt { ts := tsOf 128 fillWords } w 0 0
     on s e0 w = true ∧ wordsOf ((s.eng 0).tsRead 128 128) 16 = fillWords ∧ (s.eng 0).tsPois 128 128 = false) ∧
    (launchCheck full (launchF fillWords) 0 true = 0 ∧ (launchF fillWords).len ≠ 0) ∧
    (let w := mkWord 1 5 (op e0 4 2 3 0 0x30000008)
     on (engAt {} w 0x2000 1) e0 w = true ∧ 0x2000 % (2 * 2 ^ (0x30000008 / 2 ^ 29 % 4)) = 0 ∧ (BitVec.ofNat 35 0x30000008).getLsbD 28 = true) := by decide

/-- CacheMaintenance: a line that engine 0 reaches. -/
theorem wit_cacheMaintenance : ∀ opc ∈ [1, 2, 3],
    let o := op e0 0 2 0 0 0
    let s := mapped (engAt { s := [(2, 0x2040)] } (mkWord opc 7 o) 0 0)
    on s e0 (mkWord opc 7 o) = true ∧
      (match translate s (ccOfEngine 0) (engKeys 0) (s.eng 0).asn (memAddr s o) .r true with
       | (t, .ok x) => decide (region t (x.pa (memAddr s o)) = .unified) && !memWaits t (x.pa (memAddr s o)) 1
       | _ => false) = true := by decide

/-- EngineControl: an engine at rest, running, parking, and parked; one launch of it, to cancel, and none. -/
theorem wit_engineControl : (∀ g ∈ [({} : Engine), { state := .running }, { state := .parking }, { state := .parked }],
      g.migrating = none ∧ g.unplaced = false ∧ g.exc = none ∧ g.excs = []) ∧ asleep full 0 = false ∧
    (full.stream 0).slots = [] ∧ (full.stream 1).slots = [] ∧ full.launches = [] := by decide
theorem wit_engineControl_cancel :
    let l : Launch := { cc := 0, engine := some 0, seq := 3, words := fillWords, running := [0] }
    l.engine = some 0 ∧ l.seq = (3 : Word).toNat ∧ l.aborting = none ∧ l.running ≠ [] := by decide

/-- Dispatching: an instruction that its queue takes, one that finds its queue full, and a slot without one. -/
theorem wit_dispatching :
    let w := mkWord 0 0 (op e0 1 2 3 0 0)
    let fetches (s : State) : Bool := match fetchWord s 0 false with
      | (t, some x) => x == w && !dispatcherRaises t.pkg.feature w && wCls w != 1
      | _ => false
    let busy : Engine := { q0 := List.replicate 16 (entry (mkWord 8 1 (op e0 0 0 0 0 0)) 0 0 0 []) }
    (fetches (atPc {} w) && (wordQueues w).all (fun q => decide ((((atPc {} w).eng 0).queue q).length < queueDepth q)) &&
      ((atPc {} w).eng 0).runs && !((atPc {} w).eng 0).scHeld && ((atPc {} w).eng 0).hold.isNone) = true ∧
    (fetches (atPc busy w) && (wordQueues w).any (fun q => decide (queueDepth q ≤ (((atPc busy w).eng 0).queue q).length))) = true := by
  decide

/-- Migration: to a spare slot of the same Spire, and the switch of a migration whose engine rests. -/
theorem wit_migration : mayMigrate full 0 35 = true ∧ (∀ sp, (full.spire sp).drowse = false) ∧
    (let s := full.setEng 0 { migrating := some 35 }
     (s.eng 0).migrating = some 35 ∧ (s.eng 0).heldTc = [] ∧ (s.eng 0).heldCtrl = [] ∧ streamRests (s.stream 0) = true ∧
       streamRests (s.stream 1) = true ∧ s.holding = false) :=
  ⟨by decide, fun _ => rfl, by decide⟩

/-- VectorElementwise: every row on both agents; the integer rows in I32, division and the fused rows in FP32. -/
def vImm (t opx : Nat) : Nat := t * 2 ^ 31 + opx
def vRow (who : Agent) (opc t dst s2 opx : Nat) : Bool :=
  let w := mkWord opc 2 (op who dst 2 s2 0 (vImm t opx))
  match who with
  | .engine _ => (ready (engAt {} w 0 0) who w).isSome
  | .unit _ => (ready (unitAt {} w) who w).isSome
theorem wit_vectorElementwise : ∀ who ∈ [e0, u5],
    (∀ c ∈ [0, 1, 2, 5, 6, 0xC, 0xD, 0xE, 0xF, 0x10, 0x11], vRow who c 8 1 3 0 = true) ∧ (∀ c ∈ [7, 8], vRow who c 8 1 0 0 = true) ∧
    (∀ c ∈ [0, 1, 2, 3, 5, 6, 9, 0xA, 0xB], vRow who c 1 1 3 0 = true) ∧ (∀ c ∈ [4, 7, 8], vRow who c 1 1 0 0 = true) := by decide

/-- VectorSelection: VCVT to the same, a wider and a narrower TYPE, the last part of each. -/
theorem wit_vectorSelection : ∀ who ∈ [e0, u5], vRow who 0x19 8 1 3 7 = true ∧ vRow who 0x1A 8 1 0 0 = true ∧
    vRow who 0x1C 8 1 3 0 = true ∧ vRow who 0x1D 8 1 0 1 = true ∧ vRow who 0x1D 2 1 0 (1 + 16) = true ∧ vRow who 0x1D 1 1 0 (2 + 16) = true := by
  decide
theorem wit_viota : ∀ who ∈ [e0, u5], (let w := mkWord 0x1B 2 (op who 1 0 0 0 (vImm 8 0))
    match who with
    | .engine _ => (ready (engAt {} w 0 0) who w).isSome
    | .unit _ => (ready (unitAt {} w) who w).isSome) = true := by decide

/-- VectorPredicates. -/
theorem wit_vectorPredicates : ∀ who ∈ [e0, u5], (∀ c ∈ [0x30, 0x31, 0x32, 0x33], vRow who c 0 1 3 0 = true) ∧
    vRow who 0x35 0 1 0 0 = true ∧ vRow who 0x36 0 1 0 0 = true ∧ (∀ k ∈ List.range 8, vRow who 0x18 8 1 3 k = true ∧ vRow who 0x18 1 1 3 k = true) := by
  decide
theorem wit_noMarks (i : Nat) : ¬ vBad full e0 32 2 i ∧ ¬ vBad full u5 32 2 i := by
  have he : agVm full e0 2 = 0#256 := rfl
  have hu : agVm full u5 2 = 0#256 := rfl
  simp [vBad, he, hu]

/-- VectorLocalMemory: each row where every lane's address lies in the space: the last 256 bytes, or the first. -/
theorem wit_vectorLocalMemory : ∀ x ∈ [(0x20, 0), (0x21, 0), (0x22, 3), (0x23, 3), (0x24, 3), (0x25, 3)],
    let o := op e0 1 2 x.2 0 (vImm 8 0)
    let w := mkWord x.1 2 o
    let base : Word := if x.1 < 0x22 then 0x3FFF00 else 0
    let k : VAddr := if x.1 < 0x22 then .contiguous else if x.1 < 0x24 then .strided else .indexed
    let s := engAt {} w base 4
    (ready s e0 w).isSome = true ∧ vecBase e0 (entry w base 4 0 []) % 64 = 0 ∧
      ∀ i ∈ [0, 1, 62, 63], vecAddr e0 (entry w base 4 0 []) k 32 (if k = .indexed then agLanes s e0 32 3 else []) i + 4 ≤ agLocal e0 ∧
        vecAddr e0 (entry w base 4 0 []) k 32 (if k = .indexed then agLanes s e0 32 3 else []) i % 4 = 0 := by decide

/-- VectorReductions. -/
theorem wit_vectorReductions : ∀ who ∈ [e0, u5], vRow who 0x40 8 1 0 (8 + 5) = true ∧
    (∀ c ∈ [0x40, 0x41], vRow who c 1 1 0 (8 + 2) = true ∧ vRow who c 8 1 0 (8 + 2) = true) ∧
    (∀ c ∈ [0x42, 0x44], vRow who c 8 2 0 (64 + 8) = true) ∧ vRow who 0x43 8 2 0 (4 * 256) = true ∧ vRow who 0x45 8 1 0 0 = true := by decide

/-- MatrixMultiply and SparseMatrixMultiply: operands that end with the tile store, in I8 and in BF16. -/
theorem wit_matrixMultiply :
    (∀ f ∈ [3, 4, 0xB], let w := mkWord 0 3 (op e0 1 2 3 0 (f * 2 ^ 31)); (ready (engAt {} w (BitVec.ofNat 64 (2 ^ 22 - 64)) 0) e0 w).isSome = true) ∧
    (2 ^ 22 - 64 + denseBytes 1 1 (mmaFmt 3).1 ≤ 2 ^ 22 ∧ 0 + 128 * 32 ≤ 2 ^ 22 ∧ (2 ^ 22 - 64) % 64 = 0 ∧
      2 ^ 22 - 64 + denseBytes 1 1 (mmaFmt 0xB).1 ≤ 2 ^ 22 ∧ 0 + denseBytes 128 1 (mmaFmt 0xB).2 ≤ 2 ^ 22) ∧
    (({} : Engine).tsLatent = [] ∧ ({} : Engine).tsPoison = [] ∧ ({} : Engine).accLatent = [] ∧ ({} : Engine).ap = []) ∧
    (∀ f ∈ [3, 4, 0xB], let w := mkWord 1 3 (op e0 1 2 3 0 (f * 2 ^ 31)); (ready (engAt {} w 0 0x10000) e0 w).isSome = true) ∧
    0 + denseBytes 128 4 (mmaFmt 0xB).1 ≤ 2 ^ 22 ∧ 0x10000 + sparseBytes (mbstCode 0xB) (leNat (Engine.tsRead {} 0x10000 32)) ≤ 2 ^ 22 ∧
    0 + 128 * 128 ≤ 2 ^ 22 := by decide

/-- AccumulatorMoves: rows of each format at the end of the tile store. -/
theorem wit_accumulatorMoves :
    (let w := mkWord 8 3 (op e0 1 0 0 0 0); (ready (engAt {} w 0 0) e0 w).isSome = true) ∧
    (∀ f ∈ [0, 1], let w := mkWord 9 3 (op e0 1 2 3 0 (f * 2 ^ 31)); (ready (engAt {} w (BitVec.ofNat 64 (2 ^ 22 - 16 * ofmtBits f)) 0) e0 w).isSome = true ∧
      (2 ^ 22 - 16 * ofmtBits f) % 64 = 0) ∧
    (∀ f ∈ [0, 1, 2, 3, 4, 5, 6, 7], let w := mkWord 0xA 3 (op e0 1 2 3 0 (f * 2 ^ 31)); (ready (engAt {} w 0 0x400) e0 w).isSome = true ∧
      16 * ofmtBits f ≤ 0x400) ∧
    (let w := mkWord 0xB 3 (op e0 1 2 0 0 0xFF); (ready (engAt {} w 0 0) e0 w).isSome = true) ∧
    (let w := mkWord 0xC 3 (op e0 1 2 0 0 0xFF); (ready (engAt {} w 0 0) e0 w).isSome = true) := by decide

/-- KernelBlockCopies, KernelGatherScatter, KernelAtomic and KernelDotProduct: a unit whose launch reaches memory. -/
def unitReach (w : Word) (s : Tab Word) (va n : Nat) (acc : Acc) : Bool :=
  let t := mapped (unitAt { s := s } w)
  on t u5 w && (match kTranslate t 5 va n acc with
    | (u, .ok l) => l.all (fun p => p.1 % 64 == 0 && region u p.1 == .unified && atomicReady u p.1 (min n 8) && !inMirror u p.1) && !(kBytes u 5 l).2
    | _ => false)
theorem wit_kernelBlockCopies : ∀ c ∈ [0, 1],
    let w := mkWord c 4 (op u5 4 2 3 0 0x3FFC0)
    unitReach w [(2, 0x2000), (3, 0x40), (4, 0x40000)] 0x2000 0x40 (if c = 0 then .r else .w) = true ∧
      gFault { dsn := 0, addr := 0, word := w, s1 := 0x2000, s2 := 0x40, sd := 0x40000 } = none := by decide
theorem wit_kernelAtomic : unitReach (mkWord 4 4 (op u5 4 2 3 0 0x50000000)) [(2, 0x2000), (3, 1)] 0x2000 8 .a = true ∧
    (BitVec.ofNat 35 0x50000000).getLsbD 28 = true ∧ 2 * 2 ^ (0x50000000 / 2 ^ 29 % 4) = 8 := by decide
/-- Two active lanes at two addresses. -/
theorem wit_kernelGatherScatter : ∀ x ∈ [(2, 0x400000000), (3, 0x400000000), (5, 0x120000000)],
    let o := op u5 1 2 3 1 x.2
    let w := mkWord x.1 4 o
    let t := mapped (unitAt { s := [(2, 0x2000)], p := [(1, 3)], v := [(3, 0x100000000)] } w)
    let n := if x.1 = 5 then 2 * 2 ^ (x.2 / 2 ^ 29 % 4) else typeWidth (x.2 / 2 ^ 31) / 8
    (match ready t u5 w with
     | some en =>
       let g := kGood (kLanes t u5 en (8 * n)) (8 * n)
       g.2 && decide (g.1.length = 2) && (kLanes t u5 en (8 * n)).all (fun q => !q.2.2) &&
         (match kReach 5 n (if x.1 = 2 then .r else if x.1 = 3 then .w else .a) (g.1.map Prod.snd) t with
          | some (u, ps) => ps.all (fun l => l.all (fun p => atomicReady u p.1 n && !memPoisoned u p.1 n))
          | none => false)
     | none => false) = true := by decide
/-- MXFP8 with one block and one row, at the end of scratch, all of it written. -/
theorem wit_kernelDotProduct :
    let w := mkWord 0 3 (op u5 1 2 3 0 0x280000000)
    on (unitAt { s := [(2, 0x7FFC0), (3, 0x7FFC0)] } w) u5 w = true ∧ 0x7FFC0 % 64 = 0 ∧
      0x7FFC0 + denseBytes 1 1 (mmaFmt (0x280000000 / 2 ^ 31)).1 ≤ 0x80000 ∧
      (denseVec u5 (unitAt {} w) 0x7FFC0 1 1 (mmaFmt (0x280000000 / 2 ^ 31)).1 0).pois = false := by decide

/-- ProvidedKernels and KernelEffects: an invocation of each kernel over 64 bytes that stops nowhere. -/
def runs (id : Nat) : State :=
  mapped { full with
    units := [(5, { inv := some { launch := 1, granule := 0, kernel := id } })]
    launches := [(1, { cc := 0, engine := none, seq := 1, running := [0]
                       words := [BitVec.ofNat 64 (0x0100000000000000 + id * 2 ^ 44), 0x10000, 64] ++ List.replicate 5 0 ++
                         [0x20000, 1, 0, 0x30000] ++ List.replicate 4 0 })] }
def krun (s : State) : KRun :=
  match (s.unit 5).inv, unitLaunch s 5 with
  | some i, some l => { st := s, unit := 5, f := launchF l.words, cc := l.cc, off := i.granule, len := granuleLen (launchF l.words) i.granule }
  | _, _ => { st := s, unit := 5, f := launchF [], cc := 0, off := 0, len := 0 }
theorem wit_runs (id : Nat) : Runs (runs id) 5 id (krun (runs id)) := ⟨_, _, rfl, rfl, rfl, rfl, rfl⟩
theorem wit_kernelEffects : (planFill (krun (runs 1))).stop = none ∧ (planCopy (krun (runs 2))).stop = none ∧
    (planChecksum (krun (runs 3))).stop = none ∧ (planHistogram (krun (runs 0x50))).stop = none ∧
    pbBad (((krun (runs 3)).need (krun (runs 3)).va (krun (runs 3)).len .r).rd (krun (runs 3)).va (krun (runs 3)).len) = false := by decide
theorem wit_providedKernels : (planGather (krun (runs 0x10))).stop = none ∧ (planScatter (krun (runs 0x11))).stop = none ∧
    (planSegReduce (krun (runs 0x20))).stop = none ∧ (planSpmv (krun (runs 0x30))).stop = none ∧
    (planEmbedBag (krun (runs 0x40))).stop = none ∧ (planSegTopk (krun (runs 0x60))).stop = none ∧
    (planMx false (krun (runs 0x70))).stop = none ∧ (planMx true (krun (runs 0x71))).stop = none ∧
    (planMbst true (krun (runs 0x72))).stop = none ∧ (planMbst false (krun (runs 0x73))).stop = none ∧
    (planGemv (krun (runs 0x80))).stop = none := by decide

/-! ShunterEvents: stream 0 with the copy `copyWords`. -/

def xl : Xlat := { asn := 0, vbase := 0, size := 2 ^ 30, pbase := 0, r := true, w := true, u := true, d := true }
def dCopy : Desc := { seq := 1, words := copyWords, segHi := 4, xlats := [xl] }
def str0 (d : Desc) (hold : Nat) : State := mapped (full.setStream 0 { slots := [d], hold := hold })
/-- The copy with a completion record at 0x3000, and with an increment of counter 1 of engine 0 by 1 a car. -/
def recWords : List Word := copyWords.take 5 ++ [0x0106000000000000] ++ List.replicate 8 0 ++ [0x3000, 0]

theorem wit_carIssue : issuable ((str0 dCopy 0).stream 0) = some 0 ∧ ((str0 dCopy 0).stream 0).inFlight < streamLimit (str0 dCopy 0) 0 ∧
    (descF dCopy.words).remote = false ∧ issuable ((str0 { dCopy with issued := 4 } 0).stream 0) = none ∧
    streamLimit (str0 dCopy 0) 0 ≤ ((str0 { dCopy with inflight := [0, 1, 2, 3, 4, 5, 6, 7] } 0).stream 0).inFlight := by decide
theorem wit_carComplete : ∀ ws ∈ [copyWords, recWords], ∀ car ∈ [0, 3],
    let d : Desc := { dCopy with words := ws, issued := 4, inflight := [car], counted := car }
    let s := str0 d 0
    nHas car d.inflight = true ∧ (descF d.words).remote = false ∧ carWaits s d car = false ∧ d.done = [] ∧ d.ended = none ∧
      d.recFault = none ∧ d.phase = .running ∧ (s.eng 0).state ≠ .resetting ∧ (descF d.words).cars = 4 ∧
      ((descF ws).record = 0 → (descF ws).ctEn = false) ∧ ((descF ws).record ≠ 0 → (descF ws).ctEn = true ∧ (descF ws).ctTc = 1) ∧
      (s.eng 0).migrating = none ∧ (s.eng 0).unplaced = false ∧ asleep s 0 = false := by decide
theorem wit_pausedRecord :
    (let d : Desc := { dCopy with phase := .pausing 1 }
     pausedDue ((str0 d 1).stream 0) = some 0 ∧ (descF d.words).record = 0) ∧
    (let d : Desc := { dCopy with words := recWords, phase := .pausing 1 }
     let s := str0 d 1
     let f := descF d.words
     pausedDue (s.stream 0) = some 0 ∧ f.record ≠ 0 ∧
       (tryRecord s (streamCc 0) f.asn f.record (streamObs 0) (recordBytes d.seq 2 1 (d.flags false) d.counted (f.progress d.counted))).2 = .done) := by
  decide
theorem wit_segment :
    (let d : Desc := { dCopy with segHi := 0, xlats := [] }
     segmentDue ((str0 d 0).stream 0) = some 0 ∧ (formSegment (str0 d 0) 0 d 0).2.fault = none) ∧
    (let d : Desc := { dCopy with segHi := 0, xlats := [] }
     let s := full.setStream 0 { slots := [d] }
     segmentDue (s.stream 0) = some 0 ∧
       (match (formSegment s 0 d 0).2.fault with | some pf => pf.car == 0 | none => false) = true ∧ d.counted < (descF d.words).cars) ∧
    segmentDue ((str0 dCopy 0).stream 0) = none := by decide
theorem wit_bookingWalk : ∀ k ∈ [3, 9],
    let q : WalkReq := { asn := 0, va := 0x2000, kind := k }
    let r (s : State) := (translate s 0 [0] q.asn.toNat q.va.toNat .r (decide (q.kind = 9))).2
    ((match r (mapped full) with | .ok _ => true | _ => false) && (match r full with | .fault .. => true | _ => false)) = true := by
  decide

/-! RingControl, RingEntries and LaunchEvents. -/

def rang : Ring := { base := 0x8000, enable := true, producer := 1 }
def tkt (b0 b8 : Byte) : Ticket := { sender := 0x20000000, seq := 1, payload := b0 :: List.replicate 7 0 ++ [b8] ++ List.replicate 55 0 }
theorem wit_ringControl : (full.stream 512).slots = [] ∧ ringLaunches full 0 = [] ∧ ringRops full 0 = [] ∧ ringColls full 0 = [] ∧
    bit 0x100000000 33 = false ∧ bit 0x300000000 33 = true ∧
    (doorbellOf (tkt 0x0F 1).payload = some (0x0F, 1) ∧ doorbellOf (tkt 0x10 1).payload = some (0x10, 1)) ∧
    (doorbellOf (tkt 7 1).payload = some (7, 1) ∧ doorbellOf (tkt 0x13 1).payload = some (0x13, 1)) := by decide

/-- The entry of a ring at 0x8000 in memory that every requester reaches at its own addresses; the Platform cache is off. -/
def ringMem (m : Tab Byte) : State :=
  mapped { full with mem := m, mlId := 1, pcs := [(0, { disable := true, disabled := true })] }
def entryOf (s : State) (cc size : Nat) (p : List Byte → State → Bool) : Bool :=
  match readEntry s cc rang size with
  | (t, .ok bs) => !backPressured t 0 && p bs t
  | _ => false
theorem wit_bulkEntry : rang.open? = true ∧ (ringMem []).shut = false ∧
    entryOf (ringMem (tsOf 0x8000 copyWords)) 0 128 (fun bs t => descCheck (descF (wordsOf bs 16)) t.pkg.feature rang.asn false true == 0) = true ∧
    entryOf (ringMem []) 0 128 (fun bs t => descCheck (descF (wordsOf bs 16)) t.pkg.feature rang.asn false true != 0) = true := by decide
theorem wit_launchEntry :
    entryOf (ringMem (tsOf 0x8000 fillWords)) 0 128 (fun bs t =>
      launchCheck t (launchF (wordsOf bs 16)) rang.asn true == 0 && (launchF (wordsOf bs 16)).len != 0) = true ∧
    entryOf (ringMem []) 0 128 (fun bs t => launchCheck t (launchF (wordsOf bs 16)) rang.asn true != 0) = true := by decide
/-- A remote read of 64 bytes from package 2, and an entry of zeros. -/
def readWords : List Word := [1, 0x0000004000000002, 0x10000, 0x20000, 0, 0, 0, 0]
theorem wit_remoteOpEntry : pkgIdOk (ringMem []).pkgId = true ∧ termFailed (ringMem []) 0 = false ∧
    entryOf (ringMem (tsOf 0x8000 readWords)) 0 64 (fun bs t => ropCheck t (ropF bs) rang.asn == 0 && !opsRefused t (ropF bs).dst) = true ∧
    entryOf (ringMem []) 0 64 (fun bs t => ropCheck t (ropF bs) rang.asn != 0) = true := by decide
/-- A reduction of 16 FP32 elements in the group at 0x9000, whose two members are this package and package 2. -/
def sumWords : List Word := [0x0100000000000000, 0x10000, 0x20000, 16] ++ List.replicate 12 0
def grpMem : Tab Byte := tsOf 0x9000 [2, 0x9100] ++ tsOf 0x9100 [0x00020001]
theorem wit_collectiveEntry :
    (let s := { ringMem (tsOf 0x8000 sumWords ++ grpMem) with grpBase := 0x9000 }
     (s.fwOf 0).failed.testBit 3 = false ∧ entryOf s 0 128 (fun bs t =>
       groupOf t (collF (wordsOf bs 16)).group == some ([1, 2], 0) && collOk t (collF (wordsOf bs 16)) rang.asn 2 &&
         (lostRank t [1, 2] 0).isNone) = true) ∧
    (let s := { ringMem (tsOf 0x8000 (0x0900000000000000 :: sumWords.drop 1) ++ grpMem) with grpBase := 0x9000 }
     entryOf s 0 128 (fun bs t => groupOf t (collF (wordsOf bs 16)).group == some ([1, 2], 0) &&
       !collOk t (collF (wordsOf bs 16)) rang.asn 2) = true) ∧
    entryOf (ringMem []) 0 128 (fun bs t => (groupOf t (collF (wordsOf bs 16)).group).isNone) = true := by decide

/-- A launch of FILL over 4 KiB at 0x4000, undealt, dealt, and with a granule that waits. -/
def lFill : Launch := { cc := 0, engine := none, seq := 3, words := fillWords }
def launched (l : Launch) : State := mapped { full with launches := [(1, l)] }
theorem wit_pageDeal : (launched lFill).holding = false ∧
    (let r (s : State) := (translate s 0 [0] (launchF fillWords).asn ((launchF fillWords).base + 0) .r false).2
     ((match r (launched lFill) with | .ok _ => true | _ => false) && (match r full with | .fault .. => true | _ => false)) = true) ∧
    lFill.dealtTo < (launchF fillWords).len ∧ (launchF fillWords).len ≤ ({ lFill with dealtTo := 0x1000 } : Launch).dealtTo := by
  decide
theorem wit_invocationStart :
    let l : Launch := { lFill with dealtTo := 0x1000, pages := [{ x := xl, off := 0 }], waiting := [0, 0x800] }
    let s := launched l
    (pageAt l 0x800 = some { x := xl, off := 0 } ∧ nHas 0x800 l.waiting = true ∧ memWaits s 0x4800 64 = false) ∧
    (match unitOfPa s (xl.pa ((launchF l.words).base + 0x800)) with
     | some u => decide (u < 384) && decide ((s.stack (u / 32)).thermal < 3) && (s.unit u).inv.isNone && s.sig.moving != some u
     | none => false) = true := by decide
theorem wit_launchCancel :
    (let l := { lFill with running := [0] }
     l.engine = none ∧ l.ring = 0 ∧ l.seq = (3 : Word).toNat ∧ l.aborting = none ∧ l.running ≠ [] ∧ (launched l).units = []) ∧
    (let c : Coll := { tm := 0, ring := 0, seq := 3, words := sumWords, members := [1, 2], rank := 0 }
     c.seq = (3 : Word).toNat ∧ c.final = none ∧ (collF c.words).record = 0) := by decide
theorem wit_kernelCommands : full.pkg.feature.testBit 4 = true ∧ full.holding = false ∧
    (launchF [0x0110000000000000]).kernel = 0x100 ∧ (kernelCommand full 1 0x100 0 0).result ≠ 0 ∧
    (let s := { full with mem := tsOf 0x9000 [0x9100, 1, 0, 0] ++ tsOf 0x9100 [mkWord 8 1 (op u5 0 0 0 0 0)] }
     (kernelCommand s 2 0x100 0 0x9000).kernel.isSome = true) := by decide
theorem wit_atomicPerform :
    let x (ret : Bool) : Atomic := { src := 0, va := 0x2038, size := 8, op := 5, ret := ret, tc := 1 }
    let s (p : NSet) : State := mapped { full with atomics := [(1, x true)], poison := p }
    let at_ (p : NSet) : Bool := match translate (s p) 0 [0] 0 0x2038 .a false with
      | (t, .ok y) => atomicReady t (y.pa 0x2038) 8 && memPoisoned t (y.pa 0x2038) 8 == (p != []) &&
          (y.pa 0x2038) / 64 == (y.pa 0x2038 + 7) / 64 && decide (y.pa 0x2038 + 8 ≤ t.uBytes) && !inMirror t (y.pa 0x2038)
      | _ => false
    (at_ [] && at_ [0x80]) = true ∧ ((s []).eng 0).migrating = none ∧ ((s []).eng 0).unplaced = false ∧ asleep (s []) 0 = false ∧
      atomicReady full 0x2038 8 = true ∧ memPoisoned full 0x2038 8 = false ∧ 0x2038 + 8 ≤ full.uBytes := by decide
theorem wit_spareSwitch : spareOf full 0 = none ∧ full.sig.moving = none ∧ (full.unit 5).inv = none ∧
    ((runs 1).unit 5).inv.isSome = true ∧ spareOf (runs 1) 0 = none ∧ (runs 1).sig.moving = none ∧ (runs 1).holding = false := by decide

/-! HartMemory, TilesAndLines, SidingEvents and Invalidation. -/

/-- The first Campanile die runs, with every host link up and an IOMMU that passes addresses on. -/
def hosted (s : State) : State :=
  { s with
    hosts := [(0, { running := true, iommu := [(16, 1)] }), (1, { iommu := [(16, 1)] })]
    hlinks := (List.range 4).map (fun k => (k, { state := 2 })) }
def hfull : State := hosted full
theorem wit_hartAccess_regions : (hfull.host (5 / 64)).running = true ∧ region hfull 0xE000000000000 = .hole ∧
    region hfull hfull.uBytes = .hole ∧ region hfull (hfull.uBytes - 1) = .unified ∧ hfull.uBytes < hfull.uBytes - 1 + 2 ∧
    region hfull mmioBase = .mmio ∧ region hfull ticketBase = .ticket ∧ mmioBase % 8 = 0 ∧ ticketBase % 8 = 0 ∧
    mmioReadWaits hfull mmioBase = false := by decide
theorem wit_hartAccess_memory : (∀ a ∈ [0, 0x2038], region hfull a = .unified ∧ a + 8 ≤ hfull.uBytes ∧
      hartWaits hfull 5 (linesOf a 8) false false = false ∧ memPoisoned hfull a 8 = false ∧ inMirror hfull a = false ∧
      hartReach hfull 5 a 8 .r = (hfull, .ok [(a, 8)] false)) ∧ hartBlocked hfull 5 { op := .load, addr := 0, size := 8 } = false ∧
    hartStoresWait hfull 5 [] = false ∧ portHeld hfull 5 mmioBase = false ∧ holdsInBlock hfull 5 0 = false ∧
    memPoisoned { hfull with poison := [0x80] } 0x2000 8 = true ∧ 0x2034 % 8 ≠ 0 ∧
    (let s := { hfull with harts := [(5, { lr := some 0x80 })] }
     (s.hart 5).lr = some (0x2038 / 64) ∧ (s.hart 5).lr ≠ some (0x2040 / 64)) := by decide
theorem wit_hartAmo : amoSizeOk .add 4 = true ∧ amoSizeOk .cas 16 = true ∧ region hfull 0x2030 = .unified ∧
    hartWaits hfull 5 (linesOf 0x2030 16) true false = false ∧ hartReach hfull 5 0x2030 16 .a = (hfull, .ok [(0x2030, 16)] false) ∧ memPoisoned hfull 0x2030 16 = false ∧ inMirror hfull 0x2030 = false ∧
    0x2030 % 16 = 0 ∧ 0x2034 % 16 ≠ 0 ∧ region hfull mmioBase ≠ .unified ∧ memWaits hfull 0x2030 1 = false ∧ hostHeld hfull 0 (home 0x2030) = false ∧
    hartReach hfull 5 0x2000 64 .r = (hfull, .ok [(0x2000, 64)] false) ∧ (hfull.hart 5).cboStop cbcfe = none ∧
    ({ priv := 1 } : Hart).cboStop cbcfe = some 2 ∧ ((hfull.hart 5).fencing && holdsWrite hfull (.hart 5)) = false := by decide
theorem wit_device : (∀ d ∈ [0, 1], deviceWorks hfull d = true) ∧ hfull.uBytes < hfull.uBytes - 1 + 2 ∧
    memWaits hfull (hfull.uBytes - 64) 64 = false ∧
    ((List.range 4).all fun i => !inMirror hfull (hfull.uBytes - 64 + i)) = true := by decide

/-- A package with a slow tier of 64 GiB on one device. -/
def tiered : State :=
  { full with pkg := { full.pkg with slowReady := true, slowBytes := 64 * 2 ^ 30, slowDevs := [(0, 0, 64 * 2 ^ 30, 1)] } }
def slowTile : Nat := tiered.hFrames
theorem wit_tileMigration : tiered.shut = false ∧ slowTile < tiered.uBytes / 65536 ∧ tileLocked tiered slowTile = false ∧
    frameOf tiered slowTile = .slow 0 ∧
    (let s := tiered.setTile 5 { frame := some (.slow 70000) }
     let n := placedFrame s 5
     frameExists s (.hbm n) = true ∧ frameTaken s (.hbm n) = false ∧
       (s.setTile slowTile { place := 1 }).pkg.slowReady = true ∧ wanted (s.setTile slowTile { place := 1 }) slowTile = true) ∧
    (let s := tiered.setTile slowTile { frame := some (.hbm 9999999) }
     frameExists s (.slow 0) = true ∧ frameTaken s (.slow 0) = false ∧ mayLeaveHbm s 5 = true ∧ tileLocked s 5 = false) := by decide
theorem wit_tileMigrationEnd :
    (let m : Migration := { tile := 5, dest := .slow 0 }
     let s := { tiered with migs := [m] }
     m.victim = none ∧ s.expects = [] ∧ tileLocked s 5 = true ∧ ∀ x ∈ s.migs, x.tile ≠ 6) := by decide
theorem wit_lineRecovery :
    (let s := { tiered with recovering := [0x80] }
     nHas 0x80 s.recovering = true ∧ lineLost s 0x80 = false ∧ ((false && dupAnswers s 0) || (false && mirrorUsable s 0x80)) = false ∧
       nHas 0x80 s.poison = false ∧ nHas 0x81 s.recovering = false) ∧
    (let s := { tiered.setTile 0 { dup := some (.slow 3) } with recovering := [0x80] }
     ((true && dupAnswers s (0x80 / 1024)) || (true && mirrorUsable s 0x80)) = true ∧ lineLost s 0x80 = false) := by decide

/-- A Siding of 128 entries at 0x8000 with a closed batch, and a fault. -/
def flt : FaultEnt := { id := 9, reason := 1, access := 1, va := 0x5000, asn := 3, kind := 1 }
def sided : Siding := { base := 0x8000, enable := true, closed := some ⟨[flt], 2⟩ }
theorem wit_batchPublish : sdRoom sided = true ∧ sided.base + 2 ^ sided.log2n * 64 ≤ full.uBytes ∧ sided.base % 64 = 0 ∧
    inMirror full 0x8000 = false ∧ inMirror full 0x9FFF = false ∧
    sdRoom { sided with closed := some ⟨List.replicate 127 flt, 1⟩ } = true ∧
    sdRoom { sided with closed := some ⟨List.replicate 127 flt, 1⟩, producer := 1 } = false ∧
    sdRoom { sided with enable := false } = false := by decide
theorem wit_heldFault : parkRoom { heldFaults := [(1, flt)] } 1 = true := by decide
theorem wit_siding_answers :
    let y : Atomic := { src := 0, fault := some (1 * 2 ^ 32 + 9) }
    let s := { full with atomics := [(1, y)], sidings := [(1, { unanswered := [9] })] }
    nHas (9 : BitVec 32).toNat (s.siding 1).unanswered = true ∧ nHas (8 : BitVec 32).toNat (s.siding 1).unanswered = false ∧
      s.streams = [] ∧ s.units = [] ∧ s.launches = [] ∧ s.expects = [] ∧ s.remOps = [] ∧ s.colls = [] ∧ s.clRings = [] ∧
      s.roRings = [] ∧ s.crRings = [] ∧ y.discard = false ∧ (s.eng 0).migrating = none ∧ asleep s 0 = false := by decide
/-- SD_CONS may move to the producer, not past it, also where the indexes have wrapped. -/
theorem wit_sdCons :
    (∀ v ∈ [0xFFFFFFFF, 0, 2], (v + 2 ^ 32 - 0xFFFFFFFF) % 2 ^ 32 ≤ (2 + 2 ^ 32 - 0xFFFFFFFF) % 2 ^ 32) ∧
    ¬ (3 + 2 ^ 32 - 0xFFFFFFFF) % 2 ^ 32 ≤ (2 + 2 ^ 32 - 0xFFFFFFFF) % 2 ^ 32 := by decide
theorem wit_invalidation :
    (let b : Booking := { cur := some ⟨0, 0, 0⟩, acks := [0, 1, 2, 3] }
     b.cur ≠ none ∧ b.acks = [0, 1, 2, 3] ∧ b.held = [] ∧ ({ b with held := [⟨1, 3, 0⟩] } : Booking).held ≠ []) ∧
    (full.book 0).cur = none ∧ full.streams = [] := by decide

/-! HbmChannels, PlatformCaches, HostsAndLinks and Tickets. -/

/-- Channel 0 in a state. -/
def chanIn (c : Chan) : State := full.setChan 0 c
def act : Chan := { state := .active }
theorem wit_hbmReadWrite : (chanIn act).chan 0 = act ∧ act.serves = true ∧ ({ act with state := .failing } : Chan).serves = true ∧
    (∀ line ∈ [0, 2031615 * 32 + 31], (granuleOf (chanIn act) 0 (line / 32)).isSome = true ∧ line < 2 ^ 26) ∧
    2031616 ≤ (2 ^ 26 - 1) / 32 ∧ paLine (chanIn act) 0 0 31 = some 31 ∧ paLine (chanIn act) 0 2097151 0 = none ∧
    (chanIn act).poison = [] ∧ 63 + 1 ≤ 64 := by decide
theorem wit_hbmStates : (∀ st ∈ [ChanState.retraining, .selfRefresh], ({ state := st } : Chan).queue.length < 256 ∧
      ({ state := st } : Chan).serves = false) ∧
    ((chanIn act).stack 0).temp < 105 ∧ (chanIn act).holding = false ∧ (chanIn act).stopping = false ∧
    ((List.range 32).all fun i => ((chanIn act).chan i).state != .retraining) = true ∧ ((chanIn act).stack 0).thermal < 3 ∧
    ((chanIn act).stack 0).retiredCh = 0xFF ∧
    (let s := { chanIn { act with mustRetire := true } with stks := [(0, { retiredCh := 3, retireState := 1, moveNext := 2031615 })] }
     (s.chan 0).mustRetire = true ∧ (s.stack 0).retiredCh ≠ 0xFF ∧ (s.stack 0).retiredCh ≠ 0 % 32 ∧
       (s.chan 3).rests = false ∧ ({ state := .retraining } : Chan).rests = true ∧ (s.stack 0).moveNext + 1 ≤ 2031616 ∧ (s.stack 0).moveNext + 1 = 2031616) ∧
    (chanIn act).sig.inspEn = true ∧ 2 ^ 27 - 1 < 2 ^ 27 ∧ 2031616 ≤ (2 ^ 27 - 1) / 64 := by decide
theorem wit_traffic :
    (let c : Chan := { act with tg := { first := 2031616, last := 2031616 } }
     let t := c.tg.withCtrl 0x80000
     c.run = none ∧ t.first ≤ t.last ∧ tgFree (chanIn c) 0 2031616 = true ∧
       (∀ i, t.first ≤ i → i ≤ t.last → i = 2031616)) ∧
    (let t := (TgSet.withCtrl { first := 2, last := 1 } 0)
     t.last < t.first ∧ ({ t with mode := 0 } : TgSet).mode = 0 ∧ ({} : TgSet).mode = 2) :=
  ⟨⟨rfl, by decide, by decide, fun i h g => by
      have h' : (2031616 : Nat) ≤ i := h
      have g' : i ≤ (2031616 : Nat) := g
      omega⟩, by decide⟩
theorem wit_stackTemps : (∀ k ∈ [0, 1, 2, 3], ({ temp := 90, thermal := k } : StackSt).thermal ≠ 4) ∧
    (full.stack 0).thermal ≠ 3 ∧ min 255 115 = 115 ∧ min 255 99 < 100 := by decide

theorem wit_platformCaches : (full.pc 0).cur = none ∧ full.holding = false ∧ (full.pc 0).waiting = [] ∧ (full.pc 0).disabled = false ∧
    ((0x2 : Word).extractLsb' 1 15).toNat * 2 ≠ (full.pc 0).mask ∧ (full.pc 0).disable = false ∧
    (let c : PlatCache := { disable := true, disabled := true, mask := 2 }
     c.mask ||| c.waysRetired ≠ c.waysOff ∧ ({ c with waysOff := 2 } : PlatCache).mask ||| 0 = 2 ∧ c.cur = none ∧ c.waiting = []) ∧
    ({ cur := some (.ways 2), lines := [(5, 3), (6, 4)] } : PlatCache).cur ≠ none := by decide
theorem wit_engineCache :
    (let g : Engine := { scDisable := true, sc := [(0x80, 2)] }
     g.scDisable = true ∧ g.scDisabled = false) ∧ ({} : Engine).scDisable = false := by decide

theorem wit_hostReset : inService hfull = true ∧ (hfull.host 0).failed = false ∧ (hfull.host 0).resetting = false ∧
    hfull.holding = false ∧ hfull.stopping = false ∧ hfull.sig.reliefHart = none ∧
    ({ hfull with sig := { hfull.sig with keeper := .hold } } : State).holding = true ∧
    (let x : SbCmd := { op := 2, arg := 0, addr := 0, reply := 0 }
     x.byTicket = false ∧ x.op = 2) ∧ (hfull.hart 0).stores = [] ∧
    ({ hfull with hosts := [(0, { resetting := true })] }.host 0).resetting = true := by decide
theorem wit_hostLink : ((List.range 6).map fun k => ({ state := k, trainFails := 2 } : HostLink).state) = [0, 1, 2, 3, 4, 5] ∧
    ({ state := 3 } : HostLink).trainFails < 2 := by decide

/-- Tickets: one that leaves, one that waits, one that is refused, and a busy transmit register. -/
theorem wit_tickets :
    (let me := 0x20000005
     let pay := (List.range 8).flatMap (fun i => leBytes 8 (look 0 (full.hart 5).txData i).toNat)
     (full.hart 5).txState ≠ 1 ∧ epAccepts full 0x10000000 (full.hart 5).sendAsn pay = true ∧
       epAccepts full 0x30000000 (full.hart 5).sendAsn pay = false ∧ (full.ep 0x10000000).waiting = [] ∧
       (full.ep 0x10000000).slots.length + (full.ep 0x10000000).inflight.length < 8 ∧
       (∀ t ∈ (full.ep 0x10000000).inflight, t.sender ≠ me)) ∧
    ({ txState := 1 } : Hart).txState = 1 ∧ ({ nack := true } : Hart).nack = true ∧
    ¬ ({ slots := List.replicate 8 (tkt 0 0) } : Endpoint).slots.length < 8 := by decide
theorem wit_ticketPlace :
    let t : TkSend := { sender := 0x20000005, asn := 0, payload := 1 :: List.replicate 63 0 }
    let s := { hfull with eps := [(0x10000000, { inflight := [t] }), (0x20000006, { inflight := [t] }), (0x40000000, { inflight := [t] })] }
    (∀ e ∈ [0x10000000, 0x20000006, 0x40000000], (s.ep e).inflight = [t] ∧ (s.ep e).waiting = [] ∧ ticketHeld s e = false) ∧
      epKind t.sender = 2 ∧ epKind 0x10000000 = 1 ∧ epKind 0x20000006 = 2 ∧ s.sig.cmds = [] ∧
      (sbParse { sender := t.sender, seq := 1, payload := t.payload }).bad = false := by decide

/-! MainlineFrames and MainlinePaths: package 1 with port 0 up and one window onto the first gigabyte for packages 2–3. -/

def winBytes : Tab Byte := tsOf 0x7000 [0, 0x40000000, 0x0003000207000000, 0]
def ml (s : State) : State :=
  mapped { s with ports := [(0, { state := 2 })], mlId := 1, winBase := 0x7000, mem := winBytes, pcs := [(0, { disable := true, disabled := true })] }
def frame (type : Nat) (addr : Nat) (payload : List Byte) : Frame337 := { type := type, src := 2, dst := 1, psn := 5, addr := addr, payload := payload }
theorem wit_mainline_frames : (ml full).portUp 0 = true ∧ (ml full).portUp 1 = false ∧ frameForUs (ml full) 0 (frame 1 0 []) = true ∧
    frameForUs (ml full) 0 { frame 1 0 [] with dst := 3 } = false ∧ ((ml full).path 2).isNew 5 = true ∧
    nHas (5 % 2 ^ 32) ({ (ml full).path 2 with rxSeen := [5] } : Path).rxSeen = true := by decide
theorem wit_mainline_window :
    (match windowCheck (ml full) 0 (frame 1 0x2000 []) 0 64 .w with
     | (t, .ok [(pa, 64)]) => !memWaits t pa 64 && decide (pa + 64 ≤ t.uBytes) && !inMirror t pa && !piecesWait t [(pa, 64)]
     | _ => false) = true ∧
    (match windowCheck (ml full) 0 (frame 1 0x3FFFFFC1 []) 0 64 .w with | (_, .refused) => true | _ => false) = true ∧
    (match windowCheck (ml full) 0 (frame 3 0x2000 []) 1 0x1000 .r with | (t, .ok l) => !piecesWait t l | _ => false) = true ∧
    (match windowCheck (ml full) 0 (frame 5 0x2038 []) 2 8 .a with | (_, .ok ((_, 8) :: _)) => true | _ => false) = true ∧
    aopOk 5 2 = true ∧ aopOk 0xC 0 = false ∧ 0x2038 % atomicBytes 2 = 0 ∧ 0x203C % atomicBytes 2 ≠ 0 := by decide
/-- A tile that is moving holds back a write to it, and every window where the table lies in it. -/
theorem wit_mainline_waits :
    let s (t : Nat) : State := { ml full with migs := [{ tile := t, dest := .slow 0 }] }
    (match windowCheck (s 1) 0 (frame 1 0x12000 []) 0 64 .w with | (t, .ok l) => piecesWait t l | _ => false) = true ∧
    (match windowCheck (s 0) 0 (frame 1 0x12000 []) 0 64 .w with | (_, .wait) => true | _ => false) = true := by decide
/-- The check of a frame whose CRC holds, whose CRC does not, and whose FCS does not. -/
theorem wit_mainline_checks :
    (let good : FrameCheck := { crc := crc32c (frameBytes (frame 1 0 [])) }
     good.fcsOk = true ∧ good.crc = crc32c (frameBytes { frame 1 0 [] with type := 1 })) ∧
    ¬ (({ crc := 0 } : FrameCheck).crc = crc32c (frameBytes (frame 1 0 []))) ∧ ({ crc := 0, fcsOk := false } : FrameCheck).fcsOk = false ∧
    (let q : Path := { rxAck := 9, rxSeen := [8] }
     nHas 8 q.rxSeen = true ∧ 2 ^ 31 ≤ q.ahead 5 ∧ nHas 5000 q.rxSeen = false ∧ 4096 ≤ q.ahead 5000 ∧ q.ahead 5000 < 2 ^ 31) ∧
    (u32At [0, 0, 0, 0] 0 = 0 ∧ 2 ^ 20 < u32At [0, 0, 0x11, 0] 0 ∧ u32At [0, 0, 0x10, 0] 0 ≤ 2 ^ 20) := by decide
theorem wit_mainline_responses :
    (let x : RemOp := { tm := 0, ring := 0, seq := 1, entry := readWords.flatMap (fun w => leBytes 8 w.toNat), tag := 7 }
     let s := { ml full with remOps := [x] }
     let e := ropF x.entry
     findRop s 7 = some x ∧ e.dst = 2 ∧ x.final = none ∧ (s.roRing 0).resetting = false ∧ e.opc = 1 ∧ e.len = 64 ∧ e.record = 0 ∧
       e.ctEn = false ∧ ((s.path 2).unacked ++ (s.path 2).guarded).length = 0 ∧
       (ropLand (modRop s 7 (fun y => { y with fetched := y.fetched ++ [(0, 0 :: List.replicate 64 1)] }))
         { x with fetched := [(0, 0 :: List.replicate 64 1)] } 0 (List.replicate 64 1) false).2 = true) ∧
    (let e := ropF ([2, 2, 0x10000, 0, 0, 0, 0, 0].flatMap (fun w : Word => leBytes 8 w.toNat))
     e.opc = 2 ∧ e.local_ = 0 ∧ e.dst = 2) := by decide
theorem wit_mainline_collective :
    let c : Coll := { tm := 0, ring := 0, seq := 3, words := sumWords, members := [1, 2], rank := 0 }
    let f := frame 9 0 (collParams (collF sumWords) ++ List.replicate 64 0)
    collMatches c f = true ∧ c.members.idxOf? f.src = some 1 ∧ f.payload.take 16 = collParams (collF c.words) ∧
      collReady { c with contribs := [{ rank := 1, off := 0, data := f.payload.drop 16 }] } = false ∧
      (ml full).colls = [] ∧ (ml full).early = [] := by decide
theorem wit_mainline_claims :
    (let s := { ml full with td := { full.td with state := 9, witness := 0x1000000000002 } }
     2 ∈ witnesses s ∧ s.td.restoring = none ∧ (nIns 2 s.td.grants).length = 1 ∧ (witnesses s).length / 2 + 1 = 1) ∧
    (let s := { ml full with td := { full.td with state := 9, witness := 0x3000300020004 } }
     2 ∈ witnesses s ∧ (nIns 2 s.td.grants).length < (witnesses s).length / 2 + 1) ∧
    (let s := { ml full with td := { full.td with state := 9, takeover := 0xE000000000000 } }
     region s (s.td.takeover / 4096 * 4096) ≠ .unified ∧ region s (s.td.takeover / 4096 * 4096 + 16 * 255) ≠ .unified) ∧
    (look 0 [(2 * 65536 + 4, 3)] (2 * 65536 + 4) ≠ 0 ∧ 3 ≠ 4 + 1 ∧ look 0 [(2 * 65536 + 4, 3)] (2 * 65536 + 4) = 2 + 1) := by decide
theorem wit_mainline_unnumbered :
    (let u : Unacked := { frame := { frame 3 0 [] with psn := 4 } }
     let f : Frame337 := { frame 7 0 (List.replicate 64 0) with ackPsn := 4 }
     ackCovers f u.frame.psn = true ∧ isWrite u.frame = false ∧ ackCovers f 5 = false) ∧
    (frame 0x20 0 [1]).payload.getD 0 0 = 1 ∧ (frame 0x20 0 [0]).payload.getD 0 0 ≠ 1 := by decide
theorem wit_mainlinePaths :
    (let u (n : Nat) : Unacked := { frame := { frame 1 0 [] with psn := 4 }, tries := n }
     (u 11).tries < 12 ∧ 12 ≤ (u 12).tries ∧ ((full.setPath 2 { unacked := [u 12] }).path 2).unacked = [u 12]) ∧
    full.streams = [] ∧ full.colls = [] ∧ full.remOps = [] ∧ (full.path 2).unreachable = false ∧
    ((full.setPath 2 { unreachable := true }).path 2).unreachable = true ∧ pkgIdOk (ml full).pkgId = true := by decide

/-! TandemPair: the states of the pair with what each clause asks. -/

def pair (t : Tandem) : State := { full with td := t, mlId := 1 }
theorem wit_tandem_control : (pair {}).td.state = 0 ∧ full.feat 6 = true ∧
    (let t : Tandem := { state := 0xB, enable := true, deadAfterGrant := true, restored := [0] }
     let s := { pair t with engines := [(0, { state := .parked })] }
     t.stationCtr = [] ∧ (s.eng 0).state = .parked ∧ (s.eng 0).unplaced = false ∧ (s.eng 0).excs = [] ∧
       ((List.range 6).all fun q => ((s.eng 0).queue q).isEmpty) = true) ∧
    (pair { state := 4, enable := true }).holding = false ∧
    ({ pair { state := 4, enable := true } with sig := { full.sig with keeper := .hold } } : State).holding = true ∧
    (let t : Tandem := { state := 3, enable := true }
     ¬ (t.state = 0 ∨ t.state = 5 ∨ t.state = 6 ∨ t.state = 7 ∨ t.state = 8 ∨ t.state = 0xC)) ∧
    (pair { witness := 0x1000000000002 }).pkgId = 1 ∧ witnesses (pair { witness := 0x1000000000002 }) = [2] := by decide
/-- The partner's last closed epoch is 7, the mirror area is the first 64 KiB. -/
def open7 : Tandem := { state := 4, keyed := true, lanesUp := 1, pEpoch := 7, mirror := 1 }
theorem wit_tandem_frames : open7.unclosed 8 = true ∧ open7.unclosed 7 = false ∧ open7.unclosed (7 + 2 ^ 31 - 1) = true ∧
    open7.unclosed (7 + 2 ^ 31) = false ∧ (open7.mirror.extractLsb' 0 28).toNat * 65536 = 65536 ∧ 65535 + 1 ≤ 65536 ∧
    open7.rxCkpts = [] ∧ open7.notifyEn = false ∧
    (let t : Tandem := { open7 with rx := [{ tag := 8, addr := 65535, bytes := [1] }] }
     t.rxBad = [] ∧ t.unclosed 8 = true ∧ 65535 + 1 ≤ (t.mirror.extractLsb' 0 28).toNat * 65536) ∧
    (¬ (open7.lanesUp = 0 ∧ open7.viaMl = false) ∧ ({ state := 3, grants := [2] } : Tandem).grants ≠ []) := by decide
theorem wit_tandem_epochs : epochMayClose (pair { state := 4 }) = true ∧ epochMayClose (pair { state := 3 }) = false ∧
    epochMayClose (pair { state := 4, hostPart := true }) = false := by decide
theorem wit_tandem_contact : pkgIdOk (pair {}).pkgId = true ∧ (pair { state := 4, probes := 2 }).td.probes < 3 ∧
    3 ≤ (pair { state := 4, probes := 3 }).td.probes ∧ witnesses (pair {}) = [] ∧
    ({ state := 9, restoring := none } : Tandem).restoring = none ∧ termFailed full 0 = false ∧
    termFailed { full with sig := { full.sig with failedDies := 2 ^ 0x28 } } 0 = true := by decide

/-! InspectionAndLosses: engine 0 alone on Spire 0, none there, and no free slot elsewhere. -/

def aloneOn : State :=
  { full with
    engines := (List.range 31).map (fun i => (i + 1, { unplaced := true }))
    sig := { full.sig with unplaced := (List.range 31).map (· + 1) } }
def noneOn : State := { full with engines := (List.range 32).map (fun i => (i, { unplaced := true })) }
theorem wit_inspection : inspects full = true ∧ (∀ sp, (full.spire sp).drowse = false) ∧ slotFree full 35 = true ∧
    ((List.range 256).all fun e => (full.eng e).unplaced || physSlot full e != 35) = true ∧
    inspects { full with sig := { full.sig with inspEn := false } } = false ∧
    ({ full with hlinks := [(0, { state := 2 })] }.hlink 0).state = 2 ∧
    ((full.setChan 0 { state := .active }).chan 0).serves = true ∧
    ((full.setLink 0 { state := .active }).link (bundleKey 0 0)).state = .active ∧
    ((edgeBundles 0).all fun i => !((full.setLink 0 { state := .active }).link (bundleKey 0 i)).planned) = true ∧
    look 0 full.sig.cupSpare 0 = 0 ∧ full.sig.moving = none :=
  ⟨by decide, fun _ => rfl, by decide, by decide, by decide, by decide, by decide, by decide, by decide, by decide, by decide⟩
theorem wit_inspectionSwap :
    let s := full.setEng 0 { state := .running }
    (s.stream 0).slots = [] ∧ (s.stream 1).slots = [] ∧ s.launches = [] ∧ (s.eng 0).heldTc = [] ∧ (s.eng 0).heldCtrl = [] ∧
      (s.eng 0).migrating = none ∧ (s.eng 0).unplaced = false ∧ look 0 s.sig.swapped 0 = 0 ∧ s.feat 10 = true ∧
      mayMigrate s 0 35 = true ∧ inspects s = true := by decide
/-- Engine 0 alone on Spire 0 while every slot of the package is marked retired. -/
def aloneFull : State := { aloneOn with sig := { aloneOn.sig with slots := (List.range 288).map (fun n => (n, 4)) } }
theorem wit_quarantine : ((List.range 256).all fun e => !liesOn noneOn 0 e) = true ∧
    ((List.range 256).all fun d => liesOn aloneOn 0 d == (d == 0)) = true ∧ (aloneOn.eng 0).state = .idle ∧
    aloneOn.stopping = false ∧ aloneOn.holding = false ∧ aloneOn.sig.quarantined.testBit 8 = false ∧
    slotFree aloneOn 71 = true := by decide
theorem wit_quarantine_full : ((List.range 288).all fun n => look 0 aloneFull.sig.slots n == 4) = true ∧
    (∀ n, look 0 aloneFull.sig.slots n = 4 → slotFree aloneFull n = false) ∧ ∀ d, liesOn aloneFull 0 d = liesOn aloneOn 0 d :=
  ⟨by decide, fun n h => by simp [slotFree, h], fun _ => rfl⟩
theorem wit_unplaced : aloneOn.sig.unplaced ≠ [] ∧ slotFree aloneOn 5 = true ∧ (aloneOn.stream 2).slots = [] ∧
    (aloneOn.stream 3).slots = [] ∧ (aloneOn.eng 1).heldTc = [] ∧ (aloneOn.eng 1).heldCtrl = [] := by decide
theorem wit_failures : ((List.range 256).all fun e => (aloneOn.eng e).migrating.isNone) = true ∧ aloneOn.sig.ctxStore ≠ some 13 ∧
    aloneOn.streams = [] ∧ aloneOn.launches = [] ∧ full.remOps = [] ∧ full.colls = [] ∧
    (let s := { full with sig := { full.sig with sb0 := { full.sig.sb0 with role := .active } } }
     (sbOf s 0).role = .active ∧ (sbOf s 1).role = .standby ∧ termFailed s 0 = false) := by decide

/-! SignalBoxes. -/

def boxes (a b : SbRole) (k : KeeperState) : State :=
  { full with sig := { full.sig with sb0 := { full.sig.sb0 with role := a }, sb1 := { full.sig.sb1 with role := b }, keeper := k } }
theorem wit_signalBoxes : (boxes .active .standby .watching).holding = false ∧ (boxes .failed .failed .hold).holding = true ∧
    (boxes .failed .failed .relief).holding = false ∧
    (let b : SigBox := { role := .active, recentAt := [(2, 5)], progress := 1003 }
     b.progress < look 0 b.recentAt 2 + 999 ∧ look 0 b.recentAt 2 + 999 ≤ b.progress + 1 ∧ look 0 b.recentAt 3 = 0) ∧
    (let s := boxes .failed .failed .hold
     s.sig.restarted.testBit 0 = false ∧ termFailed s 0 = false ∧ s.pkg.clocks.testBit 0 = true ∧
       (s.fwOf 0).failed.testBit 0 = false ∧ s.sig.reliefHart = none ∧ s.feat 11 = true ∧ s.sig.reliefAsk = none ∧
       (s.host 0).resetHeld = false) := by decide
theorem wit_commands : bufferOk full 0x4000 = true ∧ bufferOk full 0x4008 = false ∧ bufferOk full full.uBytes = false ∧
    memWaits full 0x4000 16384 = false ∧ (∀ a, inMirror full a = false) ∧ full.stopping = false ∧ full.pkg.resetPending = none ∧
    ((0x4001 : Word).extractLsb' 0 8).toNat = 1 ∧ ((0x4001 : Word).extractLsb' 14 38).toNat * 16384 = 0x4000 :=
  ⟨by decide, by decide, by decide, by decide, fun a => by simp [inMirror, full, State.reset, fld, bitsN], by decide, by decide, by decide, by decide⟩

/-! TrustAndDebug, StartsAndResets, PowerEvents, LinkEvents, RegisterWrites and the three statements about steps. -/

theorem wit_firmware :
    ((full.fwOf 0).busy = false ∧ ({ svn := 0 } : FwCheck).manifestOk = true ∧ (0 : Nat) ≥ (full.fwOf 0).svnFused) ∧
    ({ svn := 1 } : FwCheck).svn < ({ svnFused := 2 } : Firmware).svnFused ∧ ({ badComps := 1 } : FwCheck).badComps ≠ 0 ∧
    (let f : Firmware := { busy := true, pending := some {} }
     f.busy = true ∧ f.pending = some {}) := by decide
theorem wit_spdm : full.pkg.pwr ≠ .off ∧ termFailed full 1 = false ∧
    (let s := { full with sec := { full.sec with meas := [(1, 5), (6, 9)] } }
     look 0 s.sec.meas 6 ≠ 0 ∧ look 0 s.sec.meas 7 = 0 ∧ tabWf 0 s.sec.meas = true) := by decide
/-- A token at 0x8000 for site 0, whose serial number reads 0, with scope 1 and nonce 0. -/
def tokenAt : State := { full with mem := tsOf 0x8000 [0x010000014B4C4255], sec := { full.sec with tokenAddr := 0x8000 } }
theorem wit_token : 0x8000 + 2484 ≤ tokenAt.uBytes ∧ memPoisoned tokenAt 0x8000 2484 = false ∧
    (let t := memRead tokenAt 0x8000 2484
     (w64At t 8).toNat = tokenAt.sec.nonce ∧ sitePopulated (t.getD 6 0).toNat = true ∧
       leNat ((t.drop 16).take 3) = (tokenAt.ident (t.getD 6 0).toNat).serial % 2 ^ 24 ∧ tokenForm t = true) ∧
    tokenForm (memRead full 0x8000 2484) = false ∧ memPoisoned { full with poison := [0x200] } 0x8000 2484 = true ∧
    (w64At (memRead full 0x8000 2484) 8).toNat ≠ ({ full.sec with nonce := 1 } : Security).nonce := by decide

/-- What a start at the report finds: a refusal, or whether neither Signal Box came up. -/
def startOf (r : StartReport) : Bool × Option (Nat × Nat) :=
  let u := coldState State.reset
  let u1 := startFirmware { u with pkg := { u.pkg with cause := 1, pwrgd := false }, sec := { u.sec with nonce := r.nonce.toNat } } r
  (u1.sig.sb0.role == .failed && u1.sig.sb1.role == .failed, identityCheck (quarantineSilent u1 r) r)
theorem wit_starts : startOf {} = (false, none) ∧ startOf { badStrap := [0] } = (false, some (6, 1)) ∧
    startOf { silent := [0x20] } = (false, some (7, siteBits [0x20])) ∧
    (let bad : FwCheck := { manifestOk := false }
     (startOf { fw0A := bad, fw0B := bad, fw1A := bad, fw1B := bad }).1 = true) ∧
    ({ clocks := 7 } : StartReport).clocks ≠ 0xF ∧ State.reset.pkg.pwr = .cold := by decide
theorem wit_restarts :
    (let s := { full with pkg := { full.pkg with pwr := .warmReset, resetPending := some 3 } }
     drained s = true ∧ s.pkg.resetHeld = false ∧ s.stks = []) ∧
    ({ full.pkg with startWait := some 1 } : Pkg).startWait = some 1 ∧ full.holding = false ∧ full.pkg.slowDone = false ∧
    inService full = true ∧ (∀ d, (full.host d).failed = false) ∧ full.pkg.resetPending = none ∧ full.sig.keeper ≠ .holdRefused ∧
    full.pkg.pwr ≠ .standby ∧ full.pkg.pwr ≠ .off :=
  ⟨by decide, by decide, by decide, by decide, by decide, fun _ => rfl, by decide, by decide, by decide, by decide⟩

theorem wit_power : inService full = true ∧ nothingPending full = true ∧ nothingPending (full.setEng 0 { state := .running }) = false ∧
    (let s := { full with pkg := { full.pkg with pwr := .idle }, stks := [(0, { thermal := 4, temp := 94 })] }
     s.pkg.pwr = .idle ∧ s.chans = [] ∧ (s.stack 0).thermal = 4) ∧
    (let s := { full with spires := [(0, { permit := true })] }
     (s.spire 0).permit = true ∧ (s.spire 0).drowse = false ∧ s.engines = [] ∧ s.holding = false ∧ s.stopping = false ∧
       ((List.range 256).all fun e => (s.eng e).state == .idle && (s.stream (2 * e)).slots.isEmpty &&
         (s.stream (2 * e + 1)).slots.isEmpty && (s.eng e).stores.isEmpty) = true) ∧
    (({ drowse := true } : SpirePwr).drowse = true ∧ sitePopulated 0x3F = false ∧ sitePopulated 0x29 = true) ∧
    ((List.range 5).all fun i => full.pkg.clocks.testBit i) = true := by decide
theorem wit_links :
    (endKeys { cc := 0, b := 39, terminus := true } = none ∧ endKeys { cc := 0, b := 40, terminus := true } = some (296, 40) ∧
      endKeys { cc := 0, b := 0 } = some (0, 84)) ∧
    (let s := (full.setLink 84 { state := .active }).setLink 0 { state := .active, replayReq := some 3 }
     (s.link 0).carries = true ∧ (s.link 0).replayReq = some 3 ∧ (flitSent s 84 1 0 ⟨1, 0, 0, 0, 0⟩).isSome = true ∧
     flitSent s 84 1 0 ⟨0, 1, 0, 0, 0⟩ = none) ∧
    ({ state := .active, txSeq := 4, replay := [⟨3, 0⟩] } : LinkEnd).replay.any (fun f => f.seq == 3) = true ∧
    edgeOut (full.setLink 0 { state := .active }) 0 0 = false ∧ edgeOut full 0 1 = true ∧
    ({ state := .held, disagree := true } : LinkEnd).disagree = true ∧ lowestLanes 4 0xFFF0 = 0xF0 ∧
    ({ state := .active, fails := 9 } : LinkEnd).fails = 9 ∧
    (let s := full.setLink 0 { state := .active }
     ((edgeBundles 0).all fun i => !(s.link (bundleKey 0 i)).planned) = true ∧ s.holding = false ∧ s.stopping = false) ∧
    ({ state := .safeMode } : LinkEnd).carries = true ∧ ({ state := .held, retraining := true } : LinkEnd).retraining = true ∧
    commonQuads 0xFFFF 0xFF0F = [0, 2, 3] ∧ commonQuads 0x0F0F 0xF0F0 = [] ∧ ownsBundle 0 0 = true ∧ ownsBundle 3 0 = false ∧
    ({ record := 0x01FF, far := 0x0001 } : HostLink).record &&& 1 ≠ 0 ∧ (0x00F0 &&& 0x0F) % 256 = 0 := by decide
theorem wit_registerWrites : full.uBytes ≤ 0xF_0000_0000_0000 ∧ 0xF_0000_0000_0004 % 8 ≠ 0 ∧ region full 0xF_0000_0000_0000 = .mmio ∧
    region full 0xF_8000_0000_0000 = .ticket ∧ region full 0 = .unified ∧ sitePopulated 0 = true ∧ sitePopulated 0x3F = false ∧
    asleep full 0 = false ∧ asleep { full with spires := [(0, { drowse := true })] } 0 = true := by decide
theorem wit_step : State.reset.MemOk ∧ step State.reset = .next (tick State.reset) ∧
    step { State.reset with pending := [.packageIdleExit] } = exec .packageIdleExit State.reset :=
  ⟨⟨by decide, by decide⟩, rfl, rfl⟩

/-! ### Witnesses for what waits, faults and is turned away -/

/-- Fences, CacheMaintenance and StationSeedFlagsExpect: nothing waits; a store waits at a tile that moves; a write of engine 1's
window waits for its requester. -/
theorem wit_fences_wait : storesWait full (full.eng 0).own = false ∧ storesWait full (full.unit 5).stores = false ∧
    holdsWrite full (.engine 0) = false ∧
    (let s := { full with migs := [{ tile := 0, dest := .slow 0 }] }
     storesWait s [{ pa := 0x2000, bytes := [1] }] = true) ∧
    holdsWrite (full.setEng 1 { heldCtrl := [{ off := 0x10, value := 0, by_ := .engine 0 }] }) (.engine 0) = true := by decide

/-- Dispatching: an undefined word of class 0 that finds its queue empty. -/
theorem wit_dispatching_undefined :
    let w : Word := 0xFF00000000000000
    let s := atPc {} w
    (match fetchWord s 0 false with
     | (t, some x) => x == w && !dispatcherRaises t.pkg.feature w && wCls w != 1 && !wordDefined t.pkg.feature w &&
         (wordQueues w).all (fun q => ((t.eng 0).queue q).isEmpty) && !(wordQueues w).isEmpty && (t.eng 0).runs
     | _ => false) = true ∧ (s.eng 0).q0 = [] ∧ (s.eng 0).excs = [] := by decide

/-- Migration: a slot that an engine already has, and a migration that may not switch yet. -/
theorem wit_migration_refused : mayMigrate full 0 0 = false ∧ asleep full 0 = false ∧
    streamRests ({ slots := [{ dCopy with inflight := [0] }], hold := 1 } : Stream) = false ∧
    ({ full with sig := { full.sig with keeper := .hold } } : State).holding = true := by decide

/-- ProvidedKernels: a fault, a refusal and a wait; a unit that runs another kernel. -/
theorem wit_providedKernels_stop :
    (match (planFill (krun { runs 1 with tlb := [] })).stop with | some (.fault ..) => true | _ => false) = true ∧
    (planFill (krun { runs 1 with tlb := [(0, [{ wide with pbase := 0xF000000000000, pbmt := 2 }])] })).stop = some (.exc 0x18) ∧
    (planFill (krun { runs 1 with migs := [{ tile := 1, dest := .slow 0 }] })).stop = some (.wait (some 1)) ∧
    (planFill (krun { runs 1 with tlb := [], astCache := [], migs := [{ tile := 0, dest := .slow 0 }] })).stop = some (.wait none) ∧
    (∀ i, ((runs 1).unit 5).inv = some i → i.kernel ≠ 0x002 ∨ i.fault.isSome = true) :=
  ⟨by decide, by decide, by decide, by decide, fun i h => by cases h; exact Or.inl (by decide)⟩
/-- KernelEffects: an access of 64 bytes within a page. -/
theorem wit_kernelEffects_need :
    let r := krun (runs 1)
    pagePieces 0x10000 64 = [(0x10000, 64)] ∧
    (match translate r.st r.cc [16 + dieOfUnit r.unit, r.cc] r.f.asn 0x10000 .w true with
     | (t, .ok x) => region t (x.pa 0x10000) == .unified && !memWaits t (x.pa 0x10000) 64 && atomicReady t (x.pa 0x10000) 8
     | _ => false) = true := by decide
theorem wit_kernelBlockCopies_lines :
    let t := mapped (unitAt { s := [(2, 0x2000), (3, 0x40), (4, 0x40000)] } (mkWord 0 4 (op u5 4 2 3 0 0x3FFC0)))
    (match kTranslate t 5 0x2000 0x40 .r with
     | (_, .ok l) => l.all (fun p => p.1 % 64 == 0 && p.2 % 64 == 0)
     | _ => false) = true := by decide

/-- RingEntries: the group's entry and list are read at once, and a refused entry's record needs no wait. -/
theorem wit_ringEntries_reads :
    let s := { ringMem (tsOf 0x8000 sumWords ++ grpMem) with grpBase := 0x9000 }
    groupWaits s 0 = false ∧ (refusedRecord s 0 0 0 []).isSome = true ∧ (ringMem []).stream 512 = {} := by decide
/-- Booking walks of the two kinds of a transfer. -/
theorem wit_bookingWalk_transfers :
    (let q : WalkReq := { asn := 0, va := 0, kind := 1, engine := 3, unit := 1 }
     q.kind = 1 ∧ (7 : Fin 576).val = 2 * (q.engine % 256) + q.unit % 2) ∧
    (let q : WalkReq := { asn := 0, va := 0, kind := 2, unit := 5 }
     q.kind = 2 ∧ (517 : Fin 576).val = 512 + 16 * (0 : Fin 4).val + q.unit % 16) := by decide

/-- LaunchEvents: a page whose tiles are resident may be dealt, and a granule may start. -/
theorem wit_pageDeal_may : mayDeal (launched lFill) lFill (pageTiles (launchF fillWords) wide 0 0x1000) = true ∧
    (let l : Launch := { lFill with dealtTo := 0x1000, pages := [{ x := xl, off := 0 }], waiting := [0, 0x800] }
     match unitOfPa (launched l) (xl.pa 0x4800) with
     | some u => mayChoose (launched l) u 1
     | none => false) = true ∧ lFill.rangeFault = none ∧ full.kCmds = [] := by decide
/-- Where every frame of HBM is on its way to another tile, a page in the slow tier is not dealt. -/
def crowded (n : Nat) : State :=
  { full with pkg := { full.pkg with slowReady := true }, migs := List.replicate n { tile := 0, dest := .hbm 0 } }
theorem wit_pageDeal_full (n : Nat) (h : 24379392 ≤ n) : mayDeal (crowded n) lFill [24379392] = false := by
  have hm : n ≤ stuckFrames (crowded n) := by
    simp only [stuckFrames, countIf]
    rw [show (crowded n).migs = List.replicate n { tile := 0, dest := .hbm 0 } from rfl]
    simp
  have hh : (crowded n).hFrames = 24379392 := by simp [State.hFrames, State.hBytes, crowded, full, State.reset]
  have hr : residentTile (crowded n) 24379392 = false := by
    have ht : ((crowded n).tile 24379392).frame = none := rfl
    have hs : (crowded n).pkg.slowReady = true := rfl
    simp [residentTile, frameOf, ht, hh, hs]
  have hf : [24379392].filter (fun t => !residentTile (crowded n) t && !nHas t lFill.held) = [24379392] := by
    rw [show lFill.held = [] from rfl]
    simp [hr, nHas]
  simp only [mayDeal, hh, hf, List.isEmpty_cons, Bool.false_or, List.length_singleton, decide_eq_false_iff_not]
  omega

/-- HartMemory: a hart in S mode that no entry protects, whose access faults; one that waits for its page tables; one whose
protection is set; and a hole. -/
def hartIn (g : Hart) : State := { hfull with harts := [(5, g)] }
theorem wit_hartReach :
    (match (hartReach (hartIn { priv := 1 }) 5 0x2000 8 .r).2 with | .fault c va => c == 5 && va == 0x2000 | _ => false) = true ∧
    (let s := { hartIn { priv := 1, csr := [(0x180, 0x8000000000000000), (0x3A0, 0x1F), (0x3B0, 0x3FFFFFFFFFFFFF)] } with
       migs := [{ tile := 0, dest := .slow 0 }] }
     (hartReach s 5 0x2000 8 .r).2 = .wait) ∧
    (hfull.hart 5).priv = 3 ∧ bit ((hfull.hart 5).get 0x300) 17 = false ∧ ((List.range 16).all fun i => ((hfull.hart 5).pmpRange i).isNone) = true ∧
    hartBlocked hfull 5 { op := .load, addr := 0, size := 8, pre := true, post := true } = false ∧
    (let pa := hfull.uBytes
     hartReach hfull 5 pa 8 .r = (hfull, .ok [(pa, 8)] false) ∧ region hfull pa = .hole) ∧
    wideTarget 0xF_8000_0000_0010 = true ∧ wideTarget 0xF_8000_0000_0018 = false := by decide +kernel
theorem wit_hart_stores : (({} : Hart).stores.any (storesMeet { pa := 0x2000, bytes := [1] })) = false ∧
    ([({ pa := 0x2001, bytes := [7] } : Store)].any (storesMeet { pa := 0x2000, bytes := [1, 2] })) = true ∧
    hartRight .store = .w ∧ hartRight .fetch = .x := by decide
/-- A device whose directory has a context with an MSI page table, and one that its table does not name. -/
def iommuOn : State :=
  { hfull with
    hosts := [(0, { iommu := [(16, 0x2402)] })], pcs := [(0, { disable := true, disabled := true })]
    mem := tsOf 0x9000 [1, 0, 0, 0, 0x100000000000000A, 0, 0x28000, 0] ++ tsOf 0xA000 [0x1407] }
theorem wit_device_iommu :
    (match ioReach iommuOn 0 0 0x28000000 true with | (_, .msi page) => page == 5 | _ => false) = true ∧
    (match ioReach iommuOn 0 1 0x28000000 true with | (_, .fault c) => c == 258 | _ => false) = true ∧
    ioReach { hfull with hosts := [] } 0 0 0x2000 false = ({ hfull with hosts := [] }, .fault 256) ∧
    ioReach hfull 0 0 0x2000 true = (hfull, .mem 0x2000) ∧ dmaWaits hfull 0 0x2000 64 = false ∧ portSteps hfull 0 [] = hfull := by decide

/-- TilesAndLines: the classes, the copy of a tile, and a lost line. -/
theorem wit_tiles_classes :
    (let s := tiered.setTile slowTile { place := 1 }
     dupApart s slowTile (.hbm 0) = true ∧ expressPending s (home (slowTile * 65536)) = false ∧ isExpress s slowTile = false ∧
       mayLeaveHbm s 5 = true ∧ tileLocked s slowTile = false ∧ wanted s slowTile = true ∧ frameOf s 5 = .hbm 5 ∧
       frameExists s (.hbm 5) = true) ∧
    (let s := tiered.setTile slowTile { frame := some (.hbm 9999999) }
     frameExists s (.slow 0) = true ∧ frameTaken s (.slow 0) = false ∧ dupApart s 5 (.slow 0) = true) ∧
    dupApart { (tiered.setTile 5 { dup := some (.slow 3) }) with pkg := { tiered.pkg with slowDevs := tiered.pkg.slowDevs ++ [(1, 0, 65536, 1)] } }
      5 (.slow 0) = false := by decide
theorem wit_copyReady : copyReady { tiered with migs := [{ tile := 5, dest := .slow 0 }] } 5 = true ∧
    copyReady { tiered with migs := [{ tile := 5, dest := .slow 0 }], recovering := [5 * 1024] } 5 = false := by decide
theorem wit_lostLine :
    (let s := { tiered with pkg := { tiered.pkg with slowDevs := [(0, 0, 64 * 2 ^ 30, 2)] } }
     lineLost s (1024 * slowTile) = true ∧ ((true && dupAnswers s slowTile) || (true && mirrorUsable s (1024 * slowTile))) = false) := by
  decide

/-- SidingEvents: nothing is held; a held fault whose batch is open, and one whose batches are all closed. -/
theorem wit_heldFaults : (full.book 0).heldFaults = [] ∧ parkedOf (full.book 0) 0 = 0 ∧
    (let s := { full with books := [(0, { heldFaults := [(1, flt)] })] }
     (s.book 0).heldFaults = [(1, flt)] ∧ (s.book 0).parked = [] ∧ (s.siding 1).closed = none ∧ (s.siding 1).open_.length < 64 ∧
       parkRoom (s.book 0) 1 = true) ∧
    (let s := { full with books := [(0, { heldFaults := [(1, flt)] })], sidings := (List.range 4).map (fun i => (i, sided)) }
     parkRoom (s.book 0) 1 = true ∧ ((List.range 4).all fun j => (s.siding j).closed.isSome) = true) := by decide

/-- HbmChannels: an entry with an error, a hot stack, a full queue, a failing channel, and the reserve's traffic. -/
theorem wit_hbm_more :
    (∀ n ∈ [1, 2], let s := chanIn { act with wcb := [{ line := 32, mask := 1, latent := n }] }
      (s.chan 0).wcb = [{ line := 32, mask := 1, latent := n }] ∧ (s.chan 0).serves = true ∧ (paLine s 0 1 0).isSome = true) ∧
    (let c : Chan := { act with wcb := [{ line := 32, mask := 1 }] }
     ((c.wcb.all fun e => e.latent == 0) && c.serves) = true) ∧
    (let s := { chanIn { state := .retraining } with stks := [(0, { thermal := 3 })] }
     (s.chan 0).state = .retraining ∧ 3 ≤ (s.stack 0).thermal) ∧
    ({ state := .retraining, waiting := [{ write := false, line := 0 }] } : Chan).waiting ≠ [] ∧
    (let s := { chanIn { act with mustRetire := true } with stks := [(0, { retiredCh := 0, retireState := 2 })] }
     (s.chan 0).mustRetire = true ∧ (s.stack 0).retiredCh = 0 % 32) ∧
    full.sig.keeper = .watching ∧ ({ state := .retired } : Chan).state = .retired ∧
    ({ act with run := some { mode := 2 }, sbRun := true } : Chan).sbRun = true ∧
    (full.stack 0).heat = 0 ∧ (115 ≤ min 255 115) ∧ ((∀ e ∈ ({ act with wcb := [] } : Chan).wcb, e.line ≠ 5)) := by decide

/-- PlatformCaches and HostsAndLinks: a clean of the scalar cache that had begun before a hold, and a retrain that a hold keeps
back. -/
theorem wit_holds :
    (let g : Engine := { scDisable := true, scClean := true }
     g.scDisable = true ∧ g.scDisabled = false ∧ g.scClean = true) ∧
    (let s := { full with hlinks := [(0, { state := 3, sbHeld := true })], sig := { full.sig with keeper := .hold } }
     (s.hlink 0).sbHeld = true ∧ s.holding = true ∧ (s.hlink 0).state = 3) ∧
    (let c : HostDie := { resetting := true }
     c.resetting = true ∧ c.failed = false) := by decide

/-- MainlinePaths: with a port up and another to turn to. -/
theorem wit_paths_ports : upPorts (ml full) (pathTm (ml full) 2) = [0] ∧ upPorts full (pathTm full 2) = [] ∧
    (let s := { ml full with ports := [(0, { state := 2 }), (1, { state := 2 })] }
     upPorts s (pathTm s 2) = [0, 1]) ∧
    (let u : Unacked := { frame := { frame 1 0 [] with psn := 4 } }
     u.tries < 12 ∧ ∃ k ∈ [0, 1], k ≠ u.port) := by decide

/-- InspectionAndLosses: a reserve-row check. -/
theorem wit_reserveCheck : inspects full = true ∧ (full.chan 0).run = none ∧ tgFree (chanIn act) 0 2031616 = true ∧
    tgFree (chanIn act) 0 0 = false ∧ tgFree (chanIn { state := .retired }) 0 0 = true ∧ 2031616 < 2 ^ 21 := by decide

/-- SignalBoxes: a composition that a keeper must wait with, and a keeper that refuses a start. -/
theorem wit_keeperConsist :
    (let s := { boxes .failed .failed .hold with migs := [{ tile := 0, dest := .slow 0 }] }
     bufferOk s 0x4000 = true ∧ memWaits s 0x4000 16384 = true) ∧
    ((boxes .failed .failed .hold).sig.keeperConsist = []) ∧ (boxes .failed .failed .holdRefused).sig.keeper = .holdRefused ∧
    (let x : SbCmd := { op := 1, arg := 0, addr := 0x4000, reply := 0 }
     x.keeper = none ∧ x.byTicket = false) := by decide

/-- A firmware image at 0x100000 with one component, number 6, of no bytes, and relief asked for it. -/
def manifest : State :=
  { full with
    mem := tsOf 0x100000 [0x000100014D4E4650, 0, 0, 0, 6, 0x1000] ++ tsOf 0x100030
      (wordsOf (sha3_256 []) 4)
    sig := { full.sig with reliefAsk := some (0, 5, 0x100000), keeper := .hold } }
theorem wit_imageHeader : (imageFound full 0x100000 {}).manifestOk = false ∧ (imageFound full full.uBytes {}).readable = false ∧
    readable manifest 0x100000 32 = true ∧ u32At (memRead manifest 0x100000 32) 0 = 0x4D4E4650 ∧
    (imageFound manifest 0x100000 { keyOk := false }).manifestOk = false := by decide
theorem wit_relief : (match manEntry (memRead manifest 0x100020 48) with
      | e => e.comp == 6 && e.zero && decide (e.off % 4096 = 0) && !e.bad manifest 0x100000) = true ∧
    reliefFound full 0 0x100000 {} = none ∧ manifest.sig.reliefAsk = some (0, 5, 0x100000) ∧ manifest.holding = true ∧
    (manifest.host 0).resetHeld = false ∧ (manifest.host 1).resetHeld = false := by decide

/-- PowerEvents: what a start that waits holds, and an engine without stores. -/
theorem wit_suppliesHeld : suppliesHeld full = false ∧ suppliesHeld { full with pkg := { full.pkg with startWait := some 1 } } = true ∧
    (full.eng 0).own = [] ∧ (full.chan 0).waiting = [] ∧ (full.eng 0).heldCtrl = [] := by decide

/-- RegisterWrites: an engine away on a migration; FW_CTRL of another ASN; SLOW_DONE written once. -/
theorem wit_registerWrites_more : ((full.setEng 0 { migrating := some 35 }).eng 0).migrating ≠ none ∧ (1 : Asn) ≠ 0 ∧
    full.pkg.slowDone = false ∧ inService full = true ∧ (full.fwOf 0).busy = false ∧ (0x100000000 : Word).getLsbD 32 = true ∧
    ((0x2 : Word).getLsbD 0 = false ∧ (0x2 : Word).getLsbD 1 = true) := by decide

/-- A core in U-mode reads mstatus: the step raises illegal instruction, and neither it nor the access has an effect. -/
theorem wit_hartSteps_stop : let s : State := { hfull with harts := [(5, { priv := 0 })] }
    (s.host (5 / 64)).running = true ∧ (hartSteps s 5 [.csrRead 0x300]).2 = false ∧
    ((hartSteps s 5 [.csrRead 0x300]).1.hart 5).exc = 2 := by decide

/-- A guest's satp is vsatp, it sees no machine CSR and raises a virtual-instruction exception for a hypervisor one. -/
theorem test_csr_guest : let g : Hart := { priv := 1, virt := true }
    g.csrReach 0x180 true = .at 0x280 ∧ g.csrReach 0x300 false = .stop 2 ∧ g.csrReach 0x600 false = .stop 22 := by decide

/-- PowerStates: a Spire one of whose slots Inspection tests after a swap, and one without a test. -/
theorem wit_drowse_test : ((0, 1) ∈ ({ full.sig with swapped := [(0, 1)] } : Signal).swapped ∧ (1 - 1) / 36 = 0) ∧
    full.sig.swapped = [] := by decide

/-! ### Words written out in chapters 03 and 04 -/

theorem test_words_chapter3 : mkWord 0x5B 0 (op e0 0 0 16 0 0x3FF000) = 0x5B000400003FF000 ∧
    mkWord 0x5B 0 (op e0 0 0 31 0 0x3FF078) = 0x5B0007C0003FF078 ∧ mkWord 1 6 (op e0 0 0 0 0 0xE0800001) = 0x01C00000E0800001 ∧
    mkWord 0 6 (op e0 0 0 0 0 0xE8000001) = 0x00C00000E8000001 ∧ mkWord 1 4 (op e0 0 0 0 0 0x3FF000) = 0x01800000003FF000 ∧
    mkWord 0 6 (op e0 0 0 0 0 0x184000006) = 0x00C0000184000006 ∧ mkWord 0 4 (op e0 0 16 0 0 0) = 0x0080800000000000 := by decide
theorem test_words_chapter4 : mkWord 0 3 (op e0 0 2 3 0 0x50FF80000) = 0x006010C50FF80000 ∧
    mkWord 0xA 3 (op e0 0 6 0 0 0x083F95800) = 0x0A60300083F95800 ∧ mkWord 0x43 2 (op e0 10 8 0 0 0x80000210) = 0x434A400080000210 := by
  decide
/-- The rows of chapter 03's example, each at an engine that holds its word: STL.D, TCADD, TCWAIT once TC7 reads 1, and
SHUNT.T of a descriptor that stands there. -/
theorem test_stl : (after (.stlD (op e0 0 0 16 0 0x3FF000)) (engAt { s := [(16, 0x0102)] } 0x5B000400003FF000 0 0x0102)).map
    (fun t => (t.eng 0).tsRead 0x3FF000 8) = some [2, 1, 0, 0, 0, 0, 0, 0] := by decide
theorem test_tcadd : (after (.tcadd (op e0 0 0 0 0 0xE0800001)) (engAt {} 0x01C00000E0800001 0 0)).map
    (fun t => ((t.eng 0).tcVal 7, (t.eng 0).q0)) = some (1, []) := by decide
theorem test_tcwait : (after (.tcwait (op e0 0 0 0 0 0xE8000001)) (engAt { tc := [(7, 1)] } 0x00C00000E8000001 0 0)).map
    (fun t => (t.eng 0).q4) = some [] := by decide
theorem test_shuntT : (after (.shuntT (op e0 0 0 0 0 0x3FF000)) (engAt { ts := tsOf 0x3FF000 copyWords } 0x01800000003FF000 0 0)).map
    (fun t => ((t.stream 0).slots.map Desc.seq, (t.eng 0).q4)) = some ([1], []) := by decide

/-! ### Well-formedness: an ill-formed term for each check is refused -/

def frame1 : Frame337 := { type := 1, src := 2, dst := 1 }
theorem test_wf_accepts : ([.add (op e0 1 2 3 0 0), .mlWrite 0 frame1 { crc := 0 }, .hbmRead 0 0 0, .coldPowerOn {},
    .registerWrite 0 0xF000100017008 0, .hartAmo 0 { op := .cas, addr := 0, size := 16 }, .inspectionTest (.slot 0) true,
    .hartAccess 0 { op := .load, addr := 0, size := 0, core := [.fenceI] }] : List Instr).all Instr.wf = true := by
  decide
theorem test_wf_agents : ([.halt (op u5 0 0 0 0 0), .mma (op u5 0 0 0 0 0), .tcwait (op u5 0 0 0 0 0), .cupolaHalt (op e0 0 0 0 0 0),
    .gld (op e0 0 0 0 0 0), .vamo (op e0 0 0 0 0 0)] : List Instr).any Instr.wf = false := by decide
theorem test_wf_addresses : ([.cboClean 0 (2 ^ 64), .prefetch 0 (2 ^ 64), .hartAccess 0 { op := .load, addr := 2 ^ 64, size := 8 },
    .hartAccess 0 { op := .load, addr := 0, size := 3 }, .hartAccess 0 { op := .store, addr := 0, size := 1, data := 256 },
    .hartAmo 0 { op := .add, addr := 0, size := 16 }, .hartAmo 0 { op := .add, addr := 0, size := 4, data := 2 ^ 32 },
    .deviceDmaWrite 0 { dev := 0, addr := 2 ^ 64 } [], .deviceDmaRead 0 { dev := 0, addr := 0 } 4097,
    .registerWrite 0 4 0, .registerWrite 0 (2 ^ 52) 0] : List Instr).any Instr.wf = false := by decide
theorem test_wf_memory : ([.tileMigrationStart (0xF000000000000 / 65536) true 0 none 0, .tileMigrationStart 0 true 0xF00000000 none 0,
    .tileMigrationComplete 0xF00000000, .slowDeviceLost 16, .lineRecoveryComplete (2 ^ 46) ⟨false, false⟩ false, .hbmRead 0 (2 ^ 26) 0,
    .hbmRead 0 0 1444, .hbmWrite 0 0 63 [1, 2], .hbmWrite 0 0 0 [], .stackTempRead 0 256, .channelRetrainComplete 0 true 65536,
    .patrolScrub 0 (2 ^ 27) 0, .patrolScrub 0 0 38, .tgRunComplete 0 (2 ^ 32) 0 {}, .tgRunComplete 0 0 0 { symbol := 32 },
    .tgRunComplete 0 0 0 { corrected := [(0, 36)] }, .inspectionTest (.reserve 0 (2 ^ 21) 0 0) true,
    .invocationStart 0 1, .carComplete 0 ⟨0, 2 ^ 32⟩, .carComplete 0 ⟨16, 0⟩] : List Instr).any Instr.wf = false := by decide
theorem test_wf_frames : ([.mlWrite 0 { frame1 with type := 256 } { crc := 0 }, .mlProbe 0 { frame1 with src := 65536 } { crc := 0 },
    .mlClaim 0 { frame1 with psn := 2 ^ 32 } { crc := 0 }, .mlRelease 0 { frame1 with addr := 2 ^ 64 } { crc := 0 },
    .mlRetransmitTimeout 65536 0, .destinationUnreachable 65536, .unreachableProbeTimer 65536, .tandemAuthenticate { partner := 65536 },
    .tandemRekey { feature := 2 ^ 32 }, .tandemFrame (.write (2 ^ 32) 0 [] false) true, .tandemFrame (.write 0 63 [1, 2] false) true,
    .tandemFrame (.checkpoint 256 0 []) true, .tandemFrame (.ackCheckpoint 256) true, .tandemFrame (.closed (2 ^ 32)) true,
    .tandemFrame (.hold (List.replicate 65 0)) true] : List Instr).any Instr.wf = false := by decide
theorem test_wf_package : ([.coldPowerOn { fw0A := { badComps := 256 } }, .standbyExit { fw1B := { svn := 2 ^ 32 } },
    .warmResetRestart { lanes := [(0, 0, { tx := [1, 1] })] }, .refclkRetry { hostLinks := [(0, { rx := [2, 2] })] },
    .slowDone [⟨0, 0, 65535⟩], .slowDone (List.replicate 17 ⟨0, 0, 65536⟩), .voltageResponse [(64, 0)] 0, .voltageResponse [] 65536,
    .flitReceive { cc := 0, b := 39, terminus := true } 0 ⟨0, 0, 0, 0, 0⟩, .replayRequest { cc := 0, b := 0, terminus := true } 0,
    .retrainComplete (.bundle 0 0) { rx := [3, 3] },
    .hostResetComplete 0 true (List.replicate 65 0), .hostResetComplete 0 true [72], .kpRelief 0 127 0, .kpRelief 0 0 (2 ^ 52),
    .ucieRetry 0 0, .bookingPageWalk 0 { asn := 0, va := 0, kind := 256 }] : List Instr).any Instr.wf = false := by decide

/-! ### Worked examples of the chapters -/

/-- Chapter 01: the level of a package built from mixed lots is 0x3BEF. -/
theorem test_feature_level :
    let s : State := { State.reset with idents := [(0x0E, { stepping := 0x0A02 }), (0x0F, { stepping := 0x0A02 })] ++ Ident.asBuilt.take 10 }
    dieFeature s 0x0E = 0x3BFF ∧ dieFeature s 0x1B = 0x3FEF ∧ featureLevel s = 0x3BEF ∧ featureLevel State.reset = 0x3FFF := by decide
/-- The check value of CRC-32C, of the bytes "123456789". -/
theorem test_crc32c : crc32c [0x31, 0x32, 0x33, 0x34, 0x35, 0x36, 0x37, 0x38, 0x39] = 0xE3069283 := by decide
/-- Chapter 02: the register window of engine 37 lies at 0xF_0009_0105_0000. -/
theorem test_engine_window : (after (.registerWrite 0 0xF000901050010 0x7F3A00001C48) full).map (fun t => (t.eng 37).entry) =
    some 0x7F3A00001C48 := by decide
/-- Chapter 03: LDIH completes the constant that LDI began; division by zero and its one overflow (R73). -/
theorem test_ldih : (after (.ldih (op e0 5 5 0 0 0x2C40)) (engAt { s := [(5, 0x9C401000)] } (mkWord 0x29 0 (op e0 5 5 0 0 0x2C40)) 0x9C401000 0)).map
    (fun t => (t.eng 0).sReg 5) = some 0x2C409C401000 := by decide
theorem test_division : divS 9 0 = -1 ∧ divU 9 0 = 0xFFFFFFFFFFFFFFFF ∧ remS 9 0 = 9 ∧ remU 9 0 = 9 ∧
    divS 0x8000000000000000 (-1) = 0x8000000000000000 ∧ remS 0x8000000000000000 (-1) = 0 ∧ divS (-7) 2 = -3 ∧ remS (-7) 2 = -1 := by decide
/-- Chapter 05: one MXFP4 block; NX and UF are raised, OF, NV and DZ are not. -/
theorem test_mxfp4_block :
    let row := [0x4039999A, 0xBF99999A, 0x3F333333, 0x3E851EB8, 0xBD4CCCCD, 0x4019999A, 0xC0533333, 0x3FC66666] ++ List.replicate 24 0
    let r := mxEncode (.mx .e2m1) (fun _ => .rne) false (row.map (fpDecode .fp32))
    r.1 = 0x7E ∧ packBytes 4 r.2.1 = [0xC7, 0x13, 0x68, 0x5F] ++ List.replicate 12 0 ∧ r.2.2 = (flNX ||| flUF) := by decide
/-- Chapter 06: the re-timing block has 24 cars, of which car 15 lands at 0x10_F000, and passes the checks. -/
def retiming : List Word := [0x01000218800004A2, 0x510000000000, 0x100000, 0x1000000010000040, 0x03000004, 0x017A650000000002,
  0x400, 0x10000, 0x100000, 0x1000000, 0x100, 0x1000, 0x4000, 0xC000, 0x2C0000000440, 0]
theorem test_retiming : (descF retiming).cars = 24 ∧ descCheck (descF retiming) 0x3FFF 0x4A2 true true = 0 ∧ (descF retiming).ctTc = 30 ∧
    (descF retiming).ctEngine = 101 ∧ (descF retiming).progress 10 = [0, 0, 2, 2, 0] ∧ (descF retiming).progress 24 = [0, 0, 0, 0, 2] := by
  decide
/-- Chapter 07: the launch of the crew-pairing model. -/
theorem test_crewPairing :
    let f := launchF [0x0103040000000317, 0x620000000000, 0x3000000, 0x0116C80000000000, 0x2C0000000800, 0, 0, 0, 0x630000000000, 0x630001000000, 0xF]
    f.kernel = 0x30 ∧ f.prio = 2 ∧ f.asn = 0x317 ∧ f.ctTc = 5 ∧ f.ctEngine = 200 ∧ f.arg 2 = 0xF := by decide
/-- Chapter 10: one granule of a delay table lies in channel 291 at slot 12,544, its neighbours in channels 35, 163 and 3; after
the retirement of channel 3 of the stack it lies in channel 309 at slot 2,032,020. -/
theorem test_granule : slotOfPa full 0x24C0A3A40 = some (291, 12544) ∧ home 0x24C0A3A40 = 0 ∧
    ((List.range 3).map fun i => ((slotOfPa full (0x24C0A3A40 + 2048 * (i + 1))).map Prod.fst)) = [some 35, some 163, some 3] ∧
    slotOfPa { full with stks := [(9, { retiredCh := 3, retireState := 2 })] } 0x24C0A3A40 = some (309, 2032020) := by decide
/-- Chapter 11: the mask 0xFF00 powers down eight ways of CC1. -/
theorem test_wayMask : (after (.registerWrite 0 0xF000100017008 0xFF00) full).map (fun t => ((t.pc 1).mask, (t.pc 1).cur)) =
    some (0xFF00, some (.ways 0xFF00)) := by decide

/-! ### Single steps -/

theorem test_add_wraps : (after (.add (op e0 1 2 3 0 0)) (engAt { s := [(2, -1), (3, 2)] } (mkWord 0 0 (op e0 1 2 3 0 0)) (-1) 2)).map
    (fun t => (t.eng 0).sReg 1) = some 1 := by decide
theorem test_add_s0 : (after (.add (op e0 0 2 3 0 0)) (engAt { s := [(2, 5)] } (mkWord 0 0 (op e0 0 2 3 0 0)) 5 0)).map
    (fun t => ((t.eng 0).sReg 0, (t.eng 0).s)) = some (0, [(2, 5)]) := by decide
theorem test_addSat : (after (.addSat (op e0 1 2 3 0 0)) (engAt { s := [(2, 0x7FFFFFFFFFFFFFFF), (3, 1)] } (mkWord 2 0 (op e0 1 2 3 0 0)) 0x7FFFFFFFFFFFFFFF 1)).map
    (fun t => (t.eng 0).sReg 1) = some 0x7FFFFFFFFFFFFFFF := by decide
theorem test_mulh_signs : (after (.mulh (op e0 1 2 3 0 0)) (engAt { s := [(2, -1), (3, 5)] } (mkWord 5 0 (op e0 1 2 3 0 0)) (-1) 5)).map
    (fun t => (t.eng 0).sReg 1) = some (-1) := by decide
theorem test_sra_modulo : (after (.sra (op e0 1 2 3 0 0)) (engAt { s := [(2, -8), (3, 65)] } (mkWord 0x10 0 (op e0 1 2 3 0 0)) (-8) 65)).map
    (fun t => (t.eng 0).sReg 1) = some (-4) := by decide
theorem test_ldl_signs : (after (.ldlB (op e0 1 2 0 0 1)) (engAt { s := [(2, 0x40)], ts := [(0x41, 0x80)] } (mkWord 0x50 0 (op e0 1 2 0 0 1)) 0x40 0)).map
    (fun t => (t.eng 0).sReg 1) = some (-128) := by decide
theorem test_guard_off : (after (.addi (op e0 1 2 0 1 9)) (engAt { p := [(1, 0)] } (mkWord 0x20 0 (op e0 1 2 0 1 9)) 4 0)).map
    (fun t => ((t.eng 0).sReg 1, (t.eng 0).q0)) = some (0, []) := by decide
theorem test_step_order : (match step { full with pending := [.engTcWrite 3 63 7, .idcode] } with
    | .next t => some (t.pending, (t.eng 3).tcVal 63)
    | _ => none) = some ([.idcode], 7) := by decide
theorem test_idcode : (after .idcode full).map (fun t => t.sec.dr) = some 0xB0004A71 := by decide
/-- Chapter 04: the best two of the first two groups of eight lanes; lanes 1 and 3 tie, and lane 5 is a NaN. -/
def scores : List Nat := [0x3ED70A3D, 0x3F5EB852, 0x3E19999A, 0x3F5EB852, 0x3F19999A, 0x7FC00000, 0x3EA8F5C3, 0x3F68F5C3,
  0x3DF5C28F, 0x3D4CCCCD, 0x3F451EB8, 0x3F23D70A, 0x3F333333, 0x3F23D70A, 0x3E4CCCCD, 0x3E3851EC]
theorem test_vtopk : (after (.vtopk (op e0 10 8 0 0 0x80000210))
      (engAt { v := [(8, BitVec.ofNat 2048 (packEls 32 scores))], p := [(2, 0x101010101010101)] } 0x434A400080000210 0 0)).map
    (fun t => ((List.range 16).map (packedEl 32 ((t.eng 0).vReg 10).toNat), (List.range 16).map (packedEl 32 ((t.eng 0).vReg 11).toNat))) =
    some ([0x3F68F5C3, 0x3F5EB852] ++ List.replicate 6 0xFF800000 ++ [0x3F451EB8, 0x3F333333] ++ List.replicate 6 0xFF800000,
      [7, 1] ++ List.replicate 6 0xFFFFFFFF ++ [10, 12] ++ List.replicate 6 0xFFFFFFFF) := by decide

end Sys2Proof.Tests
end

section
/-! Writes to registers of the address map (R3, R9, R330). A lemma about `ccWrite`, `tmWrite`, `engWrite` and the like says
what a block does with a write at one offset; a lemma `exec_write_…` says which block or row of registers an address reaches. -/

namespace Sys2Proof.Machine

/-- The address of a register: its site's block of the MMIO range, and the offset there (R3). -/
abbrev regAddr (site off : Nat) : Nat := 0xF_0000_0000_0000 + site * 2 ^ 32 + off

section
variable {s : State} {asn : Asn} {v : Word}

/-! ### Fields of a word -/

theorem fld_eq_div (hi lo : Nat) : fld v hi lo = v.toNat / 2 ^ lo % 2 ^ (hi + 1 - lo) := by
  rw [fld, bitsN, Nat.shiftRight_eq_div_pow]

theorem fld_low_setWidth (x : BitVec 32) : fld (x.setWidth 64) 31 0 = x.toNat := by
  have hx := x.isLt
  simp only [fld_eq_div, BitVec.toNat_setWidth]
  omega

theorem or_enable (h : v.getLsbD 32 = true) : v ||| 0x1_0000_0000 = v := by
  have hb : (0x1_0000_0000 : Word) = BitVec.twoPow 64 32 := rfl
  rw [hb]
  ext i hi
  by_cases hi32 : i = 32
  · subst hi32; simpa using h
  · simp [hi32]

/-! ### Counters of the units (R426) -/

theorem ucWrite_count {u : Nat} (hu : u < 16) (k : Fin 8) :
    ucWrite s u (8 * k) v = s.modUc u (fun c => { c with cnt := put 0 c.cnt k.val (v &&& 0xFFFF_FFFF_FFFF) }) := by
  have hk : 8 * k.val / 8 = k := by omega
  simp only [ucWrite, if_pos hu]
  rw [if_pos (by omega), hk]

theorem ucWrite_select {u off : Nat} (hu : u < 16) (k : Fin 8) (ho : off = 0x40 + 8 * k) :
    ucWrite s u off v = s.modUc u (fun c => { c with sel := put 0 c.sel k.val (v &&& 0x1_80FF_00FF) }) := by
  have hk : (off - 0x40) / 8 = k := by omega
  simp only [ucWrite, if_pos hu]
  rw [if_neg (by omega), if_pos (by omega), hk]

/-- The two registers past a die's counters lie at one place, whether it has eight counters or four. -/
theorem ucWrite_overflow {u : Nat} :
    ucWrite s u 0x80 v = s.modUc u (fun c => { c with ovf := c.ovf &&& ~~~(v &&& 0xFF) }) := by
  by_cases h : u < 16 <;> simp [ucWrite, h]

theorem ucWrite_notify {u : Nat} : ucWrite s u 0x88 v = s.modUc u (fun c => { c with notify := v &&& 0x1_FFFF_FFFF }) := by
  by_cases h : u < 16 <;> simp [ucWrite, h]

/-! ### A Concourse (R200, R265, R266) -/

theorem ccWrite_kAddr {cc : Nat} : ccWrite s cc asn.toNat 0x12000 v =
    if asn = 0 then { s with kAddr := put 0 s.kAddr cc (v.toNat / 64 * 64) } else { s with kResult := put 0 s.kResult cc 9 } := by
  change kaddrWrite s cc asn.toNat v = _
  simp [kaddrWrite, ← BitVec.toNat_inj]

theorem ccWrite_invCmd {cc a scope : Nat} (h : fld v 37 36 = scope) :
    ccWrite s cc a 0x13010 v = invWrite s cc scope (fld v 19 0) := by
  rw [← h]; rfl

theorem sdWrite_answer {k : Nat} : sdWrite s k 0x20 v =
    if fld v 33 32 = 1 then answer s k (fld v 31 0) true else if fld v 33 32 = 2 then answer s k (fld v 31 0) false else s := rfl

/-! ### A Terminus (R354–R359, R389, R411, R418) -/

theorem tmWrite_tandem {t a off : Nat} (h : 0x6000 ≤ off ∧ off < 0x7000) : tmWrite s t a off v = tdWrite s off v := by
  unfold tmWrite
  iterate 4 rw [if_neg (by omega)]
  rw [if_pos (by omega)]

theorem tmWrite_tandemParts {t a : Nat} (i : Fin 4) :
    tmWrite s t a (0x6080 + 8 * i) v = modTd s (fun d => { d with parts := put 0 d.parts i.val v }) := by
  have hi : (0x6080 + 8 * i.val - 0x6080) / 8 = i := by omega
  rw [tmWrite_tandem (by omega)]
  unfold tdWrite
  iterate 4 rw [if_neg (by omega)]
  rw [if_pos (by omega), hi]

theorem tmWrite_tandemRegions {t a : Nat} (i : Fin 16) :
    tmWrite s t a (0x6100 + 8 * i) v = modTd s (fun d => { d with regions := put 0 d.regions i.val v }) := by
  have hi : (0x6100 + 8 * i.val - 0x6100) / 8 = i := by omega
  rw [tmWrite_tandem (by omega)]
  unfold tdWrite
  iterate 5 rw [if_neg (by omega)]
  rw [if_pos (by omega), hi]

theorem tmWrite_trust {t a off : Nat} (h : 0x9000 ≤ off ∧ off < 0xA000) : tmWrite s t a off v = trustWrite s t a off v := by
  unfold tmWrite
  iterate 7 rw [if_neg (by omega)]

theorem tmWrite_progAddr {t : Nat} (hb : (s.fwOf t).busy = false) :
    tmWrite s t 0 0x9010 v = s.modFwOf t (fun x => { x with addr := v.toNat / 4096 * 4096 }) := by
  rw [tmWrite_trust (by omega)]
  simp [trustWrite, fwAddr, hb]

theorem tmWrite_commitSvn {t a : Nat} (h0 : v.getLsbD 0 = false) (h1 : v.getLsbD 1 = true) :
    tmWrite s t a 0x9008 v = fwCommit s t a := by
  rw [tmWrite_trust (by omega)]
  simp only [trustWrite, fwCommit, bit, h0, h1, Bool.false_eq_true, if_false, if_true]
  split
  · rfl
  · split <;> rfl

theorem tmWrite_relock {t a : Nat} (h0 : v.getLsbD 0 = false) (h1 : v.getLsbD 1 = true) :
    tmWrite s t a 0x9110 v = debugRelock s := by
  rw [tmWrite_trust (by omega)]
  simp only [trustWrite, bit, h0, h1, Bool.false_eq_true, if_false, if_true]

theorem slowDone_sets {devs : List SlowDev} (hs : inService s = true) (hd : s.pkg.slowDone = false) :
    (slowDone s devs).pkg.slowDone = true ∧ (slowDone s devs).pkg.slowReady = true ∧ (slowDone s devs).mem = s.mem := by
  have hn : ¬ (s.pkg.slowDone = true ∨ (!inService s) = true) := by simp [hs, hd]
  rw [slowDone, if_neg hn]
  exact ⟨rfl, rfl, rfl⟩

theorem slowDoneWrite_sets (hs : inService s = true) (hd : s.pkg.slowDone = false) :
    (slowDoneWrite s).pkg.slowDone = true ∧ (slowDoneWrite s).pkg.slowReady = true ∧ (slowDoneWrite s).mem = s.mem :=
  slowDone_sets (s := s.fresh.2) hs hd

/-! ### An engine's window (R63, R66, R394) -/

theorem engWindowWrite_away {e off : Nat} {o : Obs} (h : (s.eng e).migrating ≠ none ∨ asleep s e = true) :
    engWindowWrite s e off v o =
      s.modEng e (fun g => { g with heldCtrl := g.heldCtrl ++ [{ off := off, value := v, by_ := o }] }) :=
  if_pos (by simpa [Option.isSome_iff_ne_none] using h)

theorem engWindowWrite_here {e off : Nat} {o : Obs} (h : ¬ ((s.eng e).migrating ≠ none ∨ asleep s e = true)) :
    engWindowWrite s e off v o = engWrite s e off v :=
  if_neg (by simpa [Option.isSome_iff_ne_none] using h)

theorem engWrite_count {e : Nat} (k : Fin 8) : engWrite s e (0x0440 + 8 * k) v =
    s.modEng e (fun g => { g with pmc := put 0 g.pmc k.val (v &&& 0xFFFF_FFFF_FFFF) }) := by
  have hk : (0x0440 + 8 * k.val - 0x0440) / 8 = k := by omega
  unfold engWrite
  split
  case h_12 => rw [if_pos (by omega), hk]
  all_goals omega

theorem engWrite_select {e : Nat} (k : Fin 8) : engWrite s e (0x0480 + 8 * k) v =
    s.modEng e (fun g => { g with pmSel := put 0 g.pmSel k.val (v &&& 0x3_80FF_00FF) }) := by
  have hk : (0x0480 + 8 * k.val - 0x0480) / 8 = k := by omega
  unfold engWrite
  split
  case h_12 => rw [if_neg (by omega), if_pos (by omega), hk]
  all_goals omega

theorem engWrite_trainCounter {e : Nat} (k : Fin 64) : engWrite s e (0x0800 + 8 * k) v =
    if (s.eng e).quiet? then tcUpdate s e true k (fld v 31 0) else s := by
  have hk : (0x0800 + 8 * k.val - 0x0800) / 8 = k := by omega
  unfold engWrite
  split
  case h_12 => rw [if_neg (by omega), if_neg (by omega), if_pos (by omega), hk]
  all_goals omega

/-- ENG_TC: the upper half of the word is ignored. -/
theorem engWrite_trainCounter_low {e : Nat} (k : Fin 64) : engWrite s e (0x0800 + 8 * k) v =
    engWrite s e (0x0800 + 8 * k) ((v.extractLsb' 0 32).setWidth 64) := by
  rw [engWrite_trainCounter, engWrite_trainCounter, fld_low_setWidth, fld_eq]

theorem Engine.quiet?_iff {g : Engine} : g.quiet? = true ↔ g.state = .idle ∨ g.state = .parked := by
  simp [Engine.quiet?]

/-- Some registers are written only while the engine is idle or parked. -/
theorem ite_quiet {α : Type} {g : Engine} {a b : α} :
    (if g.quiet? then a else b) = if g.state = .idle ∨ g.state = .parked then a else b :=
  ite_congr (propext Engine.quiet?_iff) (fun _ => rfl) (fun _ => rfl)

theorem engScWrite_congr {e : Nat} {w : Word} (h : bit v 0 = bit w 0) : engScWrite s e v = engScWrite s e w := by
  unfold engScWrite
  rw [h]

/-! ### The Ticket window (R330) -/

theorem tkWrite_data {h : Nat} (i : Fin 8) : tkWrite s h (8 * i) v = txData s h i v := by
  have hi : 8 * i.val / 8 = i := by omega
  rw [tkWrite, if_pos (by omega), hi]

/-! ### Which register an address reaches (R3, R9, R237) -/

theorem exec_registerWrite (addr : Nat) : exec (.registerWrite asn addr v) s =
    .next (if (region s addr = .mmio ∨ region s addr = .ticket) ∧ addr % 8 = 0 then mmioWrite s asn.toNat addr v else s) := rfl

theorem exec_write_nowhere {addr : Nat} (h : addr % 8 ≠ 0 ∨ (region s addr ≠ .mmio ∧ region s addr ≠ .ticket)) :
    exec (.registerWrite asn addr v) s = .next s := by
  rw [exec_registerWrite, if_neg]
  rintro ⟨hr, h8⟩
  obtain h | ⟨hm, ht⟩ := h
  · exact h h8
  · exact hr.elim hm ht

theorem does_of_exec {i : Instr} {t : State} (h : exec i s = .next t) : Does i s (fun w => w = t) := ⟨t, h, rfl⟩

/-! In the lemmas that follow the unified range ends below the MMIO range. -/

variable (hu : s.uBytes ≤ 0xF_0000_0000_0000)
include hu

theorem region_mmio {pa : Nat} (hlo : 0xF_0000_0000_0000 ≤ pa) (hhi : pa < 0xF_8000_0000_0000) : region s pa = .mmio := by
  unfold region mmioBase ticketBase
  rw [if_neg (by omega), if_neg (by omega), if_pos hhi]

theorem region_ticket {pa : Nat} (hlo : 0xF_8000_0000_0000 ≤ pa) (hhi : pa < 0xF_C000_0000_0000) : region s pa = .ticket := by
  unfold region mmioBase ticketBase diagBase
  rw [if_neg (by omega), if_neg (by omega), if_neg (by omega), if_pos hhi]

/-- Below the Ticket window an aligned write goes to the block of its site. -/
theorem exec_write_block {site off : Nat} (hs : site < 0x8000) (h8 : off % 8 = 0) (ho : off < 2 ^ 32) :
    exec (.registerWrite asn (regAddr site off) v) s = .next (blockWrite s site asn.toNat off v .other) := by
  unfold regAddr
  have hr := region_mmio hu (pa := 0xF_0000_0000_0000 + site * 2 ^ 32 + off) (by omega) (by omega)
  have hsite : (0xF_0000_0000_0000 + site * 2 ^ 32 + off - 0xF_0000_0000_0000) / 2 ^ 32 = site := by omega
  have hoff : (0xF_0000_0000_0000 + site * 2 ^ 32 + off) % 2 ^ 32 = off := by omega
  rw [exec_registerWrite, if_pos ⟨.inl hr, by omega⟩, mmioWrite, ticketBase, if_neg (by omega), mmioBase, hsite, hoff]

theorem exec_write_noRegister {site off : Nat} (ho : off < 2 ^ 32) (hs : site < 0x8000)
    (h : sitePopulated site = false ∨ off < 0x1000) :
    exec (.registerWrite asn (regAddr site off) v) s = .next s := by
  by_cases h8 : off % 8 = 0
  · rw [exec_write_block hu hs h8 ho, blockWrite, if_pos (by simpa using h)]
  · exact exec_write_nowhere (.inl (by unfold regAddr; omega))

theorem exec_write_ticket (h : Fin 128) {off : Nat} (ho : off % 8 = 0 ∧ off < 0x1000 := by omega) :
    exec (.registerWrite asn (0xF_8000_0000_0000 + 0x1000 * h + off) v) s = .next (tkWrite s h off v) := by
  have hr := region_ticket hu (pa := 0xF_8000_0000_0000 + 0x1000 * h + off) (by omega) (by omega)
  have hh : (0xF_8000_0000_0000 + 0x1000 * h.val + off - 0xF_8000_0000_0000) / 4096 = h := by omega
  have hoff : (0xF_8000_0000_0000 + 0x1000 * h.val + off) % 4096 = off := by omega
  rw [exec_registerWrite, if_pos ⟨.inr hr, by omega⟩, mmioWrite, ticketBase, if_pos (by omega), hh, hoff, if_pos h.isLt]

theorem exec_write_concourse (cc : Fin 4) {off : Nat} {t : State} (ht : ccWrite s cc asn.toNat off v = t)
    (h : off % 8 = 0 ∧ 0x1000 ≤ off ∧ off < 2 ^ 32 := by omega) : exec (.registerWrite asn (regAddr cc off) v) s = .next t := by
  have hb : ¬ (!sitePopulated cc || decide (off < 0x1000)) = true := by simp [sitePopulated, h]
  rw [exec_write_block hu (by omega) h.1 h.2.2, blockWrite, if_neg hb, if_pos cc.isLt, ht]

theorem exec_write_concourseCounters (cc : Fin 4) {k : Nat} (hk : k % 8 = 0 ∧ k < 0x90 := by omega) :
    exec (.registerWrite asn (regAddr cc (0x1A000 + k)) v) s = .next (ucWrite s cc k v) := by
  rw [exec_write_concourse hu cc rfl]
  unfold ccWrite
  iterate 13 rw [if_neg (by omega)]
  rw [if_pos (by omega), Nat.add_sub_cancel_left]

theorem exec_write_bulkRing (cc : Fin 4) (i : Fin 16) (k : Nat)
    (hk : k % 8 = 0 ∧ k < 0x40 := by decide) {off : Nat} (h : off = 0x10000 + 0x40 * i + k := by omega) :
    exec (.registerWrite asn (regAddr cc off) v) s =
      .next (ringWrite s k v (modRing s (bulkStream cc i)) (bulkCtrl s cc i v) s) := by
  have hq : (off - 0x10000) / 0x40 = i := by omega
  have hm : off % 0x40 = k := by omega
  rw [exec_write_concourse hu cc rfl, ccWrite, if_neg (by omega), if_pos (by omega), hq, hm]

theorem exec_write_launchRing (cc r : Fin 4) (k : Nat)
    (hk : k % 8 = 0 ∧ k < 0x40 := by decide) {off : Nat} (h : off = 0x11000 + 0x40 * r + k := by omega) :
    exec (.registerWrite asn (regAddr cc off) v) s =
      .next (ringWrite s k v (s.modClRing (4 * cc + r)) (clCtrl s cc r v) (clCancelWrite s cc r v)) := by
  have hq : (off - 0x11000) / 0x40 = r := by omega
  have hm : off % 0x40 = k := by omega
  rw [exec_write_concourse hu cc rfl, ccWrite, if_neg (by omega), if_neg (by omega), if_pos (by omega), hq, hm]

theorem exec_write_siding (cc r : Fin 4) (k : Nat)
    (hk : k % 8 = 0 ∧ k < 0x40 := by decide) {off : Nat} (h : off = 0x14000 + 0x40 * r + k := by omega) :
    exec (.registerWrite asn (regAddr cc off) v) s = .next (sdWrite s (4 * cc + r) k v) := by
  have hq : (off - 0x14000) / 0x40 = r := by omega
  have hm : off % 0x40 = k := by omega
  rw [exec_write_concourse hu cc rfl]
  unfold ccWrite
  iterate 8 rw [if_neg (by omega)]
  rw [if_pos (by omega), hq, hm]

theorem exec_write_channel (ch : Fin 384) {k : Nat} (hk : k % 8 = 0 ∧ k < 0x400 := by decide) :
    exec (.registerWrite asn (regAddr (ch / 96) (0x20000 + 0x400 * (ch % 96) + k)) v) s =
      .next (chanWrite s ch k v) := by
  have hc : 96 * (ch.val / 96) + (0x20000 + 0x400 * (ch.val % 96) + k - 0x20000) / 0x400 = ch := by omega
  have hm : (0x20000 + 0x400 * (ch.val % 96) + k) % 0x400 = k := by omega
  rw [exec_write_concourse hu ⟨ch / 96, by omega⟩ rfl]
  unfold ccWrite
  iterate 14 rw [if_neg (by omega)]
  rw [if_pos (by omega), hc, hm]

theorem exec_write_spire {sp : Nat} (hsp : sp < 8) {off : Nat}
    (h : off % 8 = 0 ∧ 0x1000 ≤ off ∧ off < 2 ^ 32 := by omega) :
    exec (.registerWrite asn (regAddr (8 + sp) off) v) s = .next (spWrite s sp off v .other) := by
  have hb : ¬ (!sitePopulated (8 + sp) || decide (off < 0x1000)) = true := by simp [sitePopulated, h]; omega
  rw [exec_write_block hu (by omega) h.1 h.2.2, blockWrite, if_neg hb, if_neg (by omega), if_pos (by omega),
    Nat.add_sub_cancel_left]

theorem exec_write_engine (e : Fin 256) {off : Nat} (h : off % 8 = 0 ∧ off < 0x10000 := by omega) :
    exec (.registerWrite asn (regAddr (8 + e / 32) (0x0100_0000 + 0x10000 * (e % 32) + off)) v) s =
      .next (engWindowWrite s e off v) := by
  have he : 32 * (e.val / 32) + (0x0100_0000 + 0x10000 * (e.val % 32) + off - 0x0100_0000) / 0x10000 = e := by omega
  have hoff : (0x0100_0000 + 0x10000 * (e.val % 32) + off) % 0x10000 = off := by omega
  rw [exec_write_spire hu (by omega), spWrite, if_neg (by omega), if_pos (by omega), he, hoff]

/-- A write to the window of an engine that is in its place is performed at once. -/
theorem exec_write_engine_here (e : Fin 256)
    (ha : ¬ ((s.eng e).migrating ≠ none ∨ asleep s e = true)) {off : Nat} {t : State} (ht : engWrite s e off v = t)
    (h : off % 8 = 0 ∧ off < 0x10000 := by omega) :
    exec (.registerWrite asn (regAddr (8 + e / 32) (0x0100_0000 + 0x10000 * (e % 32) + off)) v) s = .next t := by
  rw [exec_write_engine hu e h, engWindowWrite_here ha, ht]

/-- Of the word that is written only what the register takes counts. -/
theorem exec_write_engine_as (e : Fin 256)
    (ha : ¬ ((s.eng e).migrating ≠ none ∨ asleep s e = true)) {off : Nat} {w : Word}
    (hw : engWrite s e off v = engWrite s e off w) (h : off % 8 = 0 ∧ off < 0x10000 := by omega) :
    exec (.registerWrite asn (regAddr (8 + e / 32) (0x0100_0000 + 0x10000 * (e % 32) + off)) v) s =
      .next (engWindowWrite s e off w) := by
  rw [exec_write_engine_here hu e ha hw h, engWindowWrite_here ha]

/-- Of a Cupola die's block only the counters take a write. -/
theorem exec_write_cupola (m : Fin 12) {off : Nat} (h : off % 8 = 0 ∧ 0x5000 ≤ off ∧ off < 0x5090 := by omega) :
    exec (.registerWrite asn (regAddr (0x10 + m) off) v) s = .next (ucWrite s (4 + m) (off - 0x5000) v) := by
  have hb : ¬ (!sitePopulated (0x10 + m) || decide (off < 0x1000)) = true := by simp [sitePopulated]; omega
  rw [exec_write_block hu (by omega) h.1 (by omega), blockWrite, if_neg hb, if_neg (by omega), if_neg (by omega),
    if_pos (by omega), if_pos h.2, Nat.add_sub_cancel_left]

theorem exec_write_terminus (tm : Fin 2) {off : Nat} {t : State} (ht : tmWrite s tm asn.toNat off v = t)
    (h : off % 8 = 0 ∧ 0x1000 ≤ off ∧ off < 2 ^ 32 := by omega) :
    exec (.registerWrite asn (regAddr (0x28 + tm) off) v) s = .next t := by
  have hb : ¬ (!sitePopulated (0x28 + tm) || decide (off < 0x1000)) = true := by simp [sitePopulated, h]; omega
  rw [exec_write_block hu (by omega) h.1 h.2.2, blockWrite, if_neg hb, if_neg (by omega), if_neg (by omega),
    if_neg (by omega), if_neg (by omega), Nat.add_sub_cancel_left, ht]

theorem exec_write_terminusCounters (tm : Fin 2) {off : Nat}
    (h : off % 8 = 0 ∧ 0xA000 ≤ off ∧ off < 0xA090 := by omega) :
    exec (.registerWrite asn (regAddr (0x28 + tm) off) v) s =
      .next (ucWrite s (16 + tm) (off - 0xA000) v) := by
  rw [exec_write_terminus hu tm rfl, tmWrite, if_neg (by omega), if_neg (by omega), if_pos h.2]

theorem exec_write_remoteRing (tm : Fin 2) (r : Fin 8) (k : Nat)
    (hk : k % 8 = 0 ∧ k < 0x40 := by decide) {off : Nat} (h : off = 0x4000 + 0x40 * r + k := by omega) :
    exec (.registerWrite asn (regAddr (0x28 + tm) off) v) s =
      .next (ringWrite s k v (s.modRoRing (8 * tm + r)) (roCtrl s tm r v) s) := by
  have hq : (off - 0x4000) / 0x40 = r := by omega
  have hm : off % 0x40 = k := by omega
  rw [exec_write_terminus hu tm rfl, tmWrite, if_pos (by omega), hq, hm]

theorem exec_write_collectiveRing (tm : Fin 2) (r : Fin 4) (k : Nat)
    (hk : k % 8 = 0 ∧ k < 0x40 := by decide) {off : Nat} (h : off = 0x5000 + 0x40 * r + k := by omega) :
    exec (.registerWrite asn (regAddr (0x28 + tm) off) v) s =
      .next (ringWrite s k v (s.modCrRing (4 * tm + r)) (crCtrl s tm r v) (jnCancelWrite s tm r v)) := by
  have hq : (off - 0x5000) / 0x40 = r := by omega
  have hm : off % 0x40 = k := by omega
  rw [exec_write_terminus hu tm rfl, tmWrite, if_neg (by omega), if_pos (by omega), hq, hm]

end

/-- Settles O57: the address leads to the function of one block or row of registers, and at each offset of the statement
that function is the update or the command named there. -/
theorem registerWrites : Obligations.RegisterWrites := by
  intro s asn v hu wr reg gets as page f
  have hf : f = fld v := funext fun hi => funext fun lo => (fld_eq_div hi lo).symm
  clear_value f
  subst hf
  refine ⟨fun _ => exec_write_nowhere, fun _ _ => exec_write_noRegister hu, ?_, ?_, ?_, ?_, ?_, ?_, ?_, ?_, ?_, ?_, ?_⟩
  · intro cc -- a Concourse's own registers
    have gives {off : Nat} {t : State} (ht : ccWrite s cc asn.toNat off v = t)
        (h : off % 8 = 0 ∧ 0x1000 ≤ off ∧ off < 2 ^ 32 := by omega) : gets (reg cc off) t :=
      does_of_exec (exec_write_concourse hu cc ht h)
    refine ⟨gives rfl, gives rfl, gives rfl, gives rfl, gives rfl, gives rfl, gives ccWrite_kAddr,
      exec_write_concourse hu cc rfl, ?_, exec_write_concourse hu cc rfl,
      fun h => exec_write_concourse hu cc (ccWrite_invCmd h), fun h => exec_write_concourse hu cc (ccWrite_invCmd h)⟩
    cases h : v.getLsbD 0
    · exact exec_write_concourse hu cc (if_neg (Bool.eq_false_iff.mp h))
    · exact exec_write_concourse hu cc (if_pos h)
  · exact fun cc i => ⟨does_of_exec (exec_write_bulkRing hu cc i 0), exec_write_bulkRing hu cc i 8,
      exec_write_bulkRing hu cc i 0x10, does_of_exec (exec_write_bulkRing hu cc i 0x18)⟩
  · intro cc r -- launch rings and Sidings
    have answers := exec_write_siding (asn := asn) (v := v) hu cc r 0x20 (off := 0x14020 + 0x40 * r)
    rw [sdWrite_answer] at answers
    refine ⟨exec_write_launchRing hu cc r 8, exec_write_launchRing hu cc r 0x10, exec_write_launchRing hu cc r 0x28,
      does_of_exec (exec_write_siding hu cc r 0), exec_write_siding hu cc r 8, exec_write_siding hu cc r 0x10,
      fun h => answers.trans (congrArg _ (if_pos h)),
      fun h => answers.trans (congrArg _ ((if_neg (by omega)).trans (if_pos h))),
      fun h => answers.trans (congrArg _ ((if_neg (by omega)).trans (if_neg (by omega))))⟩
  · exact fun ch => ⟨does_of_exec (exec_write_channel hu ch), does_of_exec (exec_write_channel hu ch),
      does_of_exec (exec_write_channel hu ch), fun h => (exec_write_channel hu ch).trans (congrArg _ (if_pos h))⟩
  · exact fun sp => exec_write_spire hu sp.isLt
  · intro e at_ g away rests -- an engine's window
    refine ⟨fun _ _ _ ha => does_of_exec ((exec_write_engine hu e).trans (congrArg _ (engWindowWrite_away ha))),
      fun ha => ?_⟩
    have gives {off : Nat} {t : State} (ht : engWrite s e off v = t) (h : off % 8 = 0 ∧ off < 0x10000 := by omega) :
        gets (at_ off) t := does_of_exec (exec_write_engine_here hu e ha ht h)
    refine ⟨gives ite_quiet, gives ite_quiet, gives ite_quiet, gives rfl, gives rfl, gives rfl,
      fun k => ⟨gives (engWrite_count k), gives (engWrite_select k)⟩,
      fun k => exec_write_engine_as hu e ha (engWrite_trainCounter_low k), ?_, exec_write_engine_as hu e ha rfl⟩
    cases h : v.getLsbD 0
    · exact exec_write_engine_as hu e ha (engScWrite_congr h)
    · exact exec_write_engine_as hu e ha (engScWrite_congr h)
  · intro tm -- a Terminus
    have gives {off : Nat} {t : State} (ht : tmWrite s tm asn.toNat off v = t)
        (h : off % 8 = 0 ∧ 0x1000 ≤ off ∧ off < 2 ^ 32 := by omega) : gets (reg (0x28 + tm) off) t :=
      does_of_exec (exec_write_terminus hu tm ht h)
    refine ⟨gives rfl, gives rfl, gives rfl, gives rfl, gives rfl, gives rfl, fun i => gives (tmWrite_tandemParts i),
      fun i => gives (tmWrite_tandemRegions i), gives rfl, gives rfl, gives rfl, gives rfl,
      fun h => exec_write_terminus hu tm (congrArg (tdCtrl s) (or_enable h).symm),
      fun h0 h1 => exec_write_terminus hu tm (tmWrite_relock h0 h1),
      fun h1 hs hd => ⟨_, exec_write_terminus hu tm (if_pos h1), slowDoneWrite_sets hs hd⟩,
      fun h1 => gives (if_neg (Bool.eq_false_iff.mp h1)), fun ha => gives (if_pos (BitVec.toNat_ne.mp ha)), ?_,
      fun h0 h1 => exec_write_terminus hu tm (tmWrite_commitSvn h0 h1),
      fun r => ⟨exec_write_remoteRing hu tm r 8, exec_write_remoteRing hu tm r 0x10⟩,
      fun r => ⟨exec_write_collectiveRing hu tm r 8, exec_write_collectiveRing hu tm r 0x10,
        exec_write_collectiveRing hu tm r 0x28⟩⟩
    rintro rfl hb
    exact gives (tmWrite_progAddr hb)
  · exact fun cc k => does_of_exec ((exec_write_concourseCounters hu cc).trans (congrArg _ (ucWrite_count (by omega) k)))
  · exact fun m k => does_of_exec ((exec_write_cupola hu m).trans (congrArg _ (ucWrite_select (by omega) k (by omega))))
  · exact fun tm => ⟨does_of_exec ((exec_write_terminusCounters hu tm).trans (congrArg _ ucWrite_overflow)),
      does_of_exec ((exec_write_terminusCounters hu tm).trans (congrArg _ ucWrite_notify))⟩
  · exact fun h => ⟨fun i => (exec_write_ticket hu h).trans (congrArg _ (tkWrite_data i)), exec_write_ticket hu h,
      fun h0 => (exec_write_ticket hu h).trans (congrArg _ (if_pos h0)), exec_write_ticket hu h,
      does_of_exec (exec_write_ticket hu h)⟩

end Sys2Proof.Machine
end
